-- ==== Sys2Proof/Word.lean ====
section
/-! DEFINITION. The word types of the Kaljec 2240: one name for each width that Table 0-3 and chapter 13 give a field. -/

namespace Sys2Proof

/-- One byte of a request, a cell, an order or a report. -/
abbrev Byte := BitVec 8

/-- A byte address on the memory request link (R142: addresses are taken modulo 2^32). -/
abbrev Addr := BitVec 32

/-- A 64-bit key: control word, group key or unit key (R25). -/
abbrev Key := BitVec 64

/-- A 32-bit keystream or record word. -/
abbrev Word := BitVec 32

/-- A fixture tag; 0 marks unsold programming (Table 0-3). -/
abbrev Tag := BitVec 16

/-- A pass identifier (Table 0-3). -/
abbrev PassId := BitVec 8

/-- A service number, 0 to 1,023 (Table 0-3). -/
abbrev Service := BitVec 10

/-- A period number, compared for equality alone (R30). -/
abbrev Period := BitVec 16

/-- Broadcast seconds (R134). -/
abbrev Seconds := BitVec 32

/-- A log, grant or cell sequence number (Table 0-3, R107, R125). -/
abbrev Seq := BitVec 32

/-- A price, paid amount, log amount or overdraft limit, 0 to 65,535 (Table 0-3). -/
abbrev Credit := BitVec 16

/-- A zone; 0 is unzoned (R55). -/
abbrev Zone := BitVec 8

/-- A group number; 0 belongs to no group (R32). -/
abbrev Group := BitVec 16

end Sys2Proof
end

