-- ==== Sys2Proof/Syntax.lean ====
section
/-! DEFINITION. The commands of the Kaljec 2240: one constructor of `Instr` for each row of spec/opcode_table.json, and the plain data its operands are made of. -/

namespace Sys2Proof

/-- Requester classes (Table 0-2). -/
inductive Cls where
  | cpu | transport | video | audio | display | periph | spare | internal
  deriving DecidableEq, Repr

/-- A read on the memory request link (R142). -/
structure ReadReq where
  addr : Addr
  len  : Nat
  cls  : Cls
  deriving DecidableEq, Repr

/-- A write on the memory request link: its bytes, and one enable for each (R142). Its length is the number of bytes. -/
structure WriteReq where
  addr    : Addr
  cls     : Cls
  data    : List Byte
  enables : List Bool
  deriving DecidableEq, Repr

/-- A request of either sort (R142). -/
inductive Request where
  | read  (r : ReadReq)
  | write (w : WriteReq)
  deriving DecidableEq, Repr

/-- An answer: the bytes (none for a write's acknowledgment) and the error flag (R142). -/
structure Answer where
  data : List Byte
  err  : Bool
  deriving DecidableEq, Repr

/-- The schedule part of a fixture entry (Table 4-1), as clamped by R69. -/
structure Schedule where
  service   : Service
  saleOpen  : Seconds
  kickOff   : Seconds
  finish    : Seconds
  base      : Credit
  floor     : Credit
  stepLen   : BitVec 16
  stepCut   : Credit
  allowance : BitVec 16
  blackout  : List Zone
  cancelled : Bool
  deriving DecidableEq, Repr

/-- The four entitlement kinds by name (R53). -/
inductive KindCode where
  | none | impulse | granted | pass
  deriving DecidableEq, Repr

/-- Ownership of a pass; only BOUGHT carries a paid amount (R80). -/
inductive Ownership where
  | none
  | bought (paid : Credit)
  | granted
  deriving DecidableEq, Repr

/-- Who caused a refund (Table 6-1). -/
inductive Cause where
  | operator | viewer
  deriving DecidableEq, Repr

/-- Kinds of purchase log entry; the refund cause is present for REFUND only (R106). -/
inductive LogKind where
  | purchase
  | passPurchase
  | refund (cause : Cause)
  deriving DecidableEq, Repr

/-- A purchase log entry (Table 6-1). -/
structure LogEntry where
  seq          : Seq
  kind         : LogKind
  ident        : BitVec 16
  amount       : Credit
  clock        : Seconds
  balanceAfter : Int
  deriving DecidableEq, Repr

/-- A group membership: group number and group key (Table 5-1). -/
structure Membership where
  group : Group
  key   : Key
  deriving DecidableEq, Repr

/-- The fields section S0 keeps (Table 12-1). The signed and the bounded fields are wider than their ranges, so that R173's range test means something. -/
structure S0Fields where
  balance     : Int
  reference   : Int
  spent       : Nat
  cap         : Nat
  overdraft   : Credit
  zone        : Zone
  memberships : List Membership
  lastSeq     : Seq
  nextSeq     : Seq
  deriving DecidableEq, Repr

/-- The fields section S1 keeps: the log count and the entries, oldest first (Table 12-1). `kindsOk` says that the kind and the refund
cause of every entry hold a value of Table 6-1, so that R173's range test means something for them too. -/
structure S1Fields where
  count   : Nat
  kindsOk : Bool
  entries : List LogEntry
  deriving DecidableEq, Repr

/-- A fixture record of S2; the schedule part is held exactly when the queued mark is set (R172). -/
structure FixtureRec where
  tag    : Tag
  kind   : KindCode
  passId : PassId
  paid   : Credit
  viewed : Bool
  queued : Option Schedule
  deriving DecidableEq, Repr

/-- A pass record of S2 (R172). -/
structure PassRec where
  id      : PassId
  owner   : Ownership
  members : List Tag
  deriving DecidableEq, Repr

/-- The records section S2 keeps (R172). -/
structure S2Fields where
  fixtures : List FixtureRec
  passes   : List PassRec
  deriving DecidableEq, Repr

/-- A captured image of a section (R176). -/
inductive SectionImage where
  | s0 (f : S0Fields)
  | s1 (entries : List LogEntry)
  | s2 (f : S2Fields)
  deriving DecidableEq, Repr

/-- What a section read brings back: the section's bytes, in address order, and what the fields they hold come to. The spec does not say
where in a section each field lies, so the fields stand beside the bytes (assumption log 12). -/
structure SectionBytes (α : Type) where
  bytes  : List Byte
  fields : α
  deriving DecidableEq, Repr

/-- A completed read of one of the three sections (R173). -/
inductive SectionRead where
  | s0 (r : SectionBytes S0Fields)
  | s1 (r : SectionBytes S1Fields)
  | s2 (r : SectionBytes S2Fields)
  deriving DecidableEq, Repr

/-- The three ways in which the memory does not acknowledge (R172). -/
inductive NoAck where
  | addressTimeout | wordAddressByte | dataByte
  deriving DecidableEq, Repr

/-- The commands, one constructor for each row of spec/opcode_table.json. A command that serves the message queue, takes the fetched
order or writes a report carries no operand: what it acts on stands in State. -/
inductive Instr where
  | powerOnReset
  | linkReset
  | upstreamRead (r : ReadReq)
  | upstreamWrite (w : WriteReq)
  | wholeCellWrite (w : WriteReq)
  | cellBreak (w : WriteReq)
  | gatedRead (r : ReadReq)
  | gatedReadAnswer (id : Nat) (a : Answer)
  | forwardedAnswer (id : Nat) (a : Answer)
  | slateReadAnswer (a : Answer)
  | ownWriteAck (err : Bool)
  | holdTimerExpiry (region slot : Nat)
  | unwrapCompletion
  | announcement
  | passCellCompletion
  | timeCellAdoption
  | groupSet
  | zoneSet
  | purseTopup
  | limitsSet
  | entitleFixture
  | entitlePass
  | revokeFixture
  | revokePass
  | logAck
  | nightReset
  | secondEvent
  | armingWrite (r : Request)
  | placementHeadReadAnswer (a : Answer)
  | placementDescriptorReadAnswer (a : Answer)
  | orderProducerWrite (w : WriteReq)
  | reportConsumerWrite (w : WriteReq)
  | orderFetch
  | orderFetchAnswer (a : Answer)
  | buyFixture
  | buyPass
  | cancel
  | quote
  | quotePass
  | purse
  | logRead
  | fixtureList
  | badOrder
  | placedReportWrite
  | replyRecordWrite
  | conditionWrite
  | eepromSectionRead (r : SectionRead)
  | writePassStart
  | pageWriteComplete
  | busArbitrationLoss
  | eepromNoAcknowledge (why : NoAck)
  | transactionReissue
  deriving DecidableEq, Repr

end Sys2Proof
end

