-- ==== Sys2Proof/Decode.lean ====
section
/-! DEFINITION. The command that a word spells. The part takes commands, not words: no row of spec/opcode_table.json gives bits (assumption log 1). -/

namespace Sys2Proof

/-- The command spelled by a word of `nbits` bits: none, since no row of the table gives bits (assumption log 1). -/
def decodeTableWord (_nbits _w : Nat) : Option Instr := none

end Sys2Proof
end

