-- ==== Sys2Proof/Config.lean ====
section
/-! DEFINITION. What is fixed at manufacture and what the spec leaves open: constants with no body, so that nothing can be proved of their values. -/

namespace Sys2Proof.Config

/-- The fused unit number less one: the fuse holds 1 to 4,294,967,295 (Table 0-3; assumption log 9). -/
opaque unitFuse : Fin 4294967295

/-- The fused unit key (section 0.4; assumption log 9). -/
opaque unitKey : Key

/-- FREE VALUE. R150: "Two requests presented together are taken in either order". At the n-th time that several requests are
presented together, the k-th of them takes the place `portPlace n k` among those already placed (assumption log 8). -/
opaque portPlace : Nat → Nat → Nat

/-- FREE VALUE. R82 and R84 change several members in one step, book a condition for each and do not say for which of them last. Of the
changed tags, each with the index of its entry, the one at place `latestOf` (modulo their number) is the last (assumption log 15). -/
opaque latestOf : List (Nat × Tag) → Nat

/-- FREE VALUE. The spec does not say where in a section each field lies. Byte `n` of the section that holds an image, between the mark and
the checksum, is `imageByte` of the image at `n` (assumption log 12). -/
opaque imageByte : SectionImage → Nat → Byte

/-- FREE VALUE. The spec gives neither the time at which a page write reaches its stop nor the interval at which the unit repeats the bus address after it
(R172). Of the cycles in which a page write is under way, the `n`-th is one in which the unit puts the bus address on the two-wire bus when `pollAt n` (assumption
log 37). -/
opaque pollAt : Nat → Bool

/-- The unit number of this decoder, never 0 (Table 0-3, R121). -/
def unitNumber : BitVec 32 := BitVec.ofNat 32 (unitFuse.val + 1)

end Sys2Proof.Config
end

