-- ==== Sys2Proof/Machine/State.lean ====
section
/-! DEFINITION. The state of the Kaljec 2240 as plain data, block by block (Table 0-1), and the state after power-on reset. -/

namespace Sys2Proof.Machine

/-- Why the machine stops with a fault. There is no such reason: the spec gives the part no condition that stops it (errors are flags,
conditions, result codes and refusals of orders, all of them state), so this type has no constructor. -/
inductive Fault where
  deriving DecidableEq, Repr

/-- Why a command has no meaning. -/
inductive Refusal where
  /-- Raised by `exec` for a command that has no meaning in the model yet; safe. No arm of `exec` raises it. -/
  | notModelled (mnemonic : String)
  deriving DecidableEq, Repr

/-! ### Memory path (chapter 9) -/

/-- Region kinds (R146). -/
inductive RegionKind where
  | cellRing | slate | orderRing | reportRing | shielded
  deriving DecidableEq, Repr

/-- A region of the map (R146). Bit `c` of a set stands for class `c`; bit 7 is ignored. -/
structure Region where
  kind    : RegionKind
  writers : BitVec 8
  readers : BitVec 8
  base    : Addr
  size    : Nat
  deriving DecidableEq, Repr

/-- How one part of a gated read is served (Table 1-9, R11, R17, R19). -/
inductive Serving where
  /-- Raw bytes of the forwarded answer. -/
  | raw
  /-- Descrambled under a control word, with the captured cell sequence as the seed (R12). -/
  | clear (word : Key) (seed : Seq)
  /-- Slate cell `reason`; the slate read's answer once it has returned (R11). -/
  | slate (reason : Fin 8) (answer : Option Answer)
  /-- UNDECIDED at arrival, awaiting the forwarded answer; stale after a rewrite or break (R17). -/
  | waiting (stale : Bool)
  /-- Held until the slot's hold ends (R18, R19). -/
  | held
  deriving DecidableEq, Repr

/-- A part of a gated read: the payload bytes it covers in one slot (R8). `start` is the index in the read of its first byte and `offset`
that byte's cell offset. -/
structure Part where
  region  : Nat
  slot    : Nat
  start   : Nat
  offset  : Nat
  len     : Nat
  serving : Serving
  deriving DecidableEq, Repr

/-- A request in flight on a class list (R144): its serial number, handled class, the request as presented to memory, its
gated parts, and its memory answer once that has returned. -/
structure Inflight where
  id     : Nat
  cls    : Cls
  req    : Request
  parts  : List Part
  answer : Option Answer
  deriving DecidableEq, Repr

/-- The part's own requests on the memory port (R150). -/
inductive OwnReq where
  /-- A slate read, for the part of read `readId` in the given slot (R11). -/
  | slateRead (addr : Addr) (len : Nat) (readId region slot : Nat)
  /-- The placement record's head (R157). -/
  | headRead (addr : Addr)
  /-- Descriptor bytes of the placement record (R157). -/
  | descriptorRead (addr : Addr) (len : Nat)
  /-- An order's 64 bytes (R164). -/
  | orderFetch (addr : Addr)
  /-- Any own write: result record, index word or report record (R150). -/
  | write (addr : Addr) (data : List Byte) (enables : List Bool)
  deriving DecidableEq, Repr

/-- The memory path: region map, requests in flight in arrival order (the class list of a class is its sublist), own
requests not yet answered in the port's order, and two counters of the model's own (assumption log 7, 8). -/
structure MemoryPath where
  regions  : List Region
  inflight : List Inflight
  own      : List OwnReq
  nextId   : Nat
  choices  : Nat
  deriving DecidableEq, Repr

/-! ### Cell tracker (chapter 1) -/

/-- The header fields captured from a PROGRAM cell (R1); parity true is odd. -/
structure Header where
  kind    : Byte
  parity  : Bool
  service : Service
  tag     : Tag
  period  : Period
  seq     : Seq
  deriving DecidableEq, Repr

/-- Hold origins (Table 1-8). -/
inductive Origin where
  | plain | entitled | preview
  deriving DecidableEq, Repr

/-- Verdicts of a PROGRAM slot (R3). A HELD verdict's timer is running; its remaining time is not kept (assumption log 10). -/
inductive Verdict where
  | undecided
  | held (origin : Origin) (service : Service) (parity : Bool) (period : Period)
  | clear (word : Key)
  | slate (reason : Fin 8)
  deriving DecidableEq, Repr

/-- Slot states (Table 1-7). -/
inductive SlotState where
  | empty
  | program (header : Header) (verdict : Verdict)
  | control
  | opaqueCell
  | broken
  deriving DecidableEq, Repr

/-- A slot record, known by its ring (the region's index) and slot number (R2). -/
structure Slot where
  region : Nat
  number : Nat
  st     : SlotState
  deriving DecidableEq, Repr

/-! ### Key bank table (chapter 2) -/

/-- Key bank slots (Table 2-3). -/
inductive KeySlot where
  | empty
  | pending (period : Period)
  | valid (period : Period) (word : Key)
  deriving DecidableEq, Repr

/-- A key bank entry in use (R29). -/
structure KeyEntry where
  service : Service
  even    : KeySlot
  odd     : KeySlot
  lastUse : Seconds
  deriving DecidableEq, Repr

/-! ### Message engine (chapter 7) -/

/-- Kinds of control cell (Table 1-6). -/
inductive CtrlKind where
  | key | grant | time | fixture | pass
  deriving DecidableEq, Repr

/-- A queued control cell: its kind and the 128 bytes handed over, from which every field is read (R118). -/
structure QCell where
  kind  : CtrlKind
  bytes : List Byte
  deriving DecidableEq, Repr

/-- The message queue, head first, and the group key looked up when the KEY cell at the head reached the head (R36, R118). -/
structure Engine where
  queue   : List QCell
  headKey : Option Key
  deriving DecidableEq, Repr

/-! ### Match clock (chapter 8) -/

/-- The match clock: RUNNING or UNSET, value, sub-second count (R134). -/
structure Clock where
  running : Bool
  value   : Seconds
  sub     : Nat
  deriving DecidableEq, Repr

/-! ### Fixture and pass tables (chapter 4) -/

/-- The phases of an entry that has a schedule part (R64). -/
inductive Phase where
  | listed | onSale | live | ended | retired | cancelled
  deriving DecidableEq, Repr

/-- An entry is AWAITING exactly when it has no schedule part (R64): the two stand in one sum. -/
inductive Standing where
  | awaiting
  | scheduled (schedule : Schedule) (phase : Phase)
  deriving DecidableEq, Repr

/-- Entitlement kinds; only IMPULSE carries a paid amount and only PASS an identifier (R64). -/
inductive Kind where
  | none
  | impulse (paid : Credit)
  | granted
  | pass (id : PassId)
  deriving DecidableEq, Repr

/-- A fixture entry in use (Table 4-1). -/
structure FixtureEntry where
  tag       : Tag
  standing  : Standing
  kind      : Kind
  viewed    : Bool
  remaining : Nat
  delivered : Bool
  deriving DecidableEq, Repr

/-- The schedule part of a pass entry (Table 4-5). -/
structure PassSale where
  opens  : Seconds
  closes : Seconds
  base   : Credit
  deriving DecidableEq, Repr

/-- A pass entry in use (Table 4-5). -/
structure PassEntry where
  id      : PassId
  members : List Tag
  sale    : Option PassSale
  owner   : Ownership
  deriving DecidableEq, Repr

/-! ### Purse and purchase log (chapters 5 and 6) -/

/-- The purse (Table 5-1). -/
structure Purse where
  balance     : Int
  reference   : Int
  spent       : Nat
  cap         : Nat
  overdraft   : Credit
  zone        : Zone
  memberships : List Membership
  lastSeq     : Seq
  deriving DecidableEq, Repr

/-- The purchase log: entries, oldest first, and the next sequence number (R105). -/
structure PurchaseLog where
  entries : List LogEntry
  next    : Seq
  deriving DecidableEq, Repr

/-! ### Placement unit (chapter 10) -/

/-- An arming run under way: arming count 1 to 7 and arming address (R154). -/
structure ArmingRun where
  count : Nat
  addr  : Addr
  deriving DecidableEq, Repr

/-- Placement states; READING keeps the run's address, the head once read, and the descriptor bytes read so far (R154, R157). -/
inductive PlacementState where
  | unplaced
  | reading (addr : Addr) (head : Option (List Byte)) (got : List Byte)
  | placed
  deriving DecidableEq, Repr

/-- The placement unit (R154). No run means arming count 0. -/
structure Placement where
  st            : PlacementState
  run           : Option ArmingRun
  attempts      : Nat
  pendingReport : Bool
  deriving DecidableEq, Repr

/-! ### Orders and reports (chapter 11) -/

/-- Outcomes and refusals of orders (Table 13-16). -/
inductive OrderOutcome where
  | accepted | noTime | unknownFixture | unknownPass | notOnSale | ended | cancelled | alreadyEntitled
  | blackedOut | priceChanged | logFull | capReached | noCredit | notCancellable | badOrder
  deriving DecidableEq, Repr

/-- Reasons of BAD_CELL and CELL_DROP (Table 7-2). -/
inductive CellReason where
  | badChecksum | badGrant | badTag | badSchedule | queueFull | keyTableFull | restoring
  deriving DecidableEq, Repr

/-- Which table TABLE_FULL speaks of (Table 13-15). -/
inductive TableName where
  | fixtureTable | passTable
  deriving DecidableEq, Repr

/-- Which index word INDEX_BAD speaks of (Table 13-15). -/
inductive IndexWord where
  | orderProducer | reportConsumer
  deriving DecidableEq, Repr

/-- A set of retention sections (R169). -/
structure SectionSet where
  s0 : Bool
  s1 : Bool
  s2 : Bool
  deriving DecidableEq, Repr

/-- The ten condition kinds in rank order (Table 11-2). -/
inductive CondKind where
  | storeLost | refundWaiting | logNearlyFull | entitlementChanged | cellDrop | badCell | shieldHit | tableFull | clockJump | indexBad
  deriving DecidableEq, Repr

/-- The data of a CONDITION record (Table 13-15). -/
inductive CondData where
  | sections (s : SectionSet)
  | length (n : Nat)
  | tag (t : Tag)
  | reason (r : CellReason)
  | shield (cls : Cls) (region : Nat)
  | table (ident : BitVec 16) (t : TableName)
  | difference (d : Int)
  | index (value : BitVec 32) (word : IndexWord)
  deriving DecidableEq, Repr

/-- A condition: booked mark, count, and the data of its last booking (R169); no data when it is cleared. -/
structure Cond where
  booked : Bool
  count  : Nat
  data   : Option CondData
  deriving DecidableEq, Repr

/-- The booked condition set, one condition of each kind (R169). -/
structure Conditions where
  storeLost          : Cond
  refundWaiting      : Cond
  logNearlyFull      : Cond
  entitlementChanged : Cond
  cellDrop           : Cond
  badCell            : Cond
  shieldHit          : Cond
  tableFull          : Cond
  clockJump          : Cond
  indexBad           : Cond
  deriving DecidableEq, Repr

/-- The values a PLACED report carries (R161). -/
structure PlacedReport where
  unit     : BitVec 32
  balance  : Int
  logCount : Nat
  running  : Bool
  deriving DecidableEq, Repr

/-- The fields of a REPLY from byte 8, by order kind (Table 13-12). -/
inductive ReplyBody where
  | purchase (price : Nat) (logSeq : Seq) (balance : Int)
  | cancel (logSeq : Seq) (balance : Int)
  | quote (entry : Option FixtureEntry) (price : Nat) (blackout : Bool) (refusal : OrderOutcome)
  | quotePass (entry : Option PassEntry) (price : Nat) (refusal : OrderOutcome)
  | purse (p : Purse) (logCount : Nat) (next : Seq) (clock : Seconds) (running : Bool)
  | logRead (returned : Nat) (next : Seq)
  | fixtureList (returned next : Nat)
  | bad
  deriving DecidableEq, Repr

/-- A record of the report ring (Tables 13-10 to 13-15). -/
inductive Report where
  | placed (p : PlacedReport)
  | reply (kindByte : Byte) (outcome : OrderOutcome) (slot : Nat) (orderNo : BitVec 32) (body : ReplyBody)
  | logEntry (orderNo : BitVec 32) (e : LogEntry)
  | fixtureEntry (orderNo : BitVec 32) (index : Nat) (e : FixtureEntry)
  | condition (k : CondKind) (count : Nat) (data : Option CondData)
  deriving DecidableEq, Repr

/-- A view of a ring: base, capacity in slots, producer and consumer (R162, R168). -/
structure RingView where
  base : Addr
  cap  : Nat
  prod : Nat
  cons : Nat
  deriving DecidableEq, Repr

/-- Order unit states (R162): FETCHING keeps the slot fetched and the fetch's answer once returned; REPLYING the records still to write. -/
inductive OrderState where
  | idle
  | waitingRoom
  | fetching (slot : Nat) (answer : Option Answer)
  | replying (records : List Report)
  deriving DecidableEq, Repr

/-- The order unit (R162). -/
structure OrderUnit where
  st   : OrderState
  view : Option RingView
  deriving DecidableEq, Repr

/-- The report writer (R168). -/
structure ReportWriter where
  view   : Option RingView
  placed : Option PlacedReport
  deriving DecidableEq, Repr

/-! ### Retention unit (chapter 12) -/

/-- What a section read was judged to be (R173). -/
inductive Judged (α : Type) where
  | blank
  | lost
  | good (fields : α)
  deriving DecidableEq, Repr

/-- Retention states (R172). RESTORING keeps the sections judged so far; WRITING the captured images still to write, the first being
written, the page under way: 0 for page 0 with the mark OPEN, then the following pages, last page 0 again with the mark CLOSED; and whether the page has reached
its stop, so that the unit repeats the bus address until it is acknowledged. -/
inductive RetentionState where
  | restoring (s0 : Option (Judged S0Fields)) (s1 : Option (Judged (List LogEntry)))
  | idle
  | writing (images : List SectionImage) (page : Nat) (polling : Bool)
  | offline
  deriving DecidableEq, Repr

/-- The retention unit: state, dirty marks, whether an abandoned transaction waits for a stop (R172), and a counter of the model's own, of the cycles in which a page
write was under way (assumption log 37). -/
structure Retention where
  st           : RetentionState
  dirty        : SectionSet
  awaitingStop : Bool
  turns        : Nat
  deriving DecidableEq, Repr

/-! ### What the part puts on its pins -/

/-- Names of the three sections (Table 12-1). -/
inductive SectionName where
  | s0 | s1 | s2
  deriving DecidableEq, Repr

/-- Whole two-wire transactions (R172): the bus address, the two-byte word address, and the bytes asked for or written; and the bus address alone, as the unit
repeats it after a page write's stop. -/
inductive BusTransaction where
  | read (device : BitVec 7) (word : BitVec 16) (len : Nat)
  | write (device : BitVec 7) (word : BitVec 16) (data : List Byte)
  | poll (device : BitVec 7)
  deriving DecidableEq, Repr

/-- One thing the part puts on its pins: a forwarded or own request issued on the memory port (R150), an answer returned upstream
(R145), or a transaction started on the two-wire bus (R172). -/
inductive Emission where
  | forward (id : Nat) (cls : Cls) (req : Request)
  | own (r : OwnReq)
  | answer (id : Nat) (cls : Cls) (a : Answer)
  | bus (t : BusTransaction)
  deriving DecidableEq, Repr

/-- What is fused at manufacture: unit number and unit key (section 0.4). -/
structure Fuses where
  number : BitVec 32
  key    : Key
  deriving DecidableEq, Repr

/-- The whole part. `pending` is the queue of commands that wait, first in first out; `emitted` records what the part has put on its pins. -/
structure State where
  pending   : List Instr
  emitted   : List Emission
  unit      : Fuses
  path      : MemoryPath
  slots     : List Slot
  keys      : List (Option KeyEntry)
  engine    : Engine
  clock     : Clock
  fixtures  : List (Option FixtureEntry)
  refunds   : List Tag
  passes    : List (Option PassEntry)
  purse     : Purse
  log       : PurchaseLog
  placement : Placement
  orders    : OrderUnit
  reports   : ReportWriter
  conds     : Conditions
  store     : Retention
  deriving DecidableEq, Repr

/-- A condition that is not booked (R169). -/
def Cond.none : Cond := ⟨false, 0, Option.none⟩

/-- No condition booked (R171). -/
def Conditions.none : Conditions :=
  ⟨.none, .none, .none, .none, .none, .none, .none, .none, .none, .none⟩

/-- The purse's defaults (Table 5-2). -/
def Purse.defaults : Purse :=
  { balance := 0, reference := 0, spent := 0, cap := 0, overdraft := 0, zone := 0,
    memberships := List.replicate 4 ⟨0, 0⟩, lastSeq := 0 }

/-- The part right after power-on reset: every block cleared, the clock UNSET (R134), the purse at its defaults (R87), the log empty with next sequence
number 1 (R117), the restore begun with the read of S0 (R172, R174), as one transaction (DESIGN CHOICE, assumption log 36). The fuses are the opaque constants of
`Config`; the reset values of `nextId`, `choices`, `turns` and `emitted`, which are the model's own, are DESIGN CHOICES (assumption log 6, 7, 8, 9, 37). -/
def State.reset : State :=
  { pending := []
    emitted := [.bus (.read 0b1010010 0x0000 128)]
    unit := { number := Config.unitNumber, key := Config.unitKey }
    path := { regions := [], inflight := [], own := [], nextId := 0, choices := 0 }
    slots := []
    keys := List.replicate 16 Option.none
    engine := { queue := [], headKey := Option.none }
    clock := { running := false, value := 0, sub := 0 }
    fixtures := List.replicate 32 Option.none
    refunds := []
    passes := List.replicate 4 Option.none
    purse := Purse.defaults
    log := { entries := [], next := 1 }
    placement := { st := .unplaced, run := Option.none, attempts := 0, pendingReport := false }
    orders := { st := .idle, view := Option.none }
    reports := { view := Option.none, placed := Option.none }
    conds := Conditions.none
    store := { st := .restoring Option.none Option.none, dirty := ⟨false, false, false⟩, awaitingStop := false, turns := 0 } }

end Sys2Proof.Machine
end

