-- ==== Sys2Proof/Machine/Operands.lean ====
section
/-! DEFINITION. Reading and writing the fields of records: bytes, little-endian words (R178), class codes (Table 0-2), and the cell, grant, announcement,
pass and order layouts of chapter 13. -/

namespace Sys2Proof.Machine

/-! ### Bytes and little-endian fields (R178) -/

/-- Byte `i` of a record; 0 past its end. -/
def byteAt (bs : List Byte) (i : Nat) : Byte := bs.getD i 0

/-- The two-byte field at `i`. -/
def le16 (bs : List Byte) (i : Nat) : BitVec 16 := byteAt bs (i + 1) ++ byteAt bs i

/-- The four-byte field at `i`. -/
def le32 (bs : List Byte) (i : Nat) : BitVec 32 := le16 bs (i + 2) ++ le16 bs i

/-- The bytes of a two-byte field. -/
def bytes16 (v : BitVec 16) : List Byte := [v.extractLsb' 0 8, v.extractLsb' 8 8]

/-- The bytes of a four-byte field. -/
def bytes32 (v : BitVec 32) : List Byte :=
  [v.extractLsb' 0 8, v.extractLsb' 8 8, v.extractLsb' 16 8, v.extractLsb' 24 8]

/-- The bytes of a signed four-byte field, in two's complement. -/
def bytesInt (z : Int) : List Byte := bytes32 (BitVec.ofInt 32 z)

/-- The sum of all bytes modulo 256, the one checksum computation of R178. -/
def sumBytes (bs : List Byte) : Byte := bs.foldl (· + ·) 0

/-- A record of `n` bytes: each listed field at its offset, every other byte 0 (R179). -/
def record (n : Nat) (fields : List (Nat × List Byte)) : List Byte :=
  (List.range n).map fun i =>
    match fields.find? (fun f => f.1 ≤ i && i < f.1 + f.2.length) with
    | some f => byteAt f.2 (i - f.1)
    | none => 0

/-! ### Classes (section 0.3) -/

/-- The class number (Table 0-2). -/
def classCode : Cls → Nat
  | .cpu => 0 | .transport => 1 | .video => 2 | .audio => 3 | .display => 4 | .periph => 5 | .spare => 6 | .internal => 7

/-- The class under which an upstream request is handled: one marked class 7 is handled as class 6 (R143). -/
def handled : Cls → Cls
  | .internal => .spare
  | c => c

/-- Membership in a writer set or clear-reader set (R146). -/
def inSet (set : BitVec 8) (c : Cls) : Bool := set.getLsbD (classCode c)

/-! ### Cells (Tables 1-6, 13-1) -/

/-- The three classes of cell (Table 1-6). -/
inductive CellClass where
  | program
  | control (k : CtrlKind)
  | opaqueCell
  deriving DecidableEq, Repr

/-- Classification by the kind byte (R1, Table 1-6). -/
def classify (kind : Byte) : CellClass :=
  if kind = 1 then .program
  else if kind = 2 then .control .key
  else if kind = 3 then .control .grant
  else if kind = 4 then .control .time
  else if kind = 5 then .control .fixture
  else if kind = 6 then .control .pass
  else .opaqueCell

/-- The header fields of a cell (R1, Table 13-1): parity is bit 0 of the flags, the service the low 10 bits of its field. -/
def parseHeader (cell : List Byte) : Header :=
  { kind := byteAt cell 0
    parity := (byteAt cell 1).getLsbD 0
    service := (le16 cell 2).setWidth 10
    tag := le16 cell 4
    period := le16 cell 6
    seq := le32 cell 8 }

/-- Payload byte `p` of a cell, which is cell offset 16 + p (section 0.7). -/
def pay8 (cell : List Byte) (p : Nat) : Byte := byteAt cell (16 + p)

/-- The two-byte payload field at `p`. -/
def pay16 (cell : List Byte) (p : Nat) : BitVec 16 := le16 cell (16 + p)

/-- The four-byte payload field at `p`. -/
def pay32 (cell : List Byte) (p : Nat) : BitVec 32 := le32 cell (16 + p)

/-- The checksum over the 112 payload bytes closes to 0 (R119, R178). -/
def checksumOk (cell : List Byte) : Bool := sumBytes ((cell.drop 16).take 112) == 0

/-! ### KEY cells (Table 13-2) -/

/-- Target group of a KEY cell. -/
def keyGroup (cell : List Byte) : Group := pay16 cell 0

/-! ### GRANT cells (Tables 13-5, 13-6) -/

/-- Target kind: 0 unit, 1 group. -/
def grantTarget (cell : List Byte) : Byte := pay8 cell 0

/-- Grant kind, 1 to 8. -/
def grantKind (cell : List Byte) : Byte := pay8 cell 1

/-- Unit number of a unit-addressed grant. -/
def grantUnit (cell : List Byte) : BitVec 32 := pay32 cell 2

/-- Group number of a group-addressed grant. -/
def grantGroup (cell : List Byte) : Group := pay16 cell 2

/-- Grant sequence. -/
def grantSeq (cell : List Byte) : Seq := pay32 cell 6

/-- Operand byte 0, payload byte 10: membership slot, zone, or the target byte of ENTITLE and REVOKE. -/
def grantOp (cell : List Byte) : Byte := pay8 cell 10

/-- Tag or identifier of ENTITLE and REVOKE, and the group number of GROUP_SET: operand bytes 1 and 2. -/
def grantIdent (cell : List Byte) : BitVec 16 := pay16 cell 11

/-- Amount, spending cap or acknowledged sequence: operand bytes 0 to 3. -/
def grantAmount (cell : List Byte) : BitVec 32 := pay32 cell 10

/-- Overdraft limit of LIMITS_SET. -/
def grantOverdraft (cell : List Byte) : Credit := pay16 cell 14

/-! ### FIXTURE and PASS cells (Tables 13-3, 13-4) -/

/-- Status byte of an announcement: 0 SCHEDULED, 1 CANCELLED. -/
def announceStatus (cell : List Byte) : Byte := pay8 cell 0

/-- A number held within bounds (R69). -/
def clamp16 (lo hi : BitVec 16) (v : BitVec 16) : BitVec 16 :=
  if v.toNat < lo.toNat then lo else if hi.toNat < v.toNat then hi else v

/-- The clamped schedule part of an announcement (R69). -/
def announceSchedule (cell : List Byte) : Schedule :=
  let base := pay16 cell 14
  let floor := pay16 cell 16
  { service := (parseHeader cell).service
    saleOpen := pay32 cell 2
    kickOff := pay32 cell 6
    finish := pay32 cell 10
    base := base
    floor := if base.toNat < floor.toNat then base else floor
    stepLen := clamp16 60 3600 (pay16 cell 18)
    stepCut := pay16 cell 20
    allowance := clamp16 0 900 (pay16 cell 22)
    blackout := (List.range (min (pay8 cell 1).toNat 16)).map (fun i => pay8 cell (24 + i))
    cancelled := announceStatus cell == 1 }

/-- The sale window and base price of a PASS cell. -/
def passSale (cell : List Byte) : PassSale :=
  { opens := pay32 cell 2, closes := pay32 cell 6, base := pay16 cell 10 }

/-- The member list of a PASS cell: the first count tags, a count above 16 taken as 16 (R81). -/
def passMembers (cell : List Byte) : List Tag :=
  (List.range (min (pay8 cell 1).toNat 16)).map (fun i => pay16 cell (12 + 2 * i))

/-! ### Orders (Table 13-9) -/

/-- Order kind byte. -/
def orderKind (o : List Byte) : Byte := byteAt o 0

/-- Order number. -/
def orderNumber (o : List Byte) : BitVec 32 := le32 o 4

/-- Fixture tag operand. -/
def orderTag (o : List Byte) : Tag := le16 o 8

/-- Pass identifier operand, and the start index of FIXTURE_LIST: one byte (R179). -/
def orderByte (o : List Byte) : Byte := byteAt o 8

/-- Stated price operand. -/
def orderPrice (o : List Byte) : Credit := le16 o 10

/-- From-sequence operand of LOG_READ. -/
def orderFrom (o : List Byte) : Seq := le32 o 8

/-- Count operand of LOG_READ. -/
def orderCount (o : List Byte) : Byte := byteAt o 12

end Sys2Proof.Machine
end

