-- ==== Sys2Proof/Machine/Flags.lean ====
section
/-! DEFINITION. Booked conditions (R169), the ALERT output (R170) and the dirty marks of the retention unit (R172). -/

namespace Sys2Proof.Machine

/-! ### Conditions (R169) -/

/-- The data after a booking: the booking's data, save that a set of sections is added to the set held (R169, STORE_LOST). -/
def mergeData : Option CondData → CondData → CondData
  | some (.sections a), .sections b => .sections ⟨a.s0 || b.s0, a.s1 || b.s1, a.s2 || b.s2⟩
  | _, d => d

/-- One booking: the mark is set, the count rises by 1 and saturates at 65,535, the data is replaced (R169). -/
def Cond.book (c : Cond) (d : CondData) : Cond :=
  { booked := true, count := min (c.count + 1) 65535, data := some (mergeData c.data d) }

/-- The condition of a kind. -/
def Conditions.get (c : Conditions) : CondKind → Cond
  | .storeLost => c.storeLost
  | .refundWaiting => c.refundWaiting
  | .logNearlyFull => c.logNearlyFull
  | .entitlementChanged => c.entitlementChanged
  | .cellDrop => c.cellDrop
  | .badCell => c.badCell
  | .shieldHit => c.shieldHit
  | .tableFull => c.tableFull
  | .clockJump => c.clockJump
  | .indexBad => c.indexBad

/-- The set with one condition replaced. -/
def Conditions.set (c : Conditions) (k : CondKind) (v : Cond) : Conditions :=
  match k with
  | .storeLost => { c with storeLost := v }
  | .refundWaiting => { c with refundWaiting := v }
  | .logNearlyFull => { c with logNearlyFull := v }
  | .entitlementChanged => { c with entitlementChanged := v }
  | .cellDrop => { c with cellDrop := v }
  | .badCell => { c with badCell := v }
  | .shieldHit => { c with shieldHit := v }
  | .tableFull => { c with tableFull := v }
  | .clockJump => { c with clockJump := v }
  | .indexBad => { c with indexBad := v }

/-- The ten kinds, highest rank first (Table 11-2). -/
def rankOrder : List CondKind :=
  [.storeLost, .refundWaiting, .logNearlyFull, .entitlementChanged, .cellDrop, .badCell, .shieldHit, .tableFull, .clockJump, .indexBad]

/-- The highest-ranked booked condition (R168). -/
def Conditions.highest (c : Conditions) : Option CondKind := rankOrder.find? (fun k => (c.get k).booked)

/-- A block books a condition in the step of its own event (R169). -/
def State.book (k : CondKind) (d : CondData) (s : State) : State :=
  { s with conds := s.conds.set k ((s.conds.get k).book d) }

/-- A condition is unbooked: mark, count and data are cleared (R169, R113). -/
def State.unbook (k : CondKind) (s : State) : State :=
  { s with conds := s.conds.set k Cond.none }

/-! ### ALERT (R170) -/

/-- Unconsumed records of a ring: (producer - consumer) modulo the capacity (R163). -/
def RingView.unconsumed (v : RingView) : Nat := (v.prod + v.cap - v.cons) % v.cap

/-- ALERT is asserted while the report ring holds an unconsumed record or any condition is booked (R170). -/
def State.alert (s : State) : Bool :=
  s.conds.highest.isSome ||
    match s.reports.view with
    | some v => v.unconsumed != 0
    | none => false

/-! ### Dirty marks (R172) -/

/-- S0 is marked dirty when `b` holds; a mark once set stays. -/
def State.markS0 (b : Bool) (s : State) : State :=
  { s with store := { s.store with dirty := { s.store.dirty with s0 := s.store.dirty.s0 || b } } }

/-- S1 is marked dirty when `b` holds. -/
def State.markS1 (b : Bool) (s : State) : State :=
  { s with store := { s.store with dirty := { s.store.dirty with s1 := s.store.dirty.s1 || b } } }

/-- S2 is marked dirty when `b` holds. -/
def State.markS2 (b : Bool) (s : State) : State :=
  { s with store := { s.store with dirty := { s.store.dirty with s2 := s.store.dirty.s2 || b } } }

end Sys2Proof.Machine
end

