-- ==== Sys2Proof/Machine/Scrambler.lean ====
section
/-! DEFINITION. The scrambler: keystream (R25) and its three uses (Table 2-1). It has no state. -/

namespace Sys2Proof.Machine

/-- Key bytes 0 to 3 (R25). -/
def keyA (key : Key) : Word := key.extractLsb' 0 32

/-- Key bytes 4 to 7 (R25). -/
def keyB (key : Key) : Word := key.extractLsb' 32 32

/-- A key whose bytes 0 to 3 are `c0` and bytes 4 to 7 `c1` (R27). -/
def keyOf (c0 c1 : Word) : Key := c1 ++ c0

/-- The two state words x and y at step `j` (R25). -/
def scramble (key : Key) (seed : Word) : Nat → Word × Word
  | 0 => (keyA key ^^^ seed, keyB key)
  | j + 1 =>
    let (x, y) := scramble key seed j
    let x' := 69069#32 * x + y + 1#32
    (x', y.rotateLeft 5 ^^^ x')

/-- Keystream word `j` (R25). -/
def keystream (key : Key) (seed : Word) (j : Nat) : Word :=
  (scramble key seed j).1 ^^^ (scramble key seed j).2

/-- Unwrapping of an 8-byte key under `key` and `seed`, used for control words (R27) and group keys (R28). -/
def unwrap (key : Key) (seed : Word) (w0 w1 : Word) : Key :=
  keyOf (w0 ^^^ keystream key seed 0) (w1 ^^^ keystream key seed 1)

/-- The served value of payload byte `p` whose stored value is `b`: its byte of the word XOR the keystream word of index p / 4 (R12, R26). -/
def descramble (word : Key) (seed : Seq) (p : Nat) (b : Byte) : Byte :=
  b ^^^ (keystream word seed (p / 4)).extractLsb' (8 * (p % 4)) 8

end Sys2Proof.Machine
end

