-- ==== Sys2Proof/Machine/Ops.lean ====
section
/-! DEFINITION. The operations that several blocks share: the memory port and the class lists, the tables' lookup and eviction, the purse's
refund, the making of a log entry, and the setters that keep the dirty marks. -/

namespace Sys2Proof.Machine

/-- The clock value that a block takes: the clock's value, or 0 while it is UNSET (R134, R140). -/
def State.now (s : State) : Seconds := if s.clock.running then s.clock.value else 0

/-! ### The memory port (R150) -/

/-- Things put on the pins, in order. -/
def State.emit (es : List Emission) (s : State) : State := { s with emitted := s.emitted ++ es }

/-- The own request that an emission issues, if it is one. -/
def ownOf : Emission → Option OwnReq
  | .own r => some r
  | _ => none

/-- Requests presented to the memory port in the order given; the own ones await their answers in that order (R150, R151). -/
def State.present (es : List Emission) (s : State) : State :=
  { s with emitted := s.emitted ++ es, path := { s.path with own := s.path.own ++ es.filterMap ownOf } }

/-- Insertion of the requests still to place into those placed, at the places `Config.portPlace` gives for the `n`-th free choice. -/
def shuffleFrom (n : Nat) : Nat → List Emission → List Emission → List Emission
  | _, acc, [] => acc
  | k, acc, e :: es => shuffleFrom n (k + 1) (acc.insertIdx (Config.portPlace n k % (acc.length + 1)) e) es

/-- The order in which the port takes requests presented together: any order at all (R150, assumption log 8). -/
def shuffle (n : Nat) (es : List Emission) : List Emission := shuffleFrom n 0 [] es

/-- Requests presented together (R150). One request alone leaves no choice. -/
def State.presentTogether (es : List Emission) (s : State) : State :=
  match es with
  | [] => s
  | [e] => s.present [e]
  | es => State.present (shuffle s.path.choices es) { s with path := { s.path with choices := s.path.choices + 1 } }

/-- The oldest own request has been answered (R151). -/
def State.popOwn (s : State) : State := { s with path := { s.path with own := s.path.own.tail } }

/-- Address of byte `i` of a request at `a` (R142). -/
def addrAt (a : Addr) (i : Nat) : Nat := (a.toNat + i) % 4294967296

/-- A 16-byte own write of an index word, with enables on for the word's four bytes alone (R160, R164, R168). -/
def indexWrite (a : Addr) (v : Nat) : Emission :=
  .own (.write a (bytes32 (BitVec.ofNat 32 v) ++ List.replicate 12 0) (List.replicate 4 true ++ List.replicate 12 false))

/-- An own write of whole bytes (R179). -/
def wholeWrite (a : Addr) (data : List Byte) : Emission := .own (.write a data (List.replicate data.length true))

/-! ### Regions (R146) -/

/-- A byte lies in a region when its address is at or after the base and before base + size (R146). -/
def Region.contains (r : Region) (a : Nat) : Bool := r.base.toNat ≤ a && a < r.base.toNat + r.size

/-- The region, with its index, in which a byte lies; none for a plain byte (R146). -/
def locateFrom (i : Nat) : List Region → Nat → Option (Nat × Region)
  | [], _ => none
  | r :: rs, a => if r.contains a then some (i, r) else locateFrom (i + 1) rs a

/-- The region of a byte address. -/
def locate (regions : List Region) (a : Nat) : Option (Nat × Region) := locateFrom 0 regions a

/-- The slate region's base (R11); a placed part has exactly one (R158). -/
def State.slateBase (s : State) : Addr :=
  match s.path.regions.find? (fun r => r.kind == .slate) with
  | some r => r.base
  | none => 0

/-! ### Gated reads: service and answers (R9 to R12, R145) -/

/-- The slate read for a part of read `id` served with slate cell `r`: it covers exactly the slate offsets the part covers (R11). -/
def State.slateRequest (s : State) (id : Nat) (p : Part) (r : Fin 8) : Emission :=
  .own (.slateRead (s.slateBase + BitVec.ofNat 32 (128 * r.val + p.offset)) p.len id p.region p.slot)

/-- A part is settled and has all the bytes it is served from but the forwarded answer's (R9). -/
def Part.done (p : Part) : Bool :=
  match p.serving with
  | .raw => true
  | .clear _ _ => true
  | .slate _ a => a.isSome
  | .waiting _ => false
  | .held => false

/-- The part covers byte `i` of its read. -/
def Part.covers (p : Part) (i : Nat) : Bool := p.start ≤ i && i < p.start + p.len

/-- The served value of byte `i` of a read whose stored value is `b` (Table 1-9, R11, R12). -/
def Part.serve (p : Part) (i : Nat) (b : Byte) : Byte :=
  match p.serving with
  | .clear word seed => descramble word seed (p.offset - 16 + (i - p.start)) b
  | .slate _ (some a) => if a.err then 0 else byteAt a.data (i - p.start)
  | _ => b

/-- The slate read of this part failed (R11). -/
def Part.failed (p : Part) : Bool :=
  match p.serving with
  | .slate _ (some a) => a.err
  | _ => false

/-- An answer is ready when memory has answered and every gated part is settled and served (R145). -/
def Inflight.ready (e : Inflight) : Bool := e.answer.isSome && e.parts.all Part.done

/-- The answer returned to the requester: raw bytes outside gated parts, each part as it is served, and the error flag of memory or of a
failed slate read (R8, R10, R11, R152). -/
def Inflight.final (e : Inflight) : Answer :=
  match e.answer with
  | none => { data := [], err := false }
  | some a =>
    { data := a.data.mapIdx (fun i b =>
        match e.parts.find? (fun p => p.covers i) with
        | some p => p.serve i b
        | none => b)
      err := a.err || e.parts.any Part.failed }

/-- The answers that can be returned: in each class the oldest ready ones, up to the first that is not ready (R145). `blocked` holds the
classes with an older request still in flight. -/
def drainList : List Cls → List Inflight → List Inflight × List Emission
  | _, [] => ([], [])
  | blocked, e :: es =>
    if blocked.contains e.cls || !e.ready then
      let rest := drainList (e.cls :: blocked) es
      (e :: rest.1, rest.2)
    else
      let rest := drainList blocked es
      (rest.1, Emission.answer e.id e.cls e.final :: rest.2)

/-- Ready answers leave their class lists in arrival order (R145). -/
def State.drain (s : State) : State :=
  let r := drainList [] s.path.inflight
  { s with emitted := s.emitted ++ r.2, path := { s.path with inflight := r.1 } }

/-- The class list of a class, oldest first (section 9.2). -/
def State.classList (s : State) (c : Cls) : List Inflight := s.path.inflight.filter (fun e => e.cls == c)

/-! ### Tables with free and used entries -/

/-- The first entry in use that satisfies `p`. -/
def tableFind {α : Type} (t : List (Option α)) (p : α → Bool) : Option α := t.findSome? (fun o => o.filter p)

/-- Every entry in use that satisfies `p` becomes what `f` gives, or free. -/
def tableUpdate {α : Type} (t : List (Option α)) (p : α → Bool) (f : α → Option α) : List (Option α) :=
  t.map (fun o => o.bind (fun e => if p e then f e else some e))

/-- The lowest-indexed free entry. -/
def freeIndex {α : Type} (t : List (Option α)) : Option Nat := t.findIdx? (·.isNone)

/-- Scan for the least key among the entries that have one, the lowest index winning a tie. -/
def leastFrom {α : Type} (key : α → Option Nat) : List (Option α) → Nat → Option (Nat × Nat) → Option (Nat × Nat)
  | [], _, best => best
  | o :: os, i, best =>
    leastFrom key os (i + 1)
      (match o.bind key, best with
       | none, b => b
       | some k, none => some (k, i)
       | some k, some b => if k < b.1 then some (k, i) else some b)

/-- The index of the entry with the least key, the lowest index among equals (R34, R71, R81). -/
def leastIndex {α : Type} (t : List (Option α)) (key : α → Option Nat) : Option Nat :=
  (leastFrom key t 0 none).map (·.2)

/-- The place of a new entry: the lowest free one, otherwise the one chosen for eviction (R33, R64, R81). -/
def allocate {α : Type} (t : List (Option α)) (key : α → Option Nat) : Option Nat :=
  match freeIndex t with
  | some i => some i
  | none => leastIndex t key

/-! ### Fixture table: lookup, and the setter that keeps S2's dirty mark (R65) -/

/-- The schedule part of an entry (R64). -/
def FixtureEntry.schedule (e : FixtureEntry) : Option Schedule :=
  match e.standing with
  | .awaiting => none
  | .scheduled sch _ => some sch

/-- The paid amount, nonzero only for kind IMPULSE (R64). -/
def FixtureEntry.paid (e : FixtureEntry) : Credit :=
  match e.kind with
  | .impulse a => a
  | _ => 0

/-- The fixture entry that holds a tag. -/
def State.fixture (s : State) (t : Tag) : Option FixtureEntry := tableFind s.fixtures (fun e => e.tag == t)

/-- A change at one index of the fixture table changes something S2 keeps: the retained part of an entry whose kind is other than NONE before or after,
or the schedule part of an entry whose tag is in the refund queue (R65). -/
def retainedChange (queue : List Tag) : Option FixtureEntry → Option FixtureEntry → Bool
  | none, none => false
  | some a, none => a.kind != .none
  | none, some b => b.kind != .none
  | some a, some b =>
    ((a.kind != .none || b.kind != .none) && (a.tag != b.tag || a.kind != b.kind || a.viewed != b.viewed)) ||
      (queue.contains b.tag && a.schedule != b.schedule)

/-- The fixture table takes new entries, and S2 is marked dirty where R65 says so. -/
def State.setFixtures (t : List (Option FixtureEntry)) (s : State) : State :=
  State.markS2 ((List.zip s.fixtures t).any (fun p => retainedChange s.refunds p.1 p.2)) { s with fixtures := t }

/-- The entry that holds a tag is changed. -/
def State.updateFixture (t : Tag) (f : FixtureEntry → FixtureEntry) (s : State) : State :=
  s.setFixtures (tableUpdate s.fixtures (fun e => e.tag == t) (fun e => some (f e)))

/-- Entries that satisfy `p` go out of use (R64). -/
def State.removeFixtures (p : FixtureEntry → Bool) (s : State) : State :=
  s.setFixtures (tableUpdate s.fixtures p (fun _ => none))

/-- The eviction key of a fixture entry: its end, for the candidates of R71. -/
def evictKey (queue : List Tag) (e : FixtureEntry) : Option Nat :=
  match e.standing with
  | .scheduled sch .retired => some sch.finish.toNat
  | .scheduled sch .cancelled => if queue.contains e.tag then none else some sch.finish.toNat
  | _ => none

/-- Where a new fixture entry goes (R64, R71). -/
def State.fixturePlace (s : State) : Option Nat := allocate s.fixtures (evictKey s.refunds)

/-- A new fixture entry is created at its place; none when no place can be had (R64, R71). -/
def State.createFixture (e : FixtureEntry) (s : State) : Option State :=
  s.fixturePlace.map (fun i => s.setFixtures (s.fixtures.set i (some e)))

/-- The refund queue takes a new value; a change of membership or order marks S2 dirty (R65). -/
def State.setRefunds (q : List Tag) (s : State) : State :=
  State.markS2 (q != s.refunds) { s with refunds := q }

/-- ENTITLEMENT_CHANGED is booked with a tag (Table 11-2). -/
def State.bookEntitlement (t : Tag) (s : State) : State := s.book .entitlementChanged (.tag t)

/-! ### Pass table: lookup, and the setter that keeps S2's dirty mark (R80) -/

/-- A pass is owned when its ownership is BOUGHT or GRANTED (R80). -/
def PassEntry.owned (p : PassEntry) : Bool := p.owner != .none

/-- The paid amount of an ownership, nonzero only for BOUGHT (R80). -/
def ownershipPaid : Ownership → Credit
  | .bought a => a
  | _ => 0

/-- The pass entry with an identifier. -/
def State.pass (s : State) (id : PassId) : Option PassEntry := tableFind s.passes (fun p => p.id == id)

/-- A change at one index of the pass table changes something S2 keeps of an owned pass (R80). -/
def passChange : Option PassEntry → Option PassEntry → Bool
  | none, none => false
  | some a, none => a.owned
  | none, some b => b.owned
  | some a, some b => (a.owned || b.owned) && (a.id != b.id || a.owner != b.owner || a.members != b.members)

/-- The pass table takes new entries, and S2 is marked dirty where R80 says so. -/
def State.setPasses (t : List (Option PassEntry)) (s : State) : State :=
  State.markS2 ((List.zip s.passes t).any (fun p => passChange p.1 p.2)) { s with passes := t }

/-- The pass with an identifier is changed. -/
def State.updatePass (id : PassId) (f : PassEntry → PassEntry) (s : State) : State :=
  s.setPasses (tableUpdate s.passes (fun p => p.id == id) (fun p => some (f p)))

/-- The lowest-indexed owned pass that lists a tag (R70, R78, R84). -/
def State.coveringPass (s : State) (t : Tag) : Option PassId :=
  (tableFind s.passes (fun p => p.owned && p.members.contains t)).map (·.id)

/-! ### Purse and purchase log -/

/-- The greatest balance, cap and spent figure (Table 5-1). -/
def creditMax : Nat := 16777215

/-- The purse takes new values; any change marks S0 dirty (R87). -/
def State.setPurse (p : Purse) (s : State) : State := State.markS0 (p != s.purse) { s with purse := p }

/-- The log count (R105). -/
def State.logCount (s : State) : Nat := s.log.entries.length

/-- The log holds 64 entries (R109). -/
def State.logFull (s : State) : Bool := decide (64 ≤ s.logCount)

/-- A log entry is made from the state the step leaves: next sequence number, clock value, balance after. It marks S1 and S0 dirty (R106, R108).
Where one step makes several entries, the balance after is the balance right after the debit or credit of this one (DESIGN CHOICE, assumption log 31). -/
def State.addEntry (kind : LogKind) (ident : BitVec 16) (amount : Credit) (s : State) : State :=
  State.markS0 true (State.markS1 true
    { s with log :=
        { entries := s.log.entries ++
            [{ seq := s.log.next, kind := kind, ident := ident, amount := amount, clock := s.now, balanceAfter := s.purse.balance }]
          next := s.log.next + 1 } })

/-- LOG_NEARLY_FULL is booked with the log count when that is 56 or more (R108). -/
def State.bookNearlyFull (s : State) : State :=
  if 56 ≤ s.logCount then s.book .logNearlyFull (.length s.logCount) else s

/-- What a refund of `a` credits: the smaller of `a` and the room below the upper bound (R97). -/
def credited (balance : Int) (a : Credit) : Int := min (a.toNat : Int) ((creditMax : Int) - balance)

/-- The purse after a refund of `a`: the balance rises by the amount credited, the reference falls by the part forfeited, spent tonight falls by `a`
and stays at 0 (R97). -/
def Purse.refunded (p : Purse) (a : Credit) : Purse :=
  { p with
    balance := p.balance + credited p.balance a
    reference := p.reference - ((a.toNat : Int) - credited p.balance a)
    spent := p.spent - a.toNat }

/-- A refund: the purse's arithmetic and the REFUND entry of the full paid amount (R97). -/
def State.refund (cause : Cause) (t : Tag) (a : Credit) (s : State) : State :=
  State.addEntry (.refund cause) t a (s.setPurse (s.purse.refunded a))

/-- One tag of the refund queue is served: the operator refund, the entry's kind NONE with the viewed flag clear, and the tag's
removal from the queue, whose rest is `rest` (R75, R99, R112). Its entry's balance after is the running balance (assumption log 31). -/
def State.serveTag (t : Tag) (rest : List Tag) (s : State) : State :=
  let paid := match s.fixture t with
    | some e => e.paid
    | none => 0
  State.setRefunds rest
    (State.updateFixture t (fun e => { e with kind := .none, viewed := false }) (s.refund .operator t paid))

/-- Tags are served from the head of the queue for as long as the log count is below 64 (R112). -/
def serveFrom : List Tag → State → State
  | [], s => s
  | t :: rest, s => if s.logFull then s else serveFrom rest (s.serveTag t rest)

/-- The refund queue is served (R112). -/
def State.serveRefunds (s : State) : State := serveFrom s.refunds s

/-- Membership lookup: the lowest-numbered slot that holds a nonzero group number (R32, R36, R121). -/
def State.membership (s : State) (g : Group) : Option Membership :=
  if g = 0 then none else s.purse.memberships.find? (fun m => m.group == g)

/-! ### The retention state -/

/-- The retention unit is RESTORING (R120). -/
def State.restoring (s : State) : Bool :=
  match s.store.st with
  | .restoring _ _ => true
  | _ => false

/-- The placement state is PLACED (R154). -/
def State.isPlaced (s : State) : Bool := s.placement.st == .placed

end Sys2Proof.Machine
end

