-- ==== Sys2Proof/Machine/Passes.lean ====
section
/-! DEFINITION. The pass table (section 4.6): PASS cells, propagation, and the ENTITLE and REVOKE of a pass. -/

namespace Sys2Proof.Machine

/-- The entry is in LISTED, ON_SALE or LIVE, the phases a pass reaches (R70, R82). -/
def FixtureEntry.onOffer (e : FixtureEntry) : Bool :=
  match e.standing with
  | .scheduled _ .listed => true
  | .scheduled _ .onSale => true
  | .scheduled _ .live => true
  | _ => false

/-- Propagation of a pass to one tag: a NONE entry in LISTED, ON_SALE or LIVE becomes PASS, and ENTITLEMENT_CHANGED is booked (R82). A tag of
0 matches no entry (R81). -/
def State.propagateTag (id : PassId) (t : Tag) (s : State) : State :=
  match s.fixture t with
  | some e =>
    if t ≠ 0 ∧ e.kind = .none ∧ e.onOffer = true then
      State.bookEntitlement t (s.updateFixture t (fun e => { e with kind := .pass id }))
    else s
  | none => s

/-- Propagation to every tag of a list, each with its booking (R82). -/
def State.propagateAll (id : PassId) (tags : List Tag) (s : State) : State := tags.foldl (fun s t => s.propagateTag id t) s

/-- Propagation finds an entry of this tag to change (R82). -/
def State.reaches (s : State) (t : Tag) : Bool :=
  match s.fixture t with
  | some e => t != 0 && e.kind == .none && e.onOffer
  | none => false

/-- A tag with the index of its entry. -/
def State.tagPlace (s : State) (t : Tag) : Nat × Tag := (s.fixtures.findIdx (fun o => o.map (·.tag) == some t), t)

/-- ENTITLEMENT_CHANGED has been booked once for each of these tags in one step. Which booking was the last, whose tag the condition keeps, is
open when there are several: a FREE VALUE (R169, assumption log 15). -/
def State.settleLatest (before : State) (tags : List Tag) (s : State) : State :=
  match tags with
  | t :: _ :: _ =>
    { s with conds := { s.conds with entitlementChanged := { s.conds.entitlementChanged with
        data := some (.tag (tags.getD (Config.latestOf (tags.map before.tagPlace) % tags.length) t)) } } }
  | _ => s

/-- Propagation to the members of a list (R82). -/
def State.propagate (id : PassId) (tags : List Tag) (s : State) : State :=
  State.settleLatest s (tags.eraseDups.filter s.reaches) (s.propagateAll id tags)

/-- The eviction key of a pass entry: not owned, and without a schedule part first, then by the earliest sale close that is at or before the
clock value (R81). -/
def PassEntry.evictKey (now : Seconds) (p : PassEntry) : Option Nat :=
  if p.owned then none
  else match p.sale with
    | none => some 0
    | some sale => if sale.closes.toNat ≤ now.toNat then some (sale.closes.toNat + 1) else none

/-- A new pass entry is created at its place; none when no place can be had (R81). -/
def State.createPass (p : PassEntry) (s : State) : Option State :=
  (allocate s.passes (PassEntry.evictKey s.now)).map (fun i => s.setPasses (s.passes.set i (some p)))

/-- TABLE_FULL for the pass table. -/
def State.bookPassFull (id : PassId) (s : State) : State := s.book .tableFull (.table (id.setWidth 16) .passTable)

/-- A PASS cell handed over at its completion (R81, R82). R81 gives its cases no precedence: with identifier 0 the reason is BAD_TAG alone,
whatever else is bad too (DESIGN CHOICE, assumption log 30). -/
def State.applyPassCell (cell : List Byte) (s : State) : State :=
  let id := pay8 cell 0
  let sale := passSale cell
  let members := passMembers cell
  if id = 0 then s.book .badCell (.reason .badTag)
  else if pay8 cell 1 = 0 then s.book .badCell (.reason .badSchedule)
  else if sale.closes.toNat < sale.opens.toNat then s.book .badCell (.reason .badSchedule)
  else
    match s.pass id with
    | some p =>
      let s1 := s.updatePass id (fun p => { p with sale := some sale, members := members })
      if p.owned then s1.propagate id (members.filter (fun t => !p.members.contains t)) else s1
    | none =>
      match s.createPass { id := id, members := members, sale := some sale, owner := .none } with
      | some s1 => s1
      | none => s.bookPassFull id

/-- ENTITLE of a pass (R83). -/
def State.entitlePass (id : PassId) (s : State) : State :=
  if id = 0 then s
  else
    match s.pass id with
    | some p =>
      if p.owner = .none then
        State.propagate id p.members (s.updatePass id (fun p => { p with owner := .granted }))
      else s
    | none =>
      match s.createPass { id := id, members := [], sale := none, owner := .granted } with
      | some s1 => s1
      | none => s.bookPassFull id

/-- A fixture entry at the REVOKE of a pass, in the state in which that pass is no longer owned: PASS entries of the pass follow the lowest-indexed other
owned pass that lists them; without one they become NONE, or go out of use when AWAITING (R84). -/
def State.revokedEntry (s : State) (id : PassId) (e : FixtureEntry) : Option FixtureEntry :=
  if e.kind = .pass id then
    match s.coveringPass e.tag with
    | some other => some { e with kind := .pass other }
    | none =>
      match e.standing with
      | .awaiting => none
      | .scheduled _ _ => some { e with kind := .none, viewed := false }
  else some e

/-- The tags of the entries that lose their entitlement at the REVOKE of a pass, by index (R84). -/
def State.revokedTags (s : State) (id : PassId) : List Tag :=
  s.fixtures.filterMap (fun o => o.bind (fun e =>
    if e.kind = .pass id ∧ s.coveringPass e.tag = none then some e.tag else none))

/-- REVOKE of a pass: only a GRANTED pass is changed (R84). -/
def State.revokePass (id : PassId) (s : State) : State :=
  match s.pass id with
  | some p =>
    if p.owner = .granted then
      let s1 := s.updatePass id (fun p => { p with owner := .none })
      State.settleLatest s1 (s1.revokedTags id)
        ((s1.revokedTags id).foldl (fun s t => s.bookEntitlement t)
          (s1.setFixtures (s1.fixtures.map (fun o => o.bind (s1.revokedEntry id)))))
    else s
  | none => s

end Sys2Proof.Machine
end

