-- ==== Sys2Proof/Machine/Fixtures.lean ====
section
/-! DEFINITION. The fixture table (chapter 4): phases, announcements, cancellation and refunds, ENTITLE, REVOKE and NIGHT_RESET, preview metering. -/

namespace Sys2Proof.Machine

/-! ### Phases (R66 to R68) -/

/-- The phase that a schedule part gives at a clock value (Table 4-2); end + 1,800 is an exact integer. -/
def derivePhase (sch : Schedule) (c : Seconds) : Phase :=
  if c.toNat < sch.saleOpen.toNat then .listed
  else if c.toNat < sch.kickOff.toNat then .onSale
  else if c.toNat < sch.finish.toNat then .live
  else if c.toNat < sch.finish.toNat + 1800 then .ended
  else .retired

/-- The order of the derived phases (R66). -/
def Phase.rank : Phase → Nat
  | .listed => 0 | .onSale => 1 | .live => 2 | .ended => 3 | .retired => 4 | .cancelled => 5

/-- Forward only: the derived phase when it is later, otherwise the current one (R66). CANCELLED ranks last, so it is kept. -/
def Phase.forward (current derived : Phase) : Phase := if current.rank < derived.rank then derived else current

/-- One entry's phase is derived from a clock value and moved forward only (R67, R68). -/
def FixtureEntry.advance (c : Seconds) (e : FixtureEntry) : FixtureEntry :=
  match e.standing with
  | .awaiting => e
  | .scheduled sch ph =>
    if sch.cancelled then e else { e with standing := .scheduled sch (ph.forward (derivePhase sch c)) }

/-- Every entry's phase is derived from a clock value and moved forward only; no section is marked dirty (R67, R68). -/
def State.advancePhases (c : Seconds) (s : State) : State :=
  { s with fixtures := s.fixtures.map (Option.map (FixtureEntry.advance c)) }

/-- Metering of one entry: a marked NONE entry in ON_SALE or LIVE loses a second of preview, and the mark is cleared (R57). -/
def FixtureEntry.meter (e : FixtureEntry) : FixtureEntry :=
  let charged := e.delivered && e.kind == .none &&
    (match e.standing with
     | .scheduled _ .onSale => true
     | .scheduled _ .live => true
     | _ => false)
  { e with remaining := if charged then e.remaining - 1 else e.remaining, delivered := false }

/-- Preview is metered and every delivered mark is cleared; no section is marked dirty (R57). -/
def State.meterPreview (s : State) : State := { s with fixtures := s.fixtures.map (Option.map FixtureEntry.meter) }

/-! ### Cancellation (R74) -/

/-- What entering CANCELLED does to the entry's entitlement: an IMPULSE entry is refunded while the log has room, and otherwise its tag joins the
refund queue; other kinds are left (R74). LOG_NEARLY_FULL is booked for each entry made (R108), in the step that ends the restore too, where the queue is
served after it (DESIGN CHOICE, assumption log 38). -/
def State.cancelEffect (t : Tag) (s : State) : State :=
  match s.fixture t with
  | some e =>
    match e.kind with
    | .impulse a =>
      if s.logFull then
        let s1 := s.setRefunds (s.refunds ++ [t])
        State.bookEntitlement t (s1.book .refundWaiting (.length s1.refunds.length))
      else
        State.bookEntitlement t
          (State.bookNearlyFull
            (State.updateFixture t (fun e => { e with kind := .none, viewed := false }) (s.refund .operator t a)))
    | _ => s
  | none => s

/-! ### Announcements (R69 to R73) -/

/-- Why an announcement is rejected (R69). The rule gives its cases no precedence: with tag 0 the reason is BAD_TAG alone, whatever else is bad too
(DESIGN CHOICE, assumption log 30). -/
def announceFault (cell : List Byte) : Option CellReason :=
  if (parseHeader cell).tag = 0 then some .badTag
  else if 1 < (announceStatus cell).toNat then some .badSchedule
  else if (announceSchedule cell).kickOff.toNat < (announceSchedule cell).saleOpen.toNat then some .badSchedule
  else if (announceSchedule cell).finish.toNat ≤ (announceSchedule cell).kickOff.toNat then some .badSchedule
  else none

/-- The phase of an entry that takes its first schedule part (R70, R73). -/
def firstPhase (sch : Schedule) (c : Seconds) : Phase := if sch.cancelled then .cancelled else derivePhase sch c

/-- The phase after an announcement to an entry with a schedule part (Table 4-3). -/
def nextPhase (sch : Schedule) (c : Seconds) (current : Phase) : Phase :=
  if current = .cancelled ∨ sch.cancelled = true then .cancelled
  else match current with
    | .ended => .ended
    | .retired => .retired
    | _ => derivePhase sch c

/-- An entry as a first announcement for its tag creates it, before a pass is considered (R70). -/
def newEntry (t : Tag) (sch : Schedule) (c : Seconds) : FixtureEntry :=
  { tag := t, standing := .scheduled sch (firstPhase sch c), kind := .none, viewed := false,
    remaining := sch.allowance.toNat, delivered := false }

/-- An accepted announcement for an unknown tag creates an entry, of kind PASS when an owned pass lists the tag and the phase is on offer; TABLE_FULL when no entry
can be had (R70). -/
def State.announceNew (t : Tag) (sch : Schedule) (s : State) : State :=
  let e := newEntry t sch s.now
  match if e.onOffer then s.coveringPass t else none with
  | some id =>
    match s.createFixture { e with kind := .pass id } with
    | some s1 => s1.bookEntitlement t
    | none => s.book .tableFull (.table t .fixtureTable)
  | none =>
    match s.createFixture e with
    | some s1 => s1
    | none => s.book .tableFull (.table t .fixtureTable)

/-- An AWAITING entry gains its schedule part (R73). -/
def State.announceAwaiting (t : Tag) (sch : Schedule) (s : State) : State :=
  let s1 := s.updateFixture t (fun e =>
    { e with standing := .scheduled sch (firstPhase sch s.now), remaining := sch.allowance.toNat, delivered := false })
  if sch.cancelled then s1.cancelEffect t else s1

/-- The schedule part of an entry is replaced; a cancelled flag already set stays set (R72). -/
def State.announceAgain (t : Tag) (sch old : Schedule) (ph : Phase) (s : State) : State :=
  let s1 := s.updateFixture t (fun e =>
    { e with
      standing := .scheduled { sch with cancelled := sch.cancelled || old.cancelled } (nextPhase sch s.now ph)
      remaining := min e.remaining sch.allowance.toNat })
  if sch.cancelled = true ∧ ph ≠ .cancelled then s1.cancelEffect t else s1

/-- An announcement handed over at its completion (R69 to R74). -/
def State.applyAnnouncement (cell : List Byte) (s : State) : State :=
  match announceFault cell with
  | some r => s.book .badCell (.reason r)
  | none =>
    let t := (parseHeader cell).tag
    let sch := announceSchedule cell
    match s.fixture t with
    | none => s.announceNew t sch
    | some e =>
      match e.standing with
      | .awaiting => s.announceAwaiting t sch
      | .scheduled old ph => s.announceAgain t sch old ph

/-! ### Grants to fixtures (R77 to R79) -/

/-- An AWAITING entry, as an ENTITLE or a restore creates it (R77, R175). -/
def awaitingEntry (t : Tag) (k : Kind) (viewed : Bool) : FixtureEntry :=
  { tag := t, standing := .awaiting, kind := k, viewed := viewed, remaining := 0, delivered := false }

/-- ENTITLE of a fixture (R77, Table 4-4). -/
def State.entitleFixture (t : Tag) (s : State) : State :=
  if t = 0 then s
  else
    match s.fixture t with
    | some e =>
      match e.kind with
      | .none => State.bookEntitlement t (s.updateFixture t (fun e => { e with kind := .granted }))
      | .pass _ => State.bookEntitlement t (s.updateFixture t (fun e => { e with kind := .granted }))
      | .impulse _ => s
      | .granted => s
    | none =>
      match s.createFixture (awaitingEntry t .granted false) with
      | some s1 => s1.bookEntitlement t
      | none => s.book .tableFull (.table t .fixtureTable)

/-- The entry is AWAITING, LISTED, ON_SALE or LIVE, the phases in which a revoked fixture falls back on a pass (R78). -/
def FixtureEntry.passMayCover (e : FixtureEntry) : Bool := e.standing == .awaiting || e.onOffer

/-- REVOKE of a fixture: only a GRANTED entry is changed (R78, Table 4-4). -/
def State.revokeFixture (t : Tag) (s : State) : State :=
  match s.fixture t with
  | some e =>
    if e.kind = .granted then
      match if e.passMayCover then s.coveringPass t else none with
      | some id => State.bookEntitlement t (s.updateFixture t (fun e => { e with kind := .pass id }))
      | none =>
        if e.standing = .awaiting then State.bookEntitlement t (s.removeFixtures (fun e => e.tag == t))
        else State.bookEntitlement t (s.updateFixture t (fun e => { e with kind := .none, viewed := false }))
    else s
  | none => s

/-- The fixture entries that NIGHT_RESET removes (R79). -/
def nightRemoves (queue : List Tag) (e : FixtureEntry) : Bool :=
  match e.standing with
  | .awaiting => true
  | .scheduled _ .retired => true
  | .scheduled _ .cancelled => !queue.contains e.tag
  | _ => false

/-- The pass entries that NIGHT_RESET removes: announced, with a sale close at or before the clock value (R79). -/
def passClosed (now : Seconds) (p : PassEntry) : Bool :=
  match p.sale with
  | some sale => decide (sale.closes.toNat ≤ now.toNat)
  | none => false

/-- NIGHT_RESET (R79). -/
def State.nightReset (s : State) : State :=
  let s1 := s.setPurse { s.purse with spent := 0 }
  let s2 := s1.removeFixtures (nightRemoves s.refunds)
  s2.setPasses (tableUpdate s2.passes (passClosed s.now) (fun _ => none))

end Sys2Proof.Machine
end

