-- ==== Sys2Proof/Machine/Clock.lean ====
section
/-! DEFINITION. The match clock (chapter 8): the second event, TIME cells, and the reference clock. -/

namespace Sys2Proof.Machine

/-- Reference clock cycles in a second (R135). -/
def cyclesPerSecond : Nat := 24576000

/-- A second event: the value rises by 1 or wraps, the sub-second count restarts, every phase is derived and moved forward only, and preview is
metered; while the clock is UNSET no second event is raised (R134 to R136). -/
def State.secondEvent (s : State) : State :=
  if s.clock.running then
    State.meterPreview (State.advancePhases (s.clock.value + 1)
      { s with clock := { s.clock with value := s.clock.value + 1, sub := 0 } })
  else s

/-- One cycle of the reference clock (R135). -/
def State.tick (s : State) : State :=
  if s.clock.running then
    if cyclesPerSecond ≤ s.clock.sub + 1 then s.secondEvent
    else { s with clock := { s.clock with sub := s.clock.sub + 1 } }
  else s

/-- The difference recorded with CLOCK_JUMP (R138). -/
def jumpData (d : Int) : Int := max (-2147483647) (min d 2147483647)

/-- Adoption of a TIME cell's value: RUNNING with that value and a restarted sub-second count, phases derived forward only; CLOCK_JUMP when the clock was
RUNNING and the exact difference lies outside -2 to +2 (R137, R138). Phases are derived for a difference of 0 too (DESIGN CHOICE, assumption log 32). -/
def State.adoptTime (v : Seconds) (s : State) : State :=
  let d : Int := (v.toNat : Int) - (s.clock.value.toNat : Int)
  let s1 := State.advancePhases v { s with clock := { running := true, value := v, sub := 0 } }
  if s.clock.running = true ∧ (d < -2 ∨ 2 < d) then s1.book .clockJump (.difference (jumpData d)) else s1

end Sys2Proof.Machine
end

