-- ==== Sys2Proof/Machine/KeyBank.lean ====
section
/-! DEFINITION. The message queue's ends (R118, R123), and the key bank table (chapter 2): taking a KEY cell at the write, filling, and the key check. -/

namespace Sys2Proof.Machine

/-! ### The message queue (R118, R123) -/

/-- The queue holds 16 cells (R118). -/
def State.queueFull (s : State) : Bool := decide (16 ≤ s.engine.queue.length)

/-- The group key looked up when a cell reaches the head: only a KEY cell has one, by the memberships as they stand (R36). -/
def State.headKeyFor (s : State) (q : List QCell) : Option Key :=
  match q with
  | c :: _ => if c.kind = .key then (s.membership (keyGroup c.bytes)).map (·.key) else none
  | [] => none

/-- A cell joins the tail; a cell queued into an empty queue is at the head at once (R123). -/
def State.enqueue (c : QCell) (s : State) : State :=
  { s with engine :=
      { queue := s.engine.queue ++ [c]
        headKey := if s.engine.queue.isEmpty then s.headKeyFor [c] else s.engine.headKey } }

/-- The head cell leaves and the next reaches the head (R123). -/
def State.popCell (s : State) : State :=
  { s with engine := { queue := s.engine.queue.tail, headKey := s.headKeyFor s.engine.queue.tail } }

/-! ### Entries and slots (R29, R30) -/

/-- The slot of a parity; true is odd (R30). -/
def KeyEntry.slot (e : KeyEntry) (odd : Bool) : KeySlot := if odd then e.odd else e.even

/-- The entry with the slot of one parity replaced; the other is left as it stands (R30). -/
def KeyEntry.setSlot (e : KeyEntry) (odd : Bool) (k : KeySlot) : KeyEntry :=
  if odd then { e with odd := k } else { e with even := k }

/-- The slot is PENDING. -/
def KeySlot.isPending : KeySlot → Bool
  | .pending _ => true
  | _ => false

/-- The entry in use that holds a service (R29). -/
def State.keyEntry (s : State) (svc : Service) : Option KeyEntry := tableFind s.keys (fun e => e.service == svc)

/-- The entry of a service is changed, or freed. -/
def State.updateKey (svc : Service) (f : KeyEntry → Option KeyEntry) (s : State) : State :=
  { s with keys := tableUpdate s.keys (fun e => e.service == svc) f }

/-- The eviction key: the last-use second, for entries with no PENDING slot (R34). -/
def KeyEntry.evictKey (e : KeyEntry) : Option Nat :=
  if e.even.isPending || e.odd.isPending then none else some e.lastUse.toNat

/-- A chosen entry for a new service: the cell's parity PENDING, the other EMPTY, last-use the clock value (R33). -/
def newKeyEntry (svc : Service) (odd : Bool) (period : Period) (now : Seconds) : KeyEntry :=
  KeyEntry.setSlot { service := svc, even := .empty, odd := .empty, lastUse := now } odd (.pending period)

/-- The slot is VALID with this period (R35, duplicate). -/
def KeySlot.validFor (k : KeySlot) (n : Period) : Bool :=
  match k with
  | .valid m _ => m == n
  | _ => false

/-! ### A KEY cell at its write (R32 to R35) -/

/-- A KEY cell with a good checksum at its write: ignored without a membership, dropped for want of an entry or of room in the queue, taken as a
duplicate, or marked and queued (R32 to R35). -/
def State.takeKeyCell (cell : List Byte) (s : State) : State :=
  match s.membership (keyGroup cell) with
  | none => s
  | some _ =>
    let h := parseHeader cell
    match s.keyEntry h.service with
    | some e =>
      if (e.slot h.parity).validFor h.period then s
      else if s.queueFull then s.book .cellDrop (.reason .queueFull)
      else State.enqueue ⟨.key, cell⟩
        (s.updateKey h.service (fun e => some (e.setSlot h.parity (.pending h.period))))
    | none =>
      match allocate s.keys KeyEntry.evictKey with
      | none => s.book .cellDrop (.reason .keyTableFull)
      | some i =>
        if s.queueFull then s.book .cellDrop (.reason .queueFull)
        else State.enqueue ⟨.key, cell⟩
          { s with keys := s.keys.set i (some (newKeyEntry h.service h.parity h.period s.now)) }

/-! ### Completion (R37, R38) -/

/-- The slot of a service and parity is PENDING with this period. -/
def State.pendingFor (s : State) (h : Header) : Bool :=
  match s.keyEntry h.service with
  | some e => e.slot h.parity == .pending h.period
  | none => false

/-- A completion with a control word fills a matching PENDING slot (R37). -/
def State.fillKey (h : Header) (word : Key) (s : State) : State :=
  s.updateKey h.service (fun e => some (e.setSlot h.parity (.valid h.period word)))

/-- A completion without membership empties its PENDING slot; an entry with both slots EMPTY becomes free (R38). -/
def State.emptyKey (h : Header) (s : State) : State :=
  s.updateKey h.service (fun e =>
    if e.slot (!h.parity) = .empty then none else some (e.setSlot h.parity .empty))

/-! ### The key check (R40, R41) -/

/-- Outcomes of the key check (Table 2-4). -/
inductive KeyOutcome where
  | clear (word : Key)
  | held
  | noKey
  deriving DecidableEq, Repr

/-- What a slot answers to a check for period `n` (Table 2-4). -/
def KeySlot.check (k : KeySlot) (n : Period) : KeyOutcome :=
  match k with
  | .valid m w => if m = n then .clear w else .noKey
  | .pending m => if m = n then .held else .noKey
  | .empty => .noKey

/-- The key check for a service, parity and period (R40). -/
def State.keyCheck (s : State) (svc : Service) (odd : Bool) (n : Period) : KeyOutcome :=
  match s.keyEntry svc with
  | some e => (e.slot odd).check n
  | none => .noKey

/-- A key check that returned CLEAR sets the entry's last-use second (R41). -/
def State.touchKey (svc : Service) (s : State) : State :=
  s.updateKey svc (fun e => some { e with lastUse := s.now })

end Sys2Proof.Machine
end

