-- ==== Sys2Proof/Machine/Verdict.lean ====
section
/-! DEFINITION. The verdict chain (chapter 3): steps 1 to 10 of Table 3-1, and what a CLEAR sets outside the slot. -/

namespace Sys2Proof.Machine

/-- The blackout test: the zone is nonzero and in the list (R49). -/
def blackedOut (zone : Zone) (sch : Schedule) : Bool := zone != 0 && sch.blackout.contains zone

/-- Where steps 1 to 10 of the chain end: in a slate, or in the key check with a hold origin (Table 3-1). -/
inductive ChainEnd where
  | slate (reason : Fin 8)
  | keyCheck (origin : Origin)
  deriving DecidableEq, Repr

/-- Steps 4 to 10 for an entry with a schedule part (R47 to R52). -/
def chainScheduled (zone : Zone) (svc : Service) (e : FixtureEntry) (sch : Schedule) (ph : Phase) : ChainEnd :=
  if svc ≠ sch.service then .slate 6
  else if ph = .cancelled ∨ ph = .retired then .slate 7
  else if blackedOut zone sch then .slate 3
  else if e.kind ≠ .none then .keyCheck .entitled
  else if ph = .ended then .slate 7
  else if ph = .listed then .slate 1
  else if 0 < e.remaining then .keyCheck .preview
  else if sch.allowance ≠ 0 then .slate 2
  else .slate 1

/-- The chain up to the key check (R45 to R52). -/
def State.chainTest (s : State) (h : Header) : ChainEnd :=
  if s.clock.running = false ∧ h.tag ≠ 0 then .slate 5
  else if h.tag = 0 then .keyCheck .plain
  else
    match s.fixture h.tag with
    | none => .slate 6
    | some e =>
      match e.standing with
      | .awaiting => .keyCheck .plain
      | .scheduled sch ph => chainScheduled s.purse.zone h.service e sch ph

/-- What a CLEAR sets for the slot's tag, by its origin: the viewed flag of an entry of kind IMPULSE, GRANTED or PASS (R54), or the delivered mark (R56). -/
def State.applyOrigin (o : Origin) (t : Tag) (s : State) : State :=
  match o with
  | .plain => s
  | .entitled => s.updateFixture t (fun e => if e.kind = .none then e else { e with viewed := true })
  | .preview => s.updateFixture t (fun e => { e with delivered := true })

/-- The key check at the end of the chain or of a hold, with what a CLEAR sets (R41, R45, R62). HELD carries what is awaited (R18). -/
def State.checkKey (o : Origin) (h : Header) (s : State) : Verdict × State :=
  match s.keyCheck h.service h.parity h.period with
  | .clear w => (.clear w, (s.touchKey h.service).applyOrigin o h.tag)
  | .held => (.held o h.service h.parity h.period, s)
  | .noKey => (.slate 4, s)

/-- The verdict chain, taken as one decision (R45). -/
def State.runChain (h : Header) (s : State) : Verdict × State :=
  match s.chainTest h with
  | .slate r => (.slate r, s)
  | .keyCheck o => s.checkKey o h

end Sys2Proof.Machine
end

