-- ==== Sys2Proof/Machine/Cells.lean ====
section
/-! DEFINITION. The cell tracker (chapter 1): slots, gated reads and their parts, staleness, holds. -/

namespace Sys2Proof.Machine

/-! ### Slots -/

/-- The state of a slot; none where no slot table holds it (R2). -/
def State.slotAt (s : State) (region number : Nat) : Option SlotState :=
  (s.slots.find? (fun r => r.region == region && r.number == number)).map (·.st)

/-- A verdict is latched into a PROGRAM slot (R13). -/
def State.latch (region number : Nat) (v : Verdict) (s : State) : State :=
  { s with slots := s.slots.map (fun r =>
      if r.region = region ∧ r.number = number then
        match r.st with
        | .program h _ => { r with st := .program h v }
        | _ => r
      else r) }

/-- The slot state a new cell takes (R5, Table 1-6). -/
def startCell (cell : List Byte) : SlotState :=
  match classify (byteAt cell 0) with
  | .program => .program (parseHeader cell) .undecided
  | .control _ => .control
  | .opaqueCell => .opaqueCell

/-- The slot table that placement builds: one EMPTY record for each slot of each CELL_RING (R2). -/
def buildSlotsFrom (i : Nat) : List Region → List Slot
  | [] => []
  | r :: rs =>
    (if r.kind = .cellRing then (List.range (r.size / 128)).map (fun n => { region := i, number := n, st := .empty }) else []) ++
      buildSlotsFrom (i + 1) rs

/-- The slot table of a region map. -/
def buildSlots (regions : List Region) : List Slot := buildSlotsFrom 0 regions

/-! ### Parts of a gated read (R8, R9, R23) -/

/-- A verdict as a service: CLEAR with the captured sequence as the seed, SLATE with its read outstanding, HELD, or UNDECIDED awaiting the answer
(Table 1-9, R14). -/
def servingOf (h : Header) : Verdict → Serving
  | .undecided => .waiting false
  | .held _ _ _ _ => .held
  | .clear w => .clear w h.seq
  | .slate r => .slate r none

/-- Service of a part by slot state at arrival (Table 1-9). -/
def servingAt : Option SlotState → Serving
  | some (.program h v) => servingOf h v
  | some .control => .raw
  | some .opaqueCell => .raw
  | _ => .slate 0 none

/-- The cell-ring slot, and the offset in it, in which byte `i` of a request lies, when the ring satisfies `p`. -/
def cellByte (regions : List Region) (p : Region → Bool) (a : Addr) (i : Nat) : Option (Nat × Nat × Nat) :=
  match locate regions (addrAt a i) with
  | some (r, g) =>
    if g.kind = .cellRing ∧ p g = true then
      some (r, (addrAt a i - g.base.toNat) / 128, (addrAt a i - g.base.toNat) % 128)
    else none
  | none => none

/-- The payload bytes a read by class `c` covers in rings that `c` is a clear reader of: index in the read, ring, slot, cell offset (R8). -/
def gatedBytes (regions : List Region) (c : Cls) (a : Addr) (len : Nat) : List (Nat × Nat × Nat × Nat) :=
  (List.range len).filterMap (fun i =>
    match cellByte regions (fun g => inSet g.readers c) a i with
    | some (r, n, o) => if 16 ≤ o then some (i, r, n, o) else none
    | none => none)

/-- Grouping of consecutive bytes of one slot into parts (R8, R23). -/
def groupParts : List (Nat × Nat × Nat × Nat) → List Part
  | [] => []
  | (i, r, n, o) :: rest =>
    match groupParts rest with
    | p :: ps =>
      if p.region = r ∧ p.slot = n then { p with start := i, offset := o, len := p.len + 1 } :: ps
      else { region := r, slot := n, start := i, offset := o, len := 1, serving := .raw } :: p :: ps
    | [] => [{ region := r, slot := n, start := i, offset := o, len := 1, serving := .raw }]

/-- The gated parts of a read at its arrival (R8, R9). -/
def State.gateParts (s : State) (c : Cls) (a : Addr) (len : Nat) : List Part :=
  (groupParts (gatedBytes s.path.regions c a len)).map (fun p => { p with serving := servingAt (s.slotAt p.region p.slot) })

/-- Slate reads for the parts that stand at SLATE with their read not yet issued (R11). -/
def State.slateReads (s : State) (id : Nat) (ps : List Part) : List Emission :=
  ps.filterMap (fun p =>
    match p.serving with
    | .slate r none => some (s.slateRequest id p r)
    | _ => none)

/-! ### The forwarded answer (R10, R13, R14, R17) -/

/-- A part at the return of its forwarded answer without the error flag: stale parts and parts of a slot no longer PROGRAM become NO_CELL, an UNDECIDED
slot runs the chain and latches, any other verdict serves as it stands, and a part not waiting keeps its service (R13, R14, R17, R19). -/
def settlePart (p : Part) (s : State) : Part × State :=
  match p.serving with
  | .waiting true => ({ p with serving := .slate 0 none }, s)
  | .waiting false =>
    match s.slotAt p.region p.slot with
    | some (.program h .undecided) =>
      let r := s.runChain h
      ({ p with serving := servingOf h r.1 }, r.2.latch p.region p.slot r.1)
    | some (.program h v) => ({ p with serving := servingOf h v }, s)
    | _ => ({ p with serving := .slate 0 none }, s)
  | _ => (p, s)

/-- All parts of a read, each by its own chain (R23). The spec gives no order among them: address order, each by the state that the one before it left
(DESIGN CHOICE, assumption log 27). -/
def settleParts : List Part → State → List Part × State
  | [], s => ([], s)
  | p :: ps, s =>
    let a := settlePart p s
    let b := settleParts ps a.2
    (a.1 :: b.1, b.2)

/-- The parts that were waiting before the answer, as they stand after it: their slate reads are issued now (R11, R13, R17). -/
def settledNow (before after : List Part) : List Part :=
  (List.zip before after).filterMap (fun q =>
    match q.1.serving with
    | .waiting _ => some q.2
    | _ => none)

/-- The request with a serial number is replaced. -/
def State.setInflight (id : Nat) (f : Inflight → Inflight) (s : State) : State :=
  { s with path := { s.path with inflight := s.path.inflight.map (fun e => if e.id = id then f e else e) } }

/-- Memory's answer to a forwarded request: with the error flag the read is answered raw and latches nothing (R10); without it the waiting
parts are settled (R13, R14, R17). Answers that become ready are returned (R145). An answer to no request, or to one already answered, is no event. -/
def State.memoryAnswer (id : Nat) (a : Answer) (s : State) : State :=
  match s.path.inflight.find? (fun e => e.id == id) with
  | none => s
  | some e =>
    if e.answer.isSome then s
    else if a.err then (s.setInflight id (fun e => { e with answer := some a, parts := [] })).drain
    else
      let r := settleParts e.parts s
      State.drain
        (State.presentTogether (r.2.slateReads id (settledNow e.parts r.1))
          (r.2.setInflight id (fun e => { e with answer := some a, parts := r.1 })))

/-! ### Slate reads (R11) -/

/-- A slate read's answer supplies its part; the data of a read that is gone, or whose parts were dropped for an error, is discarded (R10, R11). -/
def supplySlate (region slot : Nat) (a : Answer) (p : Part) : Part :=
  match p.serving with
  | .slate r none => if p.region = region ∧ p.slot = slot then { p with serving := .slate r (some a) } else p
  | _ => p

/-! ### Writes into a ring (R4 to R6, R17) -/

/-- The slots that a write touches: those in which an enabled byte that is not masked lies (R4). -/
def touchedSlots (regions : List Region) (a : Addr) (kept : List Bool) : List (Nat × Nat) :=
  (List.range kept.length).filterMap (fun i =>
    if kept.getD i false then (cellByte regions (fun _ => true) a i).map (fun x => (x.1, x.2.1)) else none)

/-- The slot of which a write is a whole-cell write: 128 bytes at a cell boundary, every byte enabled and kept (R5). -/
def wholeCellSlot (regions : List Region) (a : Addr) (kept : List Bool) : Option (Nat × Nat) :=
  if kept.length = 128 ∧ kept.all id = true then
    match cellByte regions (fun _ => true) a 0 with
    | some (r, n, 0) => some (r, n)
    | _ => none
  else none

/-- A slot record after a write: a new cell for a whole-cell write of it, BROKEN for any other write that touches it (R5, R6). -/
def Slot.afterWrite (touched : List (Nat × Nat)) (whole : Option (Nat × Nat)) (cell : List Byte) (r : Slot) : Slot :=
  if whole = some (r.region, r.number) then { r with st := startCell cell }
  else if touched.contains (r.region, r.number) then { r with st := .broken }
  else r

/-- A part of a touched slot: one awaiting its answer becomes stale, a held one is settled as NO_CELL at once (R17). -/
def Part.stale (touched : List (Nat × Nat)) (p : Part) : Part :=
  if touched.contains (p.region, p.slot) then
    match p.serving with
    | .waiting _ => { p with serving := .waiting true }
    | .held => { p with serving := .slate 0 none }
    | _ => p
  else p

/-- The part is held on a slot among these. -/
def Part.heldOn (slots : List (Nat × Nat)) (p : Part) : Bool := p.serving == .held && slots.contains (p.region, p.slot)

/-- Slate reads, with slate cell `r`, for every part held on these slots, in arrival order. -/
def State.heldSlateReads (s : State) (slots : List (Nat × Nat)) (r : Fin 8) : List Emission :=
  s.path.inflight.flatMap (fun e => (e.parts.filter (Part.heldOn slots)).map (fun p => s.slateRequest e.id p r))

/-- The cell tracker's part of taking a write: slot records change and parts in flight become stale (R5, R6, R17). -/
def State.trackWrite (touched : List (Nat × Nat)) (whole : Option (Nat × Nat)) (cell : List Byte) (s : State) : State :=
  { s with
    slots := s.slots.map (Slot.afterWrite touched whole cell)
    path := { s.path with
      inflight := s.path.inflight.map (fun e => { e with parts := e.parts.map (Part.stale touched) }) } }

/-! ### The end of a hold (R20, R21) -/

/-- The service that the end of a hold gives a held part. -/
def endServing (h : Header) : Verdict → Serving
  | .clear w => .clear w h.seq
  | .slate r => .slate r none
  | _ => .held

/-- A hold on a slot ends with a verdict: it is latched, every held part of the slot takes its service, and slate reads are issued now (R20, R21). -/
def State.finishHold (region number : Nat) (h : Header) (v : Verdict) (s : State) : State :=
  let reads := match v with
    | .slate r => s.heldSlateReads [(region, number)] r
    | _ => []
  let s1 := s.latch region number v
  State.presentTogether reads
    { s1 with path := { s1.path with
        inflight := s1.path.inflight.map (fun e =>
          { e with parts := e.parts.map (fun p =>
              if p.heldOn [(region, number)] then { p with serving := endServing h v } else p) }) } }

/-- The hold of one slot at a reported fill, for the awaited service, parity and period: the key check alone is run again; CLEAR latches with the
flag or mark of its origin, anything else latches SLATE(4) (R20, R62). -/
def State.endHoldByFill (svc : Service) (odd : Bool) (n : Period) (region number : Nat) (h : Header) (o : Origin) (s : State) : State :=
  match s.keyCheck svc odd n with
  | .clear w => State.finishHold region number h (.clear w) ((s.touchKey svc).applyOrigin o h.tag)
  | _ => s.finishHold region number h (.slate 4)

/-- A reported fill ends the hold of every slot HELD for the same service, parity and period (R20), in the order of the slot table (DESIGN CHOICE,
assumption log 27). -/
def fillHolds (svc : Service) (odd : Bool) (n : Period) : List Slot → State → State
  | [], s => s
  | r :: rs, s =>
    match r.st with
    | .program h (.held o svc' odd' n') =>
      if svc' = svc ∧ odd' = odd ∧ n' = n then
        fillHolds svc odd n rs (s.endHoldByFill svc odd n r.region r.number h o)
      else fillHolds svc odd n rs s
    | _ => fillHolds svc odd n rs s

/-- The 40 microsecond timer of a slot expires: a HELD slot latches SLATE(4); a slot no longer HELD is not touched (R21). -/
def State.expireHold (region number : Nat) (s : State) : State :=
  match s.slotAt region number with
  | some (.program h (.held _ _ _ _)) => (s.finishHold region number h (.slate 4)).drain
  | _ => s

end Sys2Proof.Machine
end

