-- ==== Sys2Proof/Machine/Purse.lean ====
section
/-! DEFINITION. Pricing and the purse (chapter 5): prices, the refusal orders, purchases, the viewer's cancel, top-ups, limits, memberships and zone. -/

namespace Sys2Proof.Machine

/-! ### Prices (R90, R91) -/

/-- The price of a fixture at a clock value (R90). -/
def fixturePrice (sch : Schedule) (c : Seconds) : Nat :=
  let elapsed := c.toNat - sch.kickOff.toNat
  let cut := elapsed / sch.stepLen.toNat * sch.stepCut.toNat
  if cut + sch.floor.toNat ≤ sch.base.toNat then sch.base.toNat - cut else sch.floor.toNat

/-- The paid amount of a tag whose entry is IMPULSE, otherwise 0 (R91). -/
def State.paidOf (s : State) (t : Tag) : Nat :=
  match s.fixture t with
  | some e => e.paid.toNat
  | none => 0

/-- The distinct nonzero members of a pass (R91). -/
def PassEntry.distinctMembers (p : PassEntry) : List Tag := (p.members.filter (fun t => t != 0)).eraseDups

/-- The price of a pass with a schedule part: its base less what its members' purchases already paid, or 0 (R91). -/
def State.passPrice (s : State) (p : PassEntry) (sale : PassSale) : Nat :=
  sale.base.toNat - (p.distinctMembers.map s.paidOf).sum

/-! ### Refusal orders (Tables 5-3, 5-4, R96) -/

/-- The last three checks of a purchase, in order: log, cap, credit (Tables 5-3, 5-4). -/
def State.fundsCheck (s : State) (price : Nat) : OrderOutcome :=
  if s.logFull then .logFull
  else if s.purse.cap < s.purse.spent + price then .capReached
  else if s.purse.balance - (price : Int) < -(s.purse.overdraft.toNat : Int) then .noCredit
  else .accepted

/-- The stated price differs from the computed one; a quote states none (R92, R102). -/
def priceDiffers (stated : Option Credit) (price : Nat) : Bool :=
  match stated with
  | some p => p.toNat != price
  | none => false

/-- Orders 3 to 11 of Table 5-3, for an entry with a schedule part. -/
def State.buyScheduled (s : State) (e : FixtureEntry) (sch : Schedule) (ph : Phase) (stated : Option Credit) : OrderOutcome :=
  if ph = .listed then .notOnSale
  else if ph = .ended ∨ ph = .retired then .ended
  else if ph = .cancelled then .cancelled
  else if e.kind ≠ .none then .alreadyEntitled
  else if blackedOut s.purse.zone sch then .blackedOut
  else if priceDiffers stated (fixturePrice sch s.now) then .priceChanged
  else s.fundsCheck (fixturePrice sch s.now)

/-- Table 5-3 whole: the outcome, and the price when it was computed, which is once the first two checks have passed (R89, R92). -/
def State.buyCheck (s : State) (t : Tag) (stated : Option Credit) : OrderOutcome × Nat :=
  if s.clock.running = false then (.noTime, 0)
  else
    match s.fixture t with
    | none => (.unknownFixture, 0)
    | some e =>
      match e.standing with
      | .awaiting => (.unknownFixture, 0)
      | .scheduled sch ph => (s.buyScheduled e sch ph stated, fixturePrice sch s.now)

/-- Orders 3 to 9 of Table 5-4, for a pass with a schedule part. -/
def State.passScheduled (s : State) (p : PassEntry) (sale : PassSale) (stated : Option Credit) : OrderOutcome :=
  if s.now.toNat < sale.opens.toNat then .notOnSale
  else if sale.closes.toNat ≤ s.now.toNat then .ended
  else if p.owned then .alreadyEntitled
  else if priceDiffers stated (s.passPrice p sale) then .priceChanged
  else s.fundsCheck (s.passPrice p sale)

/-- Table 5-4 whole: the outcome, and the price when it was computed (R89, R94). -/
def State.passCheck (s : State) (id : PassId) (stated : Option Credit) : OrderOutcome × Nat :=
  if s.clock.running = false then (.noTime, 0)
  else
    match s.pass id with
    | none => (.unknownPass, 0)
    | some p =>
      match p.sale with
      | none => (.unknownPass, 0)
      | some sale => (s.passScheduled p sale stated, s.passPrice p sale)

/-- The viewer may not cancel: kind other than IMPULSE, clock UNSET, at or after kick-off, or viewed (R96). -/
def State.notCancellable (s : State) (e : FixtureEntry) (sch : Schedule) : Bool :=
  (match e.kind with
   | .impulse _ => false
   | _ => true) || !s.clock.running || decide (sch.kickOff.toNat ≤ s.now.toNat) || e.viewed

/-- The checks of a CANCEL (R96). -/
def State.cancelCheck (s : State) (t : Tag) : OrderOutcome :=
  match s.fixture t with
  | none => .unknownFixture
  | some e =>
    match e.standing with
    | .awaiting => .unknownFixture
    | .scheduled sch _ =>
      if s.notCancellable e sch then .notCancellable
      else if s.logFull then .logFull
      else .accepted

/-! ### Purchases and the viewer's cancel (R93, R95, R98) -/

/-- The purse after a debit: the balance falls by the price and spent tonight rises by it, saturating (R93). -/
def Purse.debited (p : Purse) (price : Nat) : Purse :=
  { p with balance := p.balance - (price : Int), spent := min (p.spent + price) creditMax }

/-- An accepted BUY_FIXTURE (R93). -/
def State.buyFixture (t : Tag) (price : Nat) (s : State) : State :=
  State.bookNearlyFull
    (State.updateFixture t (fun e => { e with kind := .impulse (BitVec.ofNat 16 price) })
      (State.addEntry .purchase t (BitVec.ofNat 16 price) (s.setPurse (s.purse.debited price))))

/-- An accepted BUY_PASS (R95). -/
def State.buyPass (id : PassId) (price : Nat) (s : State) : State :=
  let members := match s.pass id with
    | some p => p.members
    | none => []
  State.bookNearlyFull
    (State.propagate id members
      (State.updatePass id (fun p => { p with owner := .bought (BitVec.ofNat 16 price) })
        (State.addEntry .passPurchase (id.setWidth 16) (BitVec.ofNat 16 price) (s.setPurse (s.purse.debited price)))))

/-- An accepted CANCEL (R98). -/
def State.cancelFixture (t : Tag) (s : State) : State :=
  let paid := match s.fixture t with
    | some e => e.paid
    | none => 0
  State.bookNearlyFull
    (State.updateFixture t (fun e => { e with kind := .none, viewed := false }) (s.refund .viewer t paid))

/-! ### Grants to the purse (R100, R101, R129, R130) -/

/-- The credit a top-up applies: at most 16,777,215, and at most the room below the upper bound (R100). -/
def topupApplied (balance : Int) (amount : Nat) : Int := min (min amount creditMax : Nat) ((creditMax : Int) - balance)

/-- PURSE_TOPUP: balance and reference rise by the amount applied (R100). -/
def State.topup (amount : Nat) (s : State) : State :=
  s.setPurse { s.purse with
    balance := s.purse.balance + topupApplied s.purse.balance amount
    reference := s.purse.reference + topupApplied s.purse.balance amount }

/-- LIMITS_SET: cap and overdraft limit are replaced together (R101). -/
def State.setLimits (cap : Nat) (overdraft : Credit) (s : State) : State :=
  s.setPurse { s.purse with cap := min cap creditMax, overdraft := overdraft }

/-- ZONE_SET (R130). -/
def State.setZone (z : Zone) (s : State) : State := s.setPurse { s.purse with zone := z }

/-- GROUP_SET: group 0 clears the slot; any other group takes the key unwrapped under the unit key, with the grant sequence as the seed (R28, R129). -/
def State.setGroup (slot : Nat) (g : Group) (seed : Seq) (w0 w1 : Word) (s : State) : State :=
  let m : Membership := if g = 0 then { group := 0, key := 0 } else { group := g, key := unwrap s.unit.key seed w0 w1 }
  s.setPurse { s.purse with memberships := s.purse.memberships.set slot m }

end Sys2Proof.Machine
end

