-- ==== Sys2Proof/Machine/Log.lean ====
section
/-! DEFINITION. The purchase log (chapter 6): sequence comparison, acknowledgment, the serving of the refund queue, and the selection of LOG_READ. -/

namespace Sys2Proof.Machine

/-- The distance of a sequence number from the oldest entry's, modulo 2^32 (R107). -/
def seqDistance (n q : Seq) : Nat := (n - q).toNat

/-- How many of the oldest entries lie at or before `n`; none when `n` is before the oldest entry or the log is empty (R107, R110). -/
def ackCount (entries : List LogEntry) (n : Seq) : Nat :=
  match entries with
  | [] => 0
  | e :: _ => if seqDistance n e.seq < 2147483648 then min (seqDistance n e.seq + 1) entries.length else 0

/-- What the removal of an entry adds to the reference: a purchase lowers it, a refund raises it (R111). -/
def entryFold (e : LogEntry) : Int :=
  match e.kind with
  | .refund _ => (e.amount.toNat : Int)
  | _ => -(e.amount.toNat : Int)

/-- The sum of the folds of a list of entries. -/
def foldSum (es : List LogEntry) : Int := (es.map entryFold).sum

/-- The first part of a LOG_ACK: the `k` oldest entries are removed and folded into the reference; with one or more, S0 and S1 are marked dirty (R111). -/
def State.removeEntries (k : Nat) (s : State) : State :=
  State.markS0 (decide (0 < k)) (State.markS1 (decide (0 < k))
    { s with
      purse := { s.purse with reference := s.purse.reference + foldSum (s.log.entries.take k) }
      log := { s.log with entries := s.log.entries.drop k } })

/-- The conditions after the refund queue was served, `before` being the queue the step found (R113). -/
def State.settleQueue (before : List Tag) (s : State) : State :=
  let served := before.length - s.refunds.length
  let s1 :=
    if before ≠ [] ∧ s.refunds = [] then s.unbook .refundWaiting
    else if 0 < served then s.book .refundWaiting (.length s.refunds.length)
    else s
  if 0 < served then s1.bookNearlyFull else s1

/-- LOG_ACK(n): removal and folding, the serving of the refund queue, and the bookkeeping, as one step (R110 to R113). -/
def State.acknowledge (n : Seq) (s : State) : State :=
  let s1 := s.removeEntries (ackCount s.log.entries n)
  s1.serveRefunds.settleQueue s.refunds

/-- The entries that a LOG_READ selects (R115). -/
def selectEntries (entries : List LogEntry) (start : Seq) (count : Nat) : List LogEntry :=
  match entries with
  | [] => []
  | e :: _ =>
    let skip := if seqDistance start e.seq < 2147483648 then seqDistance start e.seq else 0
    (entries.drop skip).take (min count 8)

end Sys2Proof.Machine
end

