-- ==== Sys2Proof/Machine/Engine.lean ====
section
/-! DEFINITION. The message engine (chapter 7): control cells at their write, completions at the head of the queue, and the dispatch of grants. -/

namespace Sys2Proof.Machine

/-! ### At the write (R119 to R122) -/

/-- The operand checks of Table 7-1 on a grant addressed to this decoder. -/
def grantOperandsOk (cell : List Byte) : Bool :=
  let k := (grantKind cell).toNat
  if k = 1 then decide ((grantOp cell).toNat ≤ 3)
  else if k = 5 ∨ k = 6 then
    grantOp cell == 0 || (grantOp cell == 1 && decide ((grantIdent cell).toNat ≤ 255))
  else decide (2 ≤ k ∧ k ≤ 8)

/-- A grant is addressed to this decoder at its write: to this unit, or, for ENTITLE and REVOKE, to a group it belongs to (R121, steps 1 to 3). -/
def State.grantAddressed (s : State) (cell : List Byte) : Bool :=
  if grantTarget cell = 0 then grantUnit cell == s.unit.number && grantUnit cell != 0
  else if grantTarget cell = 1 then
    (s.membership (grantGroup cell)).isSome && (grantKind cell == 5 || grantKind cell == 6)
  else false

/-- A cell is queued, or dropped with CELL_DROP when the queue holds 16 (R119, R121). -/
def State.queueOrDrop (k : CtrlKind) (cell : List Byte) (s : State) : State :=
  if s.queueFull then s.book .cellDrop (.reason .queueFull) else s.enqueue ⟨k, cell⟩

/-- A GRANT cell with a good checksum at its write (R120, R121). -/
def State.takeGrantCell (cell : List Byte) (s : State) : State :=
  if s.restoring then s.book .cellDrop (.reason .restoring)
  else if !s.grantAddressed cell then s
  else if !grantOperandsOk cell then s.book .badCell (.reason .badGrant)
  else s.queueOrDrop .grant cell

/-- The bytes of a control cell handed over by the cell tracker (R7, R119). -/
def State.handOver (cell : List Byte) (s : State) : State :=
  match classify (byteAt cell 0) with
  | .control k =>
    if !checksumOk cell then s.book .badCell (.reason .badChecksum)
    else match k with
      | .key => s.takeKeyCell cell
      | .grant => s.takeGrantCell cell
      | .time => s.queueOrDrop .time cell
      | .fixture => s.queueOrDrop .fixture cell
      | .pass => s.queueOrDrop .pass cell
  | _ => s

/-! ### Completions (R123 to R127) -/

/-- The cell at the head, when it is of this kind. -/
def State.headCell (s : State) (k : CtrlKind) : Option (List Byte) :=
  match s.engine.queue with
  | c :: _ => if c.kind = k then some c.bytes else none
  | [] => none

/-- The completion of a head cell of kind `k`: its effect, and with it the cell leaves the queue (R123). With no such cell at the head there is no event. -/
def State.complete (k : CtrlKind) (effect : List Byte → State → State) (s : State) : State :=
  match s.headCell k with
  | some cell => (effect cell s).popCell
  | none => s

/-- A KEY cell's completion: with a control word it fills a matching PENDING slot and ends the holds that await it (R37, R20); without a membership it
empties its PENDING slot (R38); in every other case the result is discarded. -/
def State.completeKey (cell : List Byte) (s : State) : State :=
  let h := parseHeader cell
  if s.pendingFor h then
    match s.engine.headKey with
    | some gk =>
      let s1 := s.fillKey h (unwrap gk h.seq (pay32 cell 2) (pay32 cell 6))
      fillHolds h.service h.parity h.period s1.slots s1
    | none => s.emptyKey h
  else s

/-- The checks at a grant's completion: a group-addressed grant needs the membership, a unit-addressed one a sequence greater than the last (R125, R127). -/
def State.grantApplies (s : State) (cell : List Byte) : Bool :=
  if grantTarget cell = 1 then (s.membership (grantGroup cell)).isSome
  else grantTarget cell == 0 && grantUnit cell == s.unit.number && decide (s.purse.lastSeq.toNat < (grantSeq cell).toNat)

/-- An applied unit-addressed grant becomes the last grant sequence; a group-addressed one does not touch it (R125, R127). -/
def State.advanceSeq (cell : List Byte) (s : State) : State :=
  if grantTarget cell = 1 then s else s.setPurse { s.purse with lastSeq := grantSeq cell }

/-- A grant at the head that is of the given kind. -/
def State.headGrant (s : State) (is : List Byte → Bool) : Option (List Byte) :=
  match s.headCell .grant with
  | some cell => if is cell then some cell else none
  | none => none

/-- The completion of a grant of the given kind: applied by its owner or set aside, and the cell leaves the queue, all in one step (R123, R125, R128). -/
def State.completeGrant (is : List Byte → Bool) (owner : List Byte → State → State) (s : State) : State :=
  match s.headGrant is with
  | some cell =>
    if s.grantApplies cell then (owner cell (s.advanceSeq cell)).popCell else s.popCell
  | none => s

/-- The grant kind byte is this one. -/
def isGrant (k : Nat) (cell : List Byte) : Bool := (grantKind cell).toNat == k

/-- An ENTITLE or REVOKE of a fixture (target 0) or a pass (target 1) (R128). -/
def isGrantOf (k target : Nat) (cell : List Byte) : Bool := isGrant k cell && (grantOp cell).toNat == target

/-- The pass identifier of an ENTITLE or REVOKE; the write has checked that it is at most 255 (Table 7-1). -/
def grantPass (cell : List Byte) : PassId := (grantIdent cell).setWidth 8

end Sys2Proof.Machine
end

