-- ==== Sys2Proof/Machine/EngineCommands.lean ====
section
/-! DEFINITION. The meanings of the commands of the message engine and the match clock: completions at the head of the queue, and the second event. -/

namespace Sys2Proof.Machine

/-- UNWRAP_COMPLETION (R37, R38, R123). -/
def execUnwrapCompletion (s : State) : Host.Outcome State Fault Refusal :=
  .next (State.drain (s.complete .key State.completeKey))

/-- ANNOUNCEMENT (R69, R123). -/
def execAnnouncement (s : State) : Host.Outcome State Fault Refusal :=
  .next (s.complete .fixture State.applyAnnouncement)

/-- PASS_CELL_COMPLETION (R81, R123). -/
def execPassCell (s : State) : Host.Outcome State Fault Refusal :=
  .next (s.complete .pass State.applyPassCell)

/-- TIME_CELL_ADOPTION (R138, R123). -/
def execTimeCell (s : State) : Host.Outcome State Fault Refusal :=
  .next (s.complete .time (fun cell s => s.adoptTime (pay32 cell 0)))

/-- GROUP_SET (R129, R28). -/
def execGroupSet (s : State) : Host.Outcome State Fault Refusal :=
  .next (s.completeGrant (isGrant 1) (fun cell s =>
    s.setGroup (grantOp cell).toNat (grantIdent cell) (grantSeq cell) (pay32 cell 13) (pay32 cell 17)))

/-- ZONE_SET (R130). -/
def execZoneSet (s : State) : Host.Outcome State Fault Refusal :=
  .next (s.completeGrant (isGrant 2) (fun cell s => s.setZone (grantOp cell)))

/-- PURSE_TOPUP (R100). -/
def execPurseTopup (s : State) : Host.Outcome State Fault Refusal :=
  .next (s.completeGrant (isGrant 3) (fun cell s => s.topup (grantAmount cell).toNat))

/-- LIMITS_SET (R101). -/
def execLimitsSet (s : State) : Host.Outcome State Fault Refusal :=
  .next (s.completeGrant (isGrant 4) (fun cell s => s.setLimits (grantAmount cell).toNat (grantOverdraft cell)))

/-- ENTITLE_FIXTURE (R77). -/
def execEntitleFixture (s : State) : Host.Outcome State Fault Refusal :=
  .next (s.completeGrant (isGrantOf 5 0) (fun cell s => s.entitleFixture (grantIdent cell)))

/-- ENTITLE_PASS (R83). -/
def execEntitlePass (s : State) : Host.Outcome State Fault Refusal :=
  .next (s.completeGrant (isGrantOf 5 1) (fun cell s => s.entitlePass (grantPass cell)))

/-- REVOKE_FIXTURE (R78). -/
def execRevokeFixture (s : State) : Host.Outcome State Fault Refusal :=
  .next (s.completeGrant (isGrantOf 6 0) (fun cell s => s.revokeFixture (grantIdent cell)))

/-- REVOKE_PASS (R84). -/
def execRevokePass (s : State) : Host.Outcome State Fault Refusal :=
  .next (s.completeGrant (isGrantOf 6 1) (fun cell s => s.revokePass (grantPass cell)))

/-- LOG_ACK (R110). -/
def execLogAck (s : State) : Host.Outcome State Fault Refusal :=
  .next (s.completeGrant (isGrant 7) (fun cell s => s.acknowledge (grantAmount cell)))

/-- NIGHT_RESET (R79). -/
def execNightReset (s : State) : Host.Outcome State Fault Refusal :=
  .next (s.completeGrant (isGrant 8) (fun _ s => s.nightReset))

/-- SECOND_EVENT: the end of a second (R136; assumption log 11). -/
def execSecondEvent (s : State) : Host.Outcome State Fault Refusal :=
  .next (s.secondEvent)

end Sys2Proof.Machine
end

