-- ==== Sys2Proof/Machine/Reports.lean ====
section
/-! DEFINITION. The report ring (sections 11.3 to 11.5, 13.4, 13.5): record layouts, the report writer, and the host's consumer word. -/

namespace Sys2Proof.Machine

/-! ### Codes (Table 13-16) -/

/-- Outcome and refusal codes. -/
def OrderOutcome.code : OrderOutcome → Nat
  | .accepted => 0 | .noTime => 1 | .unknownFixture => 2 | .unknownPass => 3 | .notOnSale => 4 | .ended => 5 | .cancelled => 6
  | .alreadyEntitled => 7 | .blackedOut => 8 | .priceChanged => 9 | .logFull => 10 | .capReached => 11 | .noCredit => 12
  | .notCancellable => 13 | .badOrder => 14

/-- Phase codes; ABSENT is 0. -/
def phaseCode : Option FixtureEntry → Nat
  | none => 0
  | some e =>
    match e.standing with
    | .awaiting => 1
    | .scheduled _ .listed => 2
    | .scheduled _ .onSale => 3
    | .scheduled _ .live => 4
    | .scheduled _ .ended => 5
    | .scheduled _ .retired => 6
    | .scheduled _ .cancelled => 7

/-- Entitlement kind codes. -/
def Kind.code : Kind → Nat
  | .none => 0 | .impulse _ => 1 | .granted => 2 | .pass _ => 3

/-- Ownership codes. -/
def ownershipCode : Ownership → Nat
  | .none => 0 | .bought _ => 1 | .granted => 2

/-- Log entry kind codes. -/
def logKindCode : LogKind → Nat
  | .purchase => 1 | .passPurchase => 2 | .refund _ => 3

/-- Refund cause codes; 0 for an entry that is no refund. -/
def causeCode : LogKind → Nat
  | .refund .operator => 1
  | .refund .viewer => 2
  | _ => 0

/-- Cell reason codes. -/
def CellReason.code : CellReason → Nat
  | .badChecksum => 1 | .badGrant => 2 | .badTag => 3 | .badSchedule => 4 | .queueFull => 5 | .keyTableFull => 6 | .restoring => 7

/-- A condition's rank, its code in a CONDITION record (Tables 11-2, 13-15). -/
def CondKind.rank : CondKind → Nat
  | .storeLost => 1 | .refundWaiting => 2 | .logNearlyFull => 3 | .entitlementChanged => 4 | .cellDrop => 5 | .badCell => 6
  | .shieldHit => 7 | .tableFull => 8 | .clockJump => 9 | .indexBad => 10

/-- A flag or clock state as a code. -/
def boolCode (b : Bool) : Nat := if b then 1 else 0

/-! ### Record layouts (Tables 13-10 to 13-15) -/

/-- A one-byte field. -/
def one (off v : Nat) : Nat × List Byte := (off, [BitVec.ofNat 8 v])

/-- A two-byte field. -/
def two (off v : Nat) : Nat × List Byte := (off, bytes16 (BitVec.ofNat 16 v))

/-- A four-byte field. -/
def four (off : Nat) (v : BitVec 32) : Nat × List Byte := (off, bytes32 v)

/-- A signed four-byte field. -/
def signed (off : Nat) (z : Int) : Nat × List Byte := (off, bytesInt z)

/-- The fields of a REPLY from byte 8 (Table 13-12). -/
def ReplyBody.fields : ReplyBody → List (Nat × List Byte)
  | .purchase price seq balance => [two 8 price, four 12 seq, signed 16 balance]
  | .cancel seq balance => [four 12 seq, signed 16 balance]
  | .quote entry price blackout refusal =>
    [one 8 (phaseCode entry), one 9 ((entry.map (fun e => e.kind.code)).getD 0), two 10 price,
      two 12 ((entry.map (·.remaining)).getD 0), one 14 (boolCode blackout), one 15 refusal.code]
  | .quotePass entry price refusal =>
    [one 8 ((entry.map (fun p => ownershipCode p.owner)).getD 0), one 9 ((entry.map (·.members.length)).getD 0), two 10 price,
      two 12 ((entry.map (fun p => (ownershipPaid p.owner).toNat)).getD 0), one 15 refusal.code]
  | .purse p count next clock running =>
    [signed 8 p.balance, four 12 (BitVec.ofNat 32 p.spent), four 16 (BitVec.ofNat 32 p.cap), two 20 p.overdraft.toNat, one 22 count,
      one 23 p.zone.toNat, four 24 next, four 28 clock, one 32 (boolCode running)]
  | .logRead returned next => [one 8 returned, four 12 next]
  | .fixtureList returned next => [one 8 returned, one 9 next]
  | .bad => []

/-- The data bytes of a CONDITION (Table 13-15). -/
def CondData.fields : CondData → List (Nat × List Byte)
  | .sections x => [one 8 (boolCode x.s0 + 2 * boolCode x.s1 + 4 * boolCode x.s2)]
  | .length n => [one 8 n]
  | .tag t => [two 8 t.toNat]
  | .reason r => [one 8 r.code]
  | .shield c region => [one 8 (classCode c), one 9 region]
  | .table ident t => [two 8 ident.toNat, one 10 (match t with
      | .fixtureTable => 0
      | .passTable => 1)]
  | .difference d => [signed 8 d]
  | .index v w => [four 8 v, one 12 (match w with
      | .orderProducer => 0
      | .reportConsumer => 1)]

/-- The pass identifier field of a FIXTURE_ENTRY: 0 for a kind other than PASS (R179). -/
def Kind.passField : Kind → Nat
  | .pass id => id.toNat
  | _ => 0

/-- The schedule fields of a FIXTURE_ENTRY: 0 for an AWAITING entry (R179). -/
def scheduleFields : Option Schedule → List (Nat × List Byte)
  | none => [one 16 0]
  | some sch => [one 16 1, two 18 sch.service.toNat, four 20 sch.kickOff, four 24 sch.finish]

/-- The assigned fields of a report. -/
def Report.fields : Report → List (Nat × List Byte)
  | .placed p => [one 0 1, four 4 p.unit, signed 8 p.balance, one 12 p.logCount, one 13 (boolCode p.running)]
  | .reply k outcome slot orderNo body =>
    [one 0 2, one 1 k.toNat, one 2 outcome.code, one 3 slot, four 4 orderNo] ++ body.fields
  | .logEntry orderNo e =>
    [one 0 3, one 1 (logKindCode e.kind), one 2 (causeCode e.kind), four 4 orderNo, four 8 e.seq, two 12 e.ident.toNat, two 14 e.amount.toNat,
      four 16 e.clock, signed 20 e.balanceAfter]
  | .fixtureEntry orderNo index e =>
    [one 0 4, one 1 index, one 2 (phaseCode (some e)), one 3 e.kind.code, four 4 orderNo, two 8 e.tag.toNat, one 10 e.kind.passField,
      one 11 (boolCode e.viewed), two 12 e.paid.toNat, two 14 e.remaining] ++ scheduleFields e.schedule
  | .condition k count data =>
    [one 0 5, one 1 k.rank, two 2 count] ++ ((data.map CondData.fields).getD [])

/-- The 64 bytes of a report: unassigned bytes are 0 (R179). -/
def Report.encode (r : Report) : List Byte := record 64 r.fields

/-! ### The report writer (R163, R168, R169) -/

/-- Room of a ring: capacity - 1 minus the unconsumed count (R164). -/
def RingView.room (v : RingView) : Nat := v.cap - 1 - v.unconsumed

/-- Room of the report ring; none without a view. -/
def State.reportRoom (s : State) : Nat :=
  match s.reports.view with
  | some v => v.room
  | none => 0

/-- The two own writes of one record: the record, then the new producer word (R168). -/
def reportWrites (v : RingView) (r : Report) : List Emission :=
  [wholeWrite (v.base + BitVec.ofNat 32 (128 + 64 * v.prod)) r.encode, indexWrite v.base ((v.prod + 1) % v.cap)]

/-- The view after one record is written: the producer advances by 1 modulo the capacity (R168). -/
def RingView.produced (v : RingView) : RingView := { v with prod := (v.prod + 1) % v.cap }

/-- One record is written in one step (R168). Without a view there is no ring. -/
def State.writeReport (r : Report) (s : State) : State :=
  match s.reports.view with
  | some v =>
    State.present (reportWrites v r) { s with reports := { s.reports with view := some v.produced } }
  | none => s

/-- The report writer may write a record: it has room for one and the placement unit holds no pending PLACED report (R168). -/
def State.mayReport (s : State) : Bool := decide (1 ≤ s.reportRoom) && !s.placement.pendingReport

/-- The report consumer word's value from a CPU write (R163). -/
def State.setReportConsumer (v : BitVec 32) (s : State) : State :=
  match s.reports.view with
  | some w =>
    if w.cap ≤ v.toNat then s.book .indexBad (.index v .reportConsumer)
    else { s with reports := { s.reports with view := some { w with cons := v.toNat } } }
  | none => s

/-- The PLACED report's values as they stand (R161). -/
def State.placedReport (s : State) : PlacedReport :=
  { unit := s.unit.number, balance := s.purse.balance, logCount := s.logCount, running := s.clock.running }

end Sys2Proof.Machine
end

