-- ==== Sys2Proof/Machine/Orders.lean ====
section
/-! DEFINITION. The order unit (sections 11.1, 11.2): the producer word, fetching, and the taking of each order kind with the reply it composes. -/

namespace Sys2Proof.Machine

/-- The order ring is empty when the producer equals the consumer (R162). -/
def RingView.hasWaiting (v : RingView) : Bool := v.prod != v.cons

/-- The order unit leaves IDLE for WAITING_ROOM when the part is PLACED, an order waits and the retention unit is not RESTORING (R164). -/
def State.wake (s : State) : State :=
  match s.orders.st, s.orders.view with
  | .idle, some v =>
    if s.isPlaced && v.hasWaiting && !s.restoring then { s with orders := { s.orders with st := .waitingRoom } } else s
  | _, _ => s

/-- The order producer word's value from a CPU write (R163, R164). -/
def State.setOrderProducer (v : BitVec 32) (s : State) : State :=
  match s.orders.view with
  | some w =>
    if w.cap ≤ v.toNat then s.book .indexBad (.index v .orderProducer)
    else
      let w1 := { w with prod := v.toNat }
      let s1 := { s with orders := { s.orders with view := some w1 } }
      if s.orders.st = .waitingRoom ∧ w1.hasWaiting = false then { s1 with orders := { s1.orders with st := .idle } } else s1.wake
  | none => s

/-- The address of an order slot (R164). -/
def orderSlotAddr (v : RingView) : Addr := v.base + BitVec.ofNat 32 (128 + 64 * v.cons)

/-- In WAITING_ROOM with room for one record, the fetch is issued and the consumer advanced, in one step (R164). -/
def State.fetchOrder (s : State) : State :=
  let s1 := s.wake
  match s1.orders.st, s1.orders.view with
  | .waitingRoom, some v =>
    if v.hasWaiting = true ∧ 1 ≤ s1.reportRoom then
      State.present [.own (.orderFetch (orderSlotAddr v))]
        { s1 with orders := { st := .fetching v.cons none, view := some { v with cons := (v.cons + 1) % v.cap } } }
    else s1
  | _, _ => s1

/-- The fetch's answer: the order's bytes are kept, and the advanced consumer is written to the order consumer word (R164). -/
def State.fetchAnswer (a : Answer) (s : State) : State :=
  match s.orders.st, s.orders.view with
  | .fetching slot none, some v =>
    State.present [indexWrite (v.base + 64) v.cons] { s with orders := { s.orders with st := .fetching slot (some a) } }
  | _, _ => s

/-! ### Taking the fetched order (R165) -/

/-- A clean fetch of an order of this kind. -/
def isOrder (k : Nat) (a : Answer) : Bool := !a.err && (orderKind a.data).toNat == k

/-- The fetched order is taken when the report ring has room for its largest reply; the unit enters REPLYING with the records composed
in that step. Without such an order, or without the room, nothing happens (R165). -/
def State.takeOrder (is : Answer → Bool) (need : Nat) (f : Nat → Answer → State → List Report × State) (s : State) : State :=
  match s.orders.st with
  | .fetching slot (some a) =>
    if is a = true ∧ need ≤ s.reportRoom then
      let r := f slot a s
      { r.2 with orders := { r.2.orders with st := .replying r.1 } }
    else s
  | _ => s

/-- The REPLY to an order (Table 13-11). -/
def replyTo (slot : Nat) (o : List Byte) (outcome : OrderOutcome) (body : ReplyBody) : Report :=
  .reply (orderKind o) outcome slot (orderNumber o) body

/-- BUY_FIXTURE (R92, R93). A refusal changes nothing and carries log sequence 0 (R89, R166). -/
def State.answerBuyFixture (slot : Nat) (a : Answer) (s : State) : List Report × State :=
  let c := s.buyCheck (orderTag a.data) (some (orderPrice a.data))
  if c.1 = .accepted then
    let s1 := s.buyFixture (orderTag a.data) c.2
    ([replyTo slot a.data .accepted (.purchase c.2 s.log.next s1.purse.balance)], s1)
  else ([replyTo slot a.data c.1 (.purchase c.2 0 s.purse.balance)], s)

/-- BUY_PASS (R94, R95). -/
def State.answerBuyPass (slot : Nat) (a : Answer) (s : State) : List Report × State :=
  let c := s.passCheck (orderByte a.data) (some (orderPrice a.data))
  if c.1 = .accepted then
    let s1 := s.buyPass (orderByte a.data) c.2
    ([replyTo slot a.data .accepted (.purchase c.2 s.log.next s1.purse.balance)], s1)
  else ([replyTo slot a.data c.1 (.purchase c.2 0 s.purse.balance)], s)

/-- CANCEL (R96, R98). -/
def State.answerCancel (slot : Nat) (a : Answer) (s : State) : List Report × State :=
  let c := s.cancelCheck (orderTag a.data)
  if c = .accepted then
    let s1 := s.cancelFixture (orderTag a.data)
    ([replyTo slot a.data .accepted (.cancel s.log.next s1.purse.balance)], s1)
  else ([replyTo slot a.data c (.cancel 0 s.purse.balance)], s)

/-- The price a QUOTE reports: 0 without a schedule part (R102). -/
def State.quotePrice (s : State) (e : Option FixtureEntry) : Nat :=
  match e.bind FixtureEntry.schedule with
  | some sch => fixturePrice sch s.now
  | none => 0

/-- The blackout flag of a QUOTE (R49, R166). -/
def State.quoteBlackout (s : State) (e : Option FixtureEntry) : Bool :=
  match e.bind FixtureEntry.schedule with
  | some sch => blackedOut s.purse.zone sch
  | none => false

/-- QUOTE (R102, R166). -/
def State.answerQuote (slot : Nat) (a : Answer) (s : State) : List Report × State :=
  let e := s.fixture (orderTag a.data)
  ([replyTo slot a.data .accepted
      (.quote e (s.quotePrice e) (s.quoteBlackout e) (s.buyCheck (orderTag a.data) none).1)], s)

/-- The price a QUOTE_PASS reports: 0 without a schedule part (R102). -/
def State.quotePassPrice (s : State) (p : Option PassEntry) : Nat :=
  match p with
  | some p =>
    match p.sale with
    | some sale => s.passPrice p sale
    | none => 0
  | none => 0

/-- QUOTE_PASS (R102, R166). -/
def State.answerQuotePass (slot : Nat) (a : Answer) (s : State) : List Report × State :=
  let p := s.pass (orderByte a.data)
  ([replyTo slot a.data .accepted (.quotePass p (s.quotePassPrice p) (s.passCheck (orderByte a.data) none).1)], s)

/-- PURSE (R166). -/
def State.answerPurse (slot : Nat) (a : Answer) (s : State) : List Report × State :=
  ([replyTo slot a.data .accepted (.purse s.purse s.logCount s.log.next s.now s.clock.running)], s)

/-- LOG_READ: the selected entries as copies, then the REPLY (R115, R116). -/
def State.answerLogRead (slot : Nat) (a : Answer) (s : State) : List Report × State :=
  let es := selectEntries s.log.entries (orderFrom a.data) (orderCount a.data).toNat
  (es.map (Report.logEntry (orderNumber a.data)) ++
    [replyTo slot a.data .accepted (.logRead es.length s.log.next)], s)

/-- The entries in use with their indices, from a start index on (R167). -/
def listFrom (i : Nat) : List (Option FixtureEntry) → List (Nat × FixtureEntry)
  | [] => []
  | some e :: os => (i, e) :: listFrom (i + 1) os
  | none :: os => listFrom (i + 1) os

/-- The selection of a FIXTURE_LIST: up to 8 entries of index `start` or more, in index order (R167). -/
def State.listEntries (s : State) (start : Nat) : List (Nat × FixtureEntry) :=
  ((listFrom 0 s.fixtures).filter (fun p => start ≤ p.1)).take 8

/-- The next index: one past the last entry returned when 8 were returned, otherwise 32 (R167). -/
def listNext (sel : List (Nat × FixtureEntry)) : Nat :=
  if sel.length = 8 then
    match sel.getLast? with
    | some p => p.1 + 1
    | none => 32
  else 32

/-- FIXTURE_LIST (R167). -/
def State.answerFixtureList (slot : Nat) (a : Answer) (s : State) : List Report × State :=
  let sel := s.listEntries (orderByte a.data).toNat
  (sel.map (fun p => Report.fixtureEntry (orderNumber a.data) p.1 p.2) ++
    [replyTo slot a.data .accepted (.fixtureList sel.length (listNext sel))], s)

/-- A failed fetch, or a kind byte other than 1 to 8 (R164, R165). -/
def isBadOrder (a : Answer) : Bool := a.err || (orderKind a.data).toNat == 0 || decide (8 < (orderKind a.data).toNat)

/-- BAD_ORDER: a failed fetch is answered with order number 0 and kind byte 0 (R164, R180). -/
def State.answerBadOrder (slot : Nat) (a : Answer) (s : State) : List Report × State :=
  if a.err then ([.reply 0 .badOrder slot 0 .bad], s) else ([replyTo slot a.data .badOrder .bad], s)

/-- The next reply record is written; after the last one the order unit returns to IDLE and takes the next waiting order (R164, R165, R168). -/
def State.writeReply (s : State) : State :=
  match s.orders.st with
  | .replying (r :: rest) =>
    if s.reports.placed = none ∧ s.mayReport = true then
      let s1 := s.writeReport r
      match rest with
      | [] => State.wake { s1 with orders := { s1.orders with st := .idle } }
      | _ => { s1 with orders := { s1.orders with st := .replying rest } }
    else s
  | _ => s

end Sys2Proof.Machine
end

