-- ==== Sys2Proof/Machine/Placement.lean ====
section
/-! DEFINITION. The placement unit (chapter 10): the arming watch, the reading and checking of the placement record, and the results. -/

namespace Sys2Proof.Machine

/-! ### Results (section 10.4) -/

/-- Placement results (Table 10-2). -/
inductive PlacementResult where
  | placed | badSum | badVersion | badCount | badRegion | overlap | missingKind | tooManyCells | readFailed | alreadyPlaced
  deriving DecidableEq, Repr

/-- Result codes (Table 10-2). -/
def PlacementResult.code : PlacementResult → Nat
  | .placed => 0x20 | .badSum => 0x21 | .badVersion => 0x22 | .badCount => 0x23 | .badRegion => 0x24 | .overlap => 0x25
  | .missingKind => 0x26 | .tooManyCells => 0x27 | .readFailed => 0x28 | .alreadyPlaced => 0x29

/-- The result record (Table 13-8). -/
def resultRecord (c : PlacementResult) (attempts index : Nat) (unit : BitVec 32) : List Byte :=
  record 16 [(0, [BitVec.ofNat 8 c.code]), (1, [BitVec.ofNat 8 attempts]), (2, [BitVec.ofNat 8 index]), (4, bytes32 unit)]

/-- The own write of the result record at the arming address. -/
def State.resultWrite (s : State) (a : Addr) (c : PlacementResult) (index : Nat) : Emission :=
  wholeWrite a (resultRecord c s.placement.attempts index s.unit.number)

/-! ### The arming watch (R155, R156) -/

/-- A write of length 16 with all 16 enables on (R155). -/
def armingShape (w : WriteReq) : Bool := w.data.length == 16 && w.enables == List.replicate 16 true

/-- The attempt count after another completed arming: from 255 it goes to 1 (R156). -/
def nextAttempt (n : Nat) : Nat := if n = 255 then 1 else n + 1

/-- The eighth write of a run: UNPLACED starts reading the record, PLACED answers ALREADY_PLACED (R156).
The head read or result write comes after the forwarded write, as R156 has it for the result write, and after the slate reads of the same step
(DESIGN CHOICE, assumption log 33). -/
def State.completeArming (a : Addr) (s : State) : State :=
  let s1 := { s with placement := { s.placement with run := none, attempts := nextAttempt s.placement.attempts } }
  match s.placement.st with
  | .unplaced =>
    State.present [.own (.headRead (a + 16))] { s1 with placement := { s1.placement with st := .reading a none [] } }
  | .placed => s1.present [s1.resultWrite a .alreadyPlaced 255]
  | .reading _ _ _ => s1

/-- The arming run is replaced. -/
def State.setRun (r : Option ArmingRun) (s : State) : State := { s with placement := { s.placement with run := r } }

/-- The arming run takes a write whose byte 0 holds 1 as the start of a run, and forgets the run at any other (R155). -/
def State.startRun (w : WriteReq) (s : State) : State :=
  s.setRun (if (byteAt w.data 0).toNat = 1 then some { count := 1, addr := w.addr } else none)

/-- A request handled as CPU is judged against the arming run; in READING the count stays 0 (R155). -/
def State.armWatch (r : Request) (s : State) : State :=
  match s.placement.st with
  | .reading _ _ _ => s
  | _ =>
    match r with
    | .read _ => s.setRun none
    | .write w =>
      if armingShape w then
        match s.placement.run with
        | some k =>
          if w.addr = k.addr ∧ (byteAt w.data 0).toNat = k.count + 1 then
            if k.count + 1 = 8 then s.completeArming w.addr else s.setRun (some { k with count := k.count + 1 })
          else s.startRun w
        | none => s.startRun w
      else s.setRun none

/-! ### The record (R157, R158) -/

/-- Exactly `n` bytes of what a read brought back. -/
def exactBytes (n : Nat) (bs : List Byte) : List Byte := (List.range n).map (byteAt bs)

/-- The region count of a head (Table 13-7). -/
def headCount (head : List Byte) : Nat := (byteAt head 1).toNat

/-- A region descriptor as read (Table 13-7). -/
structure Descriptor where
  kind    : Byte
  writers : BitVec 8
  readers : BitVec 8
  base    : Addr
  size    : BitVec 32
  deriving DecidableEq, Repr

/-- Descriptor `i` of the descriptor bytes. -/
def parseDescriptor (bs : List Byte) (i : Nat) : Descriptor :=
  { kind := byteAt bs (32 * i), writers := byteAt bs (32 * i + 1), readers := byteAt bs (32 * i + 2),
    base := le32 bs (32 * i + 4), size := le32 bs (32 * i + 8) }

/-- The kind that a kind byte holds (Table 10-1). -/
def regionKind (b : Byte) : Option RegionKind :=
  if b = 1 then some .cellRing
  else if b = 2 then some .slate
  else if b = 3 then some .orderRing
  else if b = 4 then some .reportRing
  else if b = 5 then some .shielded
  else none

/-- The size lies in the range of its kind (Table 10-1). -/
def sizeAllowed (k : RegionKind) (n : Nat) : Bool :=
  match k with
  | .cellRing => 2048 ≤ n && n ≤ 262144
  | .slate => n == 1024
  | .orderRing => 384 ≤ n && n ≤ 16512
  | .reportRing => 1152 ≤ n && n ≤ 16512
  | .shielded => 128 ≤ n

/-- How many regions of a kind a record may hold (Table 10-1). -/
def kindLimit : RegionKind → Nat
  | .cellRing => 4 | .slate => 1 | .orderRing => 1 | .reportRing => 1 | .shielded => 6

/-- The region of a descriptor that passes every BAD_REGION test against the regions of lower index (R158). -/
def acceptRegion (lower : List Region) (d : Descriptor) : Option Region :=
  match regionKind d.kind with
  | none => none
  | some k =>
    if d.base.toNat % 128 = 0 ∧ d.size.toNat ≠ 0 ∧ d.size.toNat % 128 = 0 ∧ d.base.toNat + d.size.toNat ≤ 4294967296 ∧
        sizeAllowed k d.size.toNat = true ∧ (lower.filter (fun r => r.kind == k)).length < kindLimit k then
      some { kind := k, writers := d.writers, readers := d.readers, base := d.base, size := d.size.toNat }
    else none

/-- Two regions share a byte (R158). -/
def Region.overlaps (a b : Region) : Bool :=
  a.base.toNat < b.base.toNat + b.size && b.base.toNat < a.base.toNat + a.size

/-- The outcome of the checks: the regions, or a failure code with its failing index. -/
inductive RecordCheck where
  | ok (regions : List Region)
  | fail (c : PlacementResult) (index : Nat)
  deriving DecidableEq, Repr

/-- The descriptor scan, in index order, stopping at the first that fails (R158). -/
def scanFrom (lower : List Region) : List Descriptor → RecordCheck
  | [] => .ok lower
  | d :: ds =>
    match acceptRegion lower d with
    | none => .fail .badRegion lower.length
    | some r => if lower.any (fun q => r.overlaps q) then .fail .overlap lower.length else scanFrom (lower ++ [r]) ds

/-- Some region is of this kind. -/
def hasKind (rs : List Region) (k : RegionKind) : Bool := rs.any (fun r => r.kind == k)

/-- The number of cells of all cell rings (R158). -/
def totalCells (rs : List Region) : Nat := ((rs.filter (fun r => r.kind == .cellRing)).map (fun r => r.size / 128)).sum

/-- The checks of the whole record, in their order (R158). -/
def checkRecord (head descriptors : List Byte) : RecordCheck :=
  if sumBytes (head ++ descriptors) ≠ 0 then .fail .badSum 255
  else
    match scanFrom [] ((List.range (headCount head)).map (parseDescriptor descriptors)) with
    | .fail c i => .fail c i
    | .ok rs =>
      if !(hasKind rs .cellRing && hasKind rs .slate && hasKind rs .orderRing && hasKind rs .reportRing) then .fail .missingKind 255
      else if 4096 < totalCells rs then .fail .tooManyCells 255
      else .ok rs

/-! ### Ends of placement (R159 to R161) -/

/-- Placement ends with a failure code: UNPLACED again, and the result record is written (R159). -/
def State.failPlacement (a : Addr) (c : PlacementResult) (index : Nat) (s : State) : State :=
  State.present [s.resultWrite a c index] { s with placement := { s.placement with st := .unplaced } }

/-- A fresh view of the ring of this kind: producer and consumer 0, capacity (size - 128) / 64 (R158, R160). -/
def ringView (rs : List Region) (k : RegionKind) : Option RingView :=
  (rs.find? (fun r => r.kind == k)).map (fun r => { base := r.base, cap := (r.size - 128) / 64, prod := 0, cons := 0 })

/-- The base of the ring of this kind. -/
def ringBase (rs : List Region) (k : RegionKind) : Addr :=
  match rs.find? (fun r => r.kind == k) with
  | some r => r.base
  | none => 0

/-- Placement completes with PLACED: state, map, slot table and ring views are set, the three own writes are presented in their order, and the PLACED report
is handed over, or left pending while the retention unit is RESTORING (R160, R161). -/
def State.completePlacement (a : Addr) (rs : List Region) (s : State) : State :=
  State.present
    [indexWrite (ringBase rs .reportRing) 0, indexWrite (ringBase rs .orderRing + 64) 0, s.resultWrite a .placed 255]
    { s with
      placement := { s.placement with st := .placed, pendingReport := s.restoring }
      path := { s.path with regions := rs }
      slots := buildSlots rs
      orders := { st := .idle, view := ringView rs .orderRing }
      reports := { view := ringView rs .reportRing, placed := if s.restoring then none else some s.placedReport } }

/-- The read of the next descriptor bytes: 128, or the remainder (R157). -/
def descriptorRead (a : Addr) (count got : Nat) : Emission :=
  .own (.descriptorRead (a + BitVec.ofNat 32 (32 + got)) (min 128 (32 * count - got)))

/-- The head read's answer (R157). -/
def State.headAnswer (a : Addr) (ans : Answer) (s : State) : State :=
  let head := exactBytes 16 ans.data
  if ans.err then s.failPlacement a .readFailed 255
  else if byteAt head 0 ≠ 1 then s.failPlacement a .badVersion 255
  else if headCount head < 4 ∨ 12 < headCount head then s.failPlacement a .badCount 255
  else
    State.present [descriptorRead a (headCount head) 0]
      { s with placement := { s.placement with st := .reading a (some head) [] } }

/-- A descriptor read's answer, for a read of `len` bytes: the next read, or the checks of the whole record after the last one (R157, R158). -/
def State.descriptorAnswer (a : Addr) (head got : List Byte) (len : Nat) (ans : Answer) (s : State) : State :=
  let now := got ++ exactBytes len ans.data
  if ans.err then s.failPlacement a .readFailed 255
  else if now.length < 32 * headCount head then
    State.present [descriptorRead a (headCount head) now.length]
      { s with placement := { s.placement with st := .reading a (some head) now } }
  else
    match checkRecord head now with
    | .fail c i => s.failPlacement a c i
    | .ok rs => s.completePlacement a rs

end Sys2Proof.Machine
end

