-- ==== Sys2Proof/Machine/MemoryPath.lean ====
section
/-! DEFINITION. The memory path (chapter 9): masking, notices, SHIELD_HIT and the taking of an upstream request in one step (R144). -/

namespace Sys2Proof.Machine

/-! ### Masking (R147, Table 9-1) -/

/-- Table 9-1: a byte at this offset of a region is kept for a writing class. -/
def keptIn (g : Region) (off : Nat) (c : Cls) : Bool :=
  inSet g.writers c &&
    (match g.kind with
     | .orderRing => off < 4 || 128 ≤ off
     | .reportRing => 64 ≤ off && off < 68
     | _ => true)

/-- The region rule for byte `i` of a write by class `c`: plain bytes are kept (R146, R147). -/
def byteKept (regions : List Region) (c : Cls) (a : Addr) (i : Nat) : Bool :=
  match locate regions (addrAt a i) with
  | some (_, g) => keptIn g (addrAt a i - g.base.toNat) c
  | none => true

/-- The enables left after masking (R147). -/
def keptEnables (regions : List Region) (c : Cls) (w : WriteReq) : List Bool :=
  w.enables.mapIdx (fun i e => e && byteKept regions c w.addr i)

/-- The addresses of the bytes lost: enabled on arrival and masked (R147). -/
def lostAddrs (regions : List Region) (c : Cls) (w : WriteReq) : List Nat :=
  (List.range w.enables.length).filterMap (fun i =>
    if w.enables.getD i false && !byteKept regions c w.addr i then some (addrAt w.addr i) else none)

/-- SHIELD_HIT is booked once for a write that lost bytes, with the handled class and the region of the lowest-addressed lost byte (R149). -/
def State.bookShield (c : Cls) (lost : List Nat) (s : State) : State :=
  match lost.min? with
  | some a =>
    match locate s.path.regions a with
    | some (r, _) => s.book .shieldHit (.shield c r)
    | none => s
  | none => s

/-! ### Host index words (R148) -/

/-- The value that a write gives to the word at `a`, when all four of its bytes are enabled after masking. -/
def wordWritten (w : WriteReq) (kept : List Bool) (a : Addr) : Option (BitVec 32) :=
  let i := (a - w.addr).toNat
  if (List.range 4).all (fun k => kept.getD (i + k) false) then some (le32 w.data i) else none

/-- A CPU write of the order producer word is handed to the order unit (R148). -/
def State.noticeOrder (w : WriteReq) (kept : List Bool) (s : State) : State :=
  match s.path.regions.find? (fun r => r.kind == .orderRing) with
  | some r =>
    match wordWritten w kept r.base with
    | some v => s.setOrderProducer v
    | none => s
  | none => s

/-- A CPU write of the report consumer word is handed to the report writer (R148). -/
def State.noticeReport (w : WriteReq) (kept : List Bool) (s : State) : State :=
  match s.path.regions.find? (fun r => r.kind == .reportRing) with
  | some r =>
    match wordWritten w kept (r.base + 64) with
    | some v => s.setReportConsumer v
    | none => s
  | none => s

/-- The notices of a write: only writes handled as CPU give one (R148). -/
def State.notices (c : Cls) (w : WriteReq) (kept : List Bool) (s : State) : State :=
  if c = .cpu then (s.noticeOrder w kept).noticeReport w kept else s

/-! ### Taking a request (R144) -/

/-- A request joins the tail of its class list, with the next serial number (R144). -/
def State.takeOn (c : Cls) (req : Request) (parts : List Part) (answer : Option Answer) (s : State) : State :=
  { s with path := { s.path with
      inflight := s.path.inflight ++ [{ id := s.path.nextId, cls := c, req := req, parts := parts, answer := answer }]
      nextId := s.path.nextId + 1 } }

/-- A read is taken: gated parts are served by slot state, the read is presented whole, with the slate reads of parts settled at once (R144, R9, R11). -/
def State.takeRead (c : Cls) (r : ReadReq) (s : State) : State :=
  let id := s.path.nextId
  let parts := s.gateParts c r.addr r.len
  let req := Request.read { r with cls := c }
  State.presentTogether (.forward id c req :: s.slateReads id parts) (s.takeOn c req parts none)

/-- The whole cell that a write hands over, when it is a whole-cell write of a control cell (R5, R7). -/
def State.handOverWrite (whole : Option (Nat × Nat)) (cell : List Byte) (s : State) : State :=
  if whole.isSome then s.handOver cell else s

/-- A write is taken: masked, shown to the tracker, the message engine, the order unit and the report writer, booked when it lost bytes, and presented
with its masked enables unless none is left, when it is acknowledged at once (R144, R147 to R149). In the positions whose enables are off, the masked ones
included, the request presented carries the data as it arrived (DESIGN CHOICE, assumption log 35). -/
def State.takeWrite (c : Cls) (w : WriteReq) (s : State) : State :=
  let id := s.path.nextId
  let kept := keptEnables s.path.regions c w
  let touched := touchedSlots s.path.regions w.addr kept
  let whole := wholeCellSlot s.path.regions w.addr kept
  let req := Request.write { w with cls := c, enables := kept }
  let forward := if kept.contains true then [Emission.forward id c req] else []
  let answer : Option Answer := if kept.contains true then none else some { data := [], err := false }
  let s1 := s.trackWrite touched whole w.data
  let s2 := s1.handOverWrite whole w.data
  let s3 := s2.notices c w kept
  let s4 := s3.bookShield c (lostAddrs s.path.regions c w)
  State.presentTogether (forward ++ s.heldSlateReads touched 0) (s4.takeOn c req [] answer)

/-- The class a request carries. -/
def requestClass : Request → Cls
  | .read r => r.cls
  | .write w => w.cls

/-- The placement unit is shown every request handled as CPU, as it arrived (R144, R155). -/
def State.showPlacement (c : Cls) (r : Request) (s : State) : State := if c = .cpu then s.armWatch r else s

/-- The memory path takes an upstream request, in one step. A request whose class list holds 32 waits on the link untaken (R144, log 4).
What the placement unit presents in this step comes after the forwarded write and the slate reads of the step (DESIGN CHOICE, assumption log 33). -/
def State.takeRequest (r : Request) (s : State) : State :=
  let c := handled (requestClass r)
  if 32 ≤ (s.classList c).length then s
  else
    State.drain (State.showPlacement c r
      (match r with
       | .read q => s.takeRead c q
       | .write w => s.takeWrite c w))

end Sys2Proof.Machine
end

