-- ==== Sys2Proof/Machine/PathCommands.lean ====
section
/-! DEFINITION. The meanings of the commands of the memory path and the cell tracker: requests taken, answers of memory, the hold timer. -/

namespace Sys2Proof.Machine

/-- A slate read's answer, when a slate read is the oldest own request: the part it was issued for takes its bytes (R11, R151). -/
def State.slateAnswer (a : Answer) (s : State) : State :=
  match s.path.own with
  | .slateRead _ _ id region slot :: _ =>
    (s.popOwn.setInflight id (fun e => { e with parts := e.parts.map (supplySlate region slot a) })).drain
  | _ => s

/-- An own write's acknowledgment, when an own write is the oldest own request (R151). -/
def State.writeAcked (s : State) : State :=
  match s.path.own with
  | .write _ _ _ :: _ => s.popOwn
  | _ => s

/-- UPSTREAM_READ: the step of R144 on a read. -/
def execUpstreamRead (r : ReadReq) (s : State) : Host.Outcome State Fault Refusal :=
  .next (s.takeRequest (.read r))

/-- UPSTREAM_WRITE: the step of R144 on a write, masked by R147. -/
def execUpstreamWrite (w : WriteReq) (s : State) : Host.Outcome State Fault Refusal :=
  .next (s.takeRequest (.write w))

/-- WHOLE_CELL_WRITE: the step of R144 on a write that starts a new cell (R5). -/
def execWholeCellWrite (w : WriteReq) (s : State) : Host.Outcome State Fault Refusal :=
  .next (s.takeRequest (.write w))

/-- CELL_BREAK: the step of R144 on a write that breaks the slots it touches (R6). -/
def execCellBreak (w : WriteReq) (s : State) : Host.Outcome State Fault Refusal :=
  .next (s.takeRequest (.write w))

/-- GATED_READ: the step of R144 on a read with gated parts (R9). -/
def execGatedRead (r : ReadReq) (s : State) : Host.Outcome State Fault Refusal :=
  .next (s.takeRequest (.read r))

/-- GATED_READ_ANSWER: memory's answer to a gated read (R10, R13). -/
def execGatedReadAnswer (id : Nat) (a : Answer) (s : State) : Host.Outcome State Fault Refusal :=
  .next (s.memoryAnswer id a)

/-- FORWARDED_ANSWER: memory's answer to a request without gated parts (R145, R152). -/
def execForwardedAnswer (id : Nat) (a : Answer) (s : State) : Host.Outcome State Fault Refusal :=
  .next (s.memoryAnswer id a)

/-- SLATE_READ_ANSWER: the oldest own request's answer supplies a part (R11, R151). -/
def execSlateReadAnswer (a : Answer) (s : State) : Host.Outcome State Fault Refusal :=
  .next (s.slateAnswer a)

/-- OWN_WRITE_ACK: taken as completed, error flag or not (R151). -/
def execOwnWriteAck (_err : Bool) (s : State) : Host.Outcome State Fault Refusal :=
  .next (s.writeAcked)

/-- HOLD_TIMER_EXPIRY (R21). -/
def execHoldTimerExpiry (region slot : Nat) (s : State) : Host.Outcome State Fault Refusal :=
  .next (s.expireHold region slot)

/-- ORDER_PRODUCER_WRITE: the step of R144 on a CPU write of the order producer word (R148, R163). -/
def execOrderProducerWrite (w : WriteReq) (s : State) : Host.Outcome State Fault Refusal :=
  .next (s.takeRequest (.write w))

/-- REPORT_CONSUMER_WRITE: the step of R144 on a CPU write of the report consumer word (R148, R163). -/
def execReportConsumerWrite (w : WriteReq) (s : State) : Host.Outcome State Fault Refusal :=
  .next (s.takeRequest (.write w))

/-- ARMING_WRITE: the step of R144 on a request handled as CPU, judged against the arming run (R155). -/
def execArmingWrite (r : Request) (s : State) : Host.Outcome State Fault Refusal :=
  .next (s.takeRequest r)

end Sys2Proof.Machine
end

