-- ==== Sys2Proof/Machine/PlacementCommands.lean ====
section
/-! DEFINITION. The meanings of the commands of the placement unit: the answers of its record reads. -/

namespace Sys2Proof.Machine

/-- The head read's answer, when that read is the oldest own request and the unit is READING (R157). -/
def State.headReturned (a : Answer) (s : State) : State :=
  match s.path.own, s.placement.st with
  | .headRead _ :: _, .reading addr none _ => s.popOwn.headAnswer addr a
  | _, _ => s

/-- A descriptor read's answer, when that read is the oldest own request and the unit is READING (R157, R158). -/
def State.descriptorsReturned (a : Answer) (s : State) : State :=
  match s.path.own, s.placement.st with
  | .descriptorRead _ len :: _, .reading addr (some head) got => s.popOwn.descriptorAnswer addr head got len a
  | _, _ => s

/-- PLACEMENT_HEAD_READ_ANSWER (R157). -/
def execPlacementHeadReadAnswer (a : Answer) (s : State) : Host.Outcome State Fault Refusal :=
  .next (s.headReturned a)

/-- PLACEMENT_DESCRIPTOR_READ_ANSWER (R158). -/
def execPlacementDescriptorReadAnswer (a : Answer) (s : State) : Host.Outcome State Fault Refusal :=
  .next (s.descriptorsReturned a)

end Sys2Proof.Machine
end

