-- ==== Sys2Proof/Machine/Retention.lean ====
section
/-! DEFINITION. The retention unit (chapter 12): judging sections, the restore's one step, write passes, arbitration loss and OFFLINE. -/

namespace Sys2Proof.Machine

/-! ### Judging a section (R173) -/

/-- Every byte reads 0xFF. -/
def SectionBytes.allFF {α : Type} (r : SectionBytes α) : Bool := r.bytes.all (· == 0xFF#8)

/-- The two tests that every section has: a mark other than CLOSED in byte 0, or bytes that do not sum to 0 modulo 256. -/
def SectionBytes.torn {α : Type} (r : SectionBytes α) : Bool := byteAt r.bytes 0 != 0xA5#8 || sumBytes r.bytes != 0

/-- A number within inclusive bounds. -/
def within (lo hi z : Int) : Bool := decide (lo ≤ z) && decide (z ≤ hi)

/-- The balance's range (Table 5-1). -/
def balanceOk (z : Int) : Bool := within (-65535) 16777215 z

/-- The ranges of Table 5-1 that a field of S0 can leave. -/
def s0RangesOk (f : S0Fields) : Bool :=
  balanceOk f.balance && within (-4259775) 20971455 f.reference && decide (f.spent ≤ creditMax) && decide (f.cap ≤ creditMax)

/-- The ranges of Table 6-1: a fixture tag 1 to 65,535 or a pass identifier 1 to 255, and the balance after. -/
def entryRangesOk (e : LogEntry) : Bool :=
  e.ident != 0 && (e.kind != .passPurchase || decide (e.ident.toNat ≤ 255)) && balanceOk e.balanceAfter

/-- The sequence numbers rise by one (R173). -/
def risesByOne : List LogEntry → Bool
  | a :: b :: rest => b.seq == a.seq + 1 && risesByOne (b :: rest)
  | _ => true

/-- A fixture record whose kind is NONE without the queued mark makes S2 lost (R173). -/
def recordOk (r : FixtureRec) : Bool := r.kind != .none || r.queued.isSome

/-- Judging: blank, then lost, then good (R173). -/
def judge {α β : Type} (r : SectionBytes α) (sound : Bool) (value : β) : Judged β :=
  if SectionBytes.allFF r then .blank else if SectionBytes.torn r || !sound then .lost else .good value

/-- S0 as judged. -/
def judgeS0 (r : SectionBytes S0Fields) : Judged S0Fields := judge r (s0RangesOk r.fields) r.fields

/-- S1 as judged; its value is the entries it names. -/
def judgeS1 (r : SectionBytes S1Fields) : Judged (List LogEntry) :=
  let es := r.fields.entries.take r.fields.count
  judge r (decide (r.fields.count ≤ 64) && r.fields.kindsOk && es.all entryRangesOk && risesByOne es) es

/-- S2 as judged. -/
def judgeS2 (r : SectionBytes S2Fields) : Judged S2Fields := judge r (r.fields.fixtures.all recordOk) r.fields

/-- The section was judged good. -/
def Judged.isGood {α : Type} : Judged α → Bool
  | .good _ => true
  | _ => false

/-- The section was judged lost. -/
def Judged.isLost {α : Type} : Judged α → Bool
  | .lost => true
  | _ => false

/-- STORE_LOST is booked with sections added to its set (R169, R173). -/
def State.bookLost (x : SectionSet) (s : State) : State := s.book .storeLost (.sections x)

/-- STORE_LOST for one section when it was judged lost. -/
def State.bookIfLost {α : Type} (j : Judged α) (x : SectionSet) (s : State) : State := if j.isLost then s.bookLost x else s

/-- The set of one section. -/
def only : SectionName → SectionSet
  | .s0 => ⟨true, false, false⟩
  | .s1 => ⟨false, true, false⟩
  | .s2 => ⟨false, false, true⟩

/-! ### Purse and log after the restore (R174) -/

/-- What the restore gives the purse and the log: the fields, whether the two good sections were reconciled, and which of S0 and S1 are marked dirty. -/
structure RestoredCredit where
  purse      : Purse
  log        : PurchaseLog
  reconciled : Bool
  dirty0     : Bool
  dirty1     : Bool
  deriving DecidableEq, Repr

/-- The purse as S0 keeps it. -/
def purseOf (f : S0Fields) : Purse :=
  { balance := f.balance, reference := f.reference, spent := f.spent, cap := f.cap, overdraft := f.overdraft, zone := f.zone,
    memberships := f.memberships, lastSeq := f.lastSeq }

/-- The reference that makes the purse law hold for a balance and a log (R174, R88). -/
def lawReference (balance : Int) (es : List LogEntry) : Int := balance - foldSum es

/-- One past the newest entry, or the default of an empty log (R174). -/
def nextAfter (es : List LogEntry) (whenEmpty : Seq) : Seq :=
  match es.getLast? with
  | some e => e.seq + 1
  | none => whenEmpty

/-- Reconciling two good sections (R174). -/
def reconcile (f : S0Fields) (es : List LogEntry) : RestoredCredit :=
  let lawBad := f.balance != f.reference + foldSum es
  let bad := lawBad || f.nextSeq != nextAfter es f.nextSeq
  { purse := { purseOf f with reference := if lawBad then lawReference f.balance es else f.reference }
    log := { entries := es, next := nextAfter es f.nextSeq }
    reconciled := bad, dirty0 := bad, dirty1 := false }

/-- The table of R174. -/
def restoredCredit : Judged S0Fields → Judged (List LogEntry) → RestoredCredit
  | .good f, .good es => reconcile f es
  | .good f, _ =>
    { purse := { purseOf f with reference := f.balance }, log := { entries := [], next := f.nextSeq }
      reconciled := false, dirty0 := true, dirty1 := true }
  | _, .good es =>
    { purse := { Purse.defaults with reference := lawReference 0 es }, log := { entries := es, next := nextAfter es 1 }
      reconciled := false, dirty0 := true, dirty1 := false }
  | _, _ =>
    { purse := Purse.defaults, log := { entries := [], next := 1 }, reconciled := false, dirty0 := true, dirty1 := true }

/-! ### The tables after the restore (R175) -/

/-- The kind of a fixture record. -/
def recordKind (r : FixtureRec) : Kind :=
  match r.kind with
  | .none => .none
  | .impulse => .impulse r.paid
  | .granted => .granted
  | .pass => .pass r.passId

/-- A CANCELLED entry created for a queued record; its preview remaining is the allowance (assumption log 26). -/
def queuedEntry (r : FixtureRec) (sch : Schedule) : FixtureEntry :=
  { tag := r.tag, standing := .scheduled { sch with cancelled := true } .cancelled, kind := .impulse r.paid, viewed := r.viewed,
    remaining := sch.allowance.toNat, delivered := false }

/-- An entry that a queued record finds: CANCELLED with its own schedule part (the kept one where it has none), IMPULSE with the kept paid
amount (R175). -/
def FixtureEntry.requeued (r : FixtureRec) (kept : Schedule) (e : FixtureEntry) : FixtureEntry :=
  { e with
    standing := .scheduled { (e.schedule.getD kept) with cancelled := true } .cancelled
    kind := .impulse r.paid
    viewed := r.viewed }

/-- A tag joins the tail of the refund queue; it stays where it is when it is already there (R75, R175). -/
def State.joinRefunds (t : Tag) (s : State) : State :=
  if s.refunds.contains t then s else s.setRefunds (s.refunds ++ [t])

/-- A queued record (R175). -/
def State.restoreQueued (r : FixtureRec) (sch : Schedule) (s : State) : State :=
  match s.fixture r.tag with
  | some _ => State.joinRefunds r.tag (s.updateFixture r.tag (FixtureEntry.requeued r sch))
  | none =>
    match s.createFixture (queuedEntry r sch) with
    | some s1 => s1.joinRefunds r.tag
    | none => s.book .tableFull (.table r.tag .fixtureTable)

/-- The entry was announced as CANCELLED. -/
def FixtureEntry.isCancelled (e : FixtureEntry) : Bool :=
  match e.standing with
  | .scheduled _ .cancelled => true
  | _ => false

/-- A record without the queued mark: merged, or created AWAITING; a CANCELLED entry that takes kind IMPULSE is cancelled afresh (R175, R74), with
the bookings of R74 and R108 made each time (DESIGN CHOICE, assumption log 38). -/
def State.restoreFixture (r : FixtureRec) (s : State) : State :=
  match s.fixture r.tag with
  | some e =>
    let s1 := s.updateFixture r.tag (fun e => { e with kind := recordKind r, viewed := r.viewed })
    if e.isCancelled then s1.cancelEffect r.tag else s1
  | none =>
    match s.createFixture (awaitingEntry r.tag (recordKind r) r.viewed) with
    | some s1 => s1
    | none => s.book .tableFull (.table r.tag .fixtureTable)

/-- One fixture record of S2 (R175). -/
def State.restoreRecord (r : FixtureRec) (s : State) : State :=
  match r.queued with
  | some sch => s.restoreQueued r sch
  | none => s.restoreFixture r

/-- One pass record of S2: merged into an announced pass, or created without a schedule part, and propagated (R175, R82). -/
def State.restorePass (r : PassRec) (s : State) : State :=
  let reach (members : List Tag) (s : State) : State := if r.owner = .none then s else s.propagate r.id members
  match s.pass r.id with
  | some p => reach p.members (s.updatePass r.id (fun p => { p with owner := r.owner }))
  | none =>
    match s.createPass { id := r.id, members := r.members, sale := none, owner := r.owner } with
    | some s1 => reach r.members s1
    | none => s.bookPassFull r.id

/-- The records of S2 in the order kept (R175). -/
def State.restoreRecords (f : S2Fields) (s : State) : State :=
  f.passes.foldl (fun s r => s.restorePass r) (f.fixtures.foldl (fun s r => s.restoreRecord r) s)

/-- The records of a judged S2: none unless it is good (R173). -/
def recordsOf : Judged S2Fields → S2Fields
  | .good f => f
  | _ => { fixtures := [], passes := [] }

/-- The queue is served and its conditions settled; tags left although none was served book REFUND_WAITING (R175, assumption log 28). What records
cancelled afresh in this step booked (R74, R108) stands, and the settling books LOG_NEARLY_FULL or REFUND_WAITING once more (DESIGN CHOICE, assumption
log 38). -/
def State.serveRestored (s : State) : State :=
  let s1 := s.serveRefunds.settleQueue s.refunds
  if s1.refunds ≠ [] ∧ s1.refunds.length = s.refunds.length then s1.book .refundWaiting (.length s1.refunds.length) else s1

/-! ### What S2 keeps (R172) -/

/-- The kind of an entry as S2 keeps it. -/
def kindCode : Kind → KindCode
  | .none => .none
  | .impulse _ => .impulse
  | .granted => .granted
  | .pass _ => .pass

/-- The pass identifier of a kind, 0 when it has none. -/
def kindPass : Kind → PassId
  | .pass id => id
  | _ => 0

/-- The record of an entry; the schedule part is kept for a queued one (R172). -/
def fixtureRecord (e : FixtureEntry) (queued : Option Schedule) : FixtureRec :=
  { tag := e.tag, kind := kindCode e.kind, passId := kindPass e.kind, paid := e.paid, viewed := e.viewed, queued := queued }

/-- The image of S2: the queued tags' records in queue order, the other entitled entries by index, the owned passes by index (R172). -/
def State.s2Image (s : State) : S2Fields :=
  { fixtures :=
      s.refunds.filterMap (fun t => (s.fixture t).bind (fun e => e.schedule.map (fun sch => fixtureRecord e (some sch)))) ++
      s.fixtures.filterMap (fun o => o.bind (fun e =>
        if e.kind ≠ .none ∧ s.refunds.contains e.tag = false then some (fixtureRecord e none) else none))
    passes := s.passes.filterMap (fun o => o.bind (fun p =>
      if p.owned then some { id := p.id, owner := p.owner, members := p.members } else none)) }

/-- The image of S0 (R172). -/
def State.s0Image (s : State) : S0Fields :=
  { balance := s.purse.balance, reference := s.purse.reference, spent := s.purse.spent, cap := s.purse.cap, overdraft := s.purse.overdraft,
    zone := s.purse.zone, memberships := s.purse.memberships, lastSeq := s.purse.lastSeq, nextSeq := s.log.next }

/-! ### The end of the restore (R174, R175, R161) -/

/-- The pending PLACED report is handed over with its values as they stand (R161). -/
def State.handPlaced (s : State) : State :=
  if s.placement.pendingReport then
    { s with
      placement := { s.placement with pendingReport := false }
      reports := { s.reports with placed := some s.placedReport } }
  else s

/-- The retention state is replaced. -/
def State.setStore (st : RetentionState) (s : State) : State := { s with store := { s.store with st := st } }

/-- Purse and log take their values, with the marks of R174. -/
def State.takeCredit (c : RestoredCredit) (s : State) : State :=
  State.markS0 c.dirty0 (State.markS1 c.dirty1 { s with purse := c.purse, log := c.log })

/-- S2's dirty mark after the restore: a mark made before, a section that was not good, or tables that no longer agree with it (assumption log 14). -/
def State.settleS2 (before : Bool) (j : Judged S2Fields) (s : State) : State :=
  { s with store := { s.store with dirty := { s.store.dirty with
      s2 := before || !j.isGood || s.s2Image != recordsOf j } } }

/-- The one step that ends the restore, into IDLE or OFFLINE (R174, R175, R161, R164). -/
def State.endRestore (j0 : Judged S0Fields) (j1 : Judged (List LogEntry)) (j2 : Judged S2Fields) (after : RetentionState) (s : State) : State :=
  let c := restoredCredit j0 j1
  let s1 := s.takeCredit c
  let s2 := if c.reconciled then s1.bookLost (only .s1) else s1
  let s3 := (s2.restoreRecords (recordsOf j2)).serveRestored
  let s4 := s3.settleS2 s.store.dirty.s2 j2
  (s4.setStore after).handPlaced.wake

/-! ### Section reads (R172, R174) -/

/-- The EEPROM's two-wire bus address. -/
def eepromAddress : BitVec 7 := 0b1010010

/-- The word address of a section (Table 12-1). -/
def sectionAddress : SectionName → BitVec 16
  | .s0 => 0x0000
  | .s1 => 0x0100
  | .s2 => 0x0800

/-- The length of a section in bytes (Table 12-1). -/
def sectionLength : SectionName → Nat
  | .s0 => 128
  | .s1 => 1344
  | .s2 => 2048

/-- The read of a whole section, as one transaction: R172 gives the parts of a transaction and R174 the order of the sections, and neither says in how many transactions
a section is read (DESIGN CHOICE, assumption log 36). -/
def sectionReadOf (n : SectionName) : BusTransaction := .read eepromAddress (sectionAddress n) (sectionLength n)

/-- A transaction is started on the two-wire bus (R172). -/
def State.bus (t : BusTransaction) (s : State) : State := s.emit [.bus t]

/-- A completed section read: judged, and followed by the next read or by the end of the restore. A read that is not the one under way is no event (R173, R174). -/
def State.sectionRead (r : SectionRead) (s : State) : State :=
  if s.store.awaitingStop then s
  else
    match s.store.st, r with
    | .restoring none none, .s0 x =>
      State.bus (sectionReadOf .s1)
        ((s.bookIfLost (judgeS0 x) (only .s0)).setStore (.restoring (some (judgeS0 x)) none))
    | .restoring (some j0) none, .s1 x =>
      State.bus (sectionReadOf .s2)
        ((s.bookIfLost (judgeS1 x) (only .s1)).setStore (.restoring (some j0) (some (judgeS1 x))))
    | .restoring (some j0) (some j1), .s2 x =>
      (s.bookIfLost (judgeS2 x) (only .s2)).endRestore j0 j1 (judgeS2 x) .idle
    | _, _ => s

/-! ### Write passes (R176) -/

/-- The section of an image. -/
def SectionImage.name : SectionImage → SectionName
  | .s0 _ => .s0
  | .s1 _ => .s1
  | .s2 _ => .s2

/-- The pages of an image's section (Table 12-1). -/
def pagesOf : SectionImage → Nat
  | .s0 _ => 4
  | .s1 _ => 42
  | .s2 _ => 64

/-- The bytes of a closed section that holds an image: the mark CLOSED, the image's bytes, and the checksum that closes their sum
to 0 modulo 256 (R172). -/
def sectionBytes (i : SectionImage) : List Byte :=
  let body := 0xA5#8 :: (List.range (32 * pagesOf i - 2)).map (fun k => Config.imageByte i (k + 1))
  body ++ [0 - sumBytes body]

/-- Page write number `page` of a section: page 0 with the mark OPEN, each following page, and last page 0 again with the mark CLOSED, as the
image has it (R172, R176). -/
def pageWriteOf (i : SectionImage) (page : Nat) : BusTransaction :=
  let n := page % pagesOf i
  let bytes := ((sectionBytes i).drop (32 * n)).take 32
  .write eepromAddress (sectionAddress (SectionImage.name i) + BitVec.ofNat 16 (32 * n)) (if page = 0 then bytes.set 0 0x5A#8 else bytes)

/-- The bus address as the unit repeats it after the stop that ended a page (R172). -/
def addressPoll : BusTransaction := .poll eepromAddress

/-- The images of the dirty sections, in the order S0, S1, S2 (R176). -/
def State.capture (s : State) : List SectionImage :=
  (if s.store.dirty.s0 then [.s0 s.s0Image] else []) ++ (if s.store.dirty.s1 then [.s1 s.log.entries] else []) ++
    (if s.store.dirty.s2 then [.s2 s.s2Image] else [])

/-- A write pass starts: dirty sections are captured, their marks cleared, and the first page written. Without a dirty mark the unit is IDLE (R176). -/
def State.startPass (s : State) : State :=
  match s.capture with
  | [] => s.setStore .idle
  | image :: rest =>
    State.bus (pageWriteOf image 0)
      { s with store := { s.store with st := .writing (image :: rest) 0 false, dirty := ⟨false, false, false⟩ } }

/-- WRITE_PASS_START: only in IDLE (R176). -/
def State.beginPass (s : State) : State := if s.store.st = .idle then s.startPass else s

/-- The EEPROM acknowledges its bus address after the stop that ended a page (R172). Where no cycle has put the address on the bus since that stop, this step does. -/
def State.pollAcknowledged (polling : Bool) (s : State) : State := if polling then s else s.bus addressPoll

/-- A page write completed: the next page of the section, page 0 again with the mark CLOSED, the next section, or the end of the pass (R172, R176). -/
def State.pageDone (s : State) : State :=
  if s.store.awaitingStop then s
  else
    match s.store.st with
    | .writing (image :: rest) page polling =>
      let s1 := s.pollAcknowledged polling
      if page < pagesOf image then
        State.bus (pageWriteOf image (page + 1)) (s1.setStore (.writing (image :: rest) (page + 1) false))
      else
        match rest with
        | next :: more => State.bus (pageWriteOf next 0) (s1.setStore (.writing (next :: more) 0 false))
        | [] => s1.startPass
    | _ => s

/-- One cycle of the reference clock while a page write is under way and no stop is awaited. In those cycles that the free value names, the page has reached its stop and
the unit puts the bus address on the bus, the first time or again (R172, assumption log 37). -/
def State.busCycle (s : State) : State :=
  match s.store.awaitingStop, s.store.st with
  | false, .writing (image :: rest) page _ =>
    let s1 := { s with store := { s.store with turns := s.store.turns + 1 } }
    if Config.pollAt s.store.turns then State.bus addressPoll (s1.setStore (.writing (image :: rest) page true)) else s1
  | _, _ => s

/-! ### The two-wire bus (R172, R177) -/

/-- The transaction that the retention state stands at. -/
def State.transaction (s : State) : Option BusTransaction :=
  match s.store.st with
  | .restoring none _ => some (sectionReadOf .s0)
  | .restoring (some _) none => some (sectionReadOf .s1)
  | .restoring (some _) (some _) => some (sectionReadOf .s2)
  | .writing (image :: _) page polling => some (if polling then addressPoll else pageWriteOf image page)
  | _ => none

/-- Arbitration is lost: the transaction is abandoned until a stop is seen (R172). -/
def State.loseBus (s : State) : State :=
  if s.transaction.isSome then { s with store := { s.store with awaitingStop := true } } else s

/-- A stop is seen: the whole transaction is issued again (R172). After the stop that ended a page the transaction lost is the bus address alone
(DEDUCED, assumption log 34). -/
def State.reissue (s : State) : State :=
  match s.store.awaitingStop, s.transaction with
  | true, some t => State.bus t { s with store := { s.store with awaitingStop := false } }
  | _, _ => s

/-- Every section. -/
def allSections : SectionSet := ⟨true, true, true⟩

/-- A section not judged when the EEPROM stops answering is lost (R174). -/
def judgedOrLost {α : Type} : Option (Judged α) → Judged α
  | some j => j
  | none => .lost

/-- The restore ends for want of an answer: every section not yet judged is lost and the state becomes OFFLINE (R174). -/
def State.failRestore (j0 : Option (Judged S0Fields)) (j1 : Option (Judged (List LogEntry))) (s : State) : State :=
  let s1 := if j0.isNone then s.bookLost (only .s0) else s
  let s2 := if j1.isNone then s1.bookLost (only .s1) else s1
  (s2.bookLost (only .s2)).endRestore (judgedOrLost j0) (judgedOrLost j1) .lost .offline

/-- After the stop that ended a page, the bus address alone is repeated (R172). -/
def State.polling (s : State) : Bool :=
  match s.store.st with
  | .writing _ _ polling => polling
  | _ => false

/-- The causes that can arise: while a stop is awaited, or the bus address is repeated, only the 25 ms limit runs (R172, assumption log 24, 34). -/
def State.noAckPossible (s : State) (why : NoAck) : Bool := !(s.store.awaitingStop || s.polling) || why == .addressTimeout

/-- The EEPROM does not acknowledge: OFFLINE, images dropped, STORE_LOST with all three sections (R172, R177); a restore ends first (R174). -/
def State.storeFails (why : NoAck) (s : State) : State :=
  if s.noAckPossible why then
    match s.store.st with
    | .restoring j0 j1 =>
      State.bookLost allSections
        (State.failRestore j0 j1 { s with store := { s.store with awaitingStop := false } })
    | .writing _ _ _ =>
      State.bookLost allSections { s with store := { s.store with st := .offline, awaitingStop := false } }
    | _ => s
  else s

end Sys2Proof.Machine
end

