-- ==== Sys2Proof/Machine/Resets.lean ====
section
/-! DEFINITION. The two resets (section 0.6 and the reset rules of each chapter). -/

namespace Sys2Proof.Machine

/-- Power-on reset: every block at its reset value and the restore begun; what was waiting or in flight is abandoned (R22, R31, R63, R65, R80, R87, R117, R133,
R134, R153, R154, R171, R172). The model's own fields go on: the queue of commands, the record of the pins and the three counters; so do the fuses. -/
def State.powerOn (s : State) : State :=
  { State.reset with
    pending := s.pending
    unit := s.unit
    path := { State.reset.path with nextId := s.path.nextId, choices := s.path.choices }
    store := { State.reset.store with turns := s.store.turns }
    emitted := s.emitted ++ [.bus (sectionReadOf .s0)] }

/-- The delivered mark of an entry is cleared (R56, R65). -/
def FixtureEntry.undeliver (e : FixtureEntry) : FixtureEntry := { e with delivered := false }

/-- Link reset: requests, region map, slots, key bank, message queue, ring views and the PLACED report are gone, the part is UNPLACED and every condition but
STORE_LOST is unbooked; clock, purse, log, tables, refund queue and retention unit stand, delivered marks apart (R22, R31, R63, R65, R104, R117, R133, R141, R153,
R154, R171, R172). -/
def State.linkReset (s : State) : State :=
  { s with
    path := { s.path with regions := [], inflight := [], own := [] }
    slots := []
    keys := List.replicate 16 none
    engine := { queue := [], headKey := none }
    fixtures := s.fixtures.map (Option.map FixtureEntry.undeliver)
    placement := { s.placement with st := .unplaced, run := none, pendingReport := false }
    orders := { st := .idle, view := none }
    reports := { view := none, placed := none }
    conds := { Conditions.none with storeLost := s.conds.storeLost } }

end Sys2Proof.Machine
end

