-- ==== Sys2Proof/Machine/ResetCommands.lean ====
section
/-! DEFINITION. The meanings of the reset commands. -/

namespace Sys2Proof.Machine

/-- POWER_ON_RESET (R172). -/
def execPowerOnReset (s : State) : Host.Outcome State Fault Refusal :=
  .next (s.powerOn)

/-- LINK_RESET (R153). -/
def execLinkReset (s : State) : Host.Outcome State Fault Refusal :=
  .next (s.linkReset)

end Sys2Proof.Machine
end

