-- ==== Sys2Proof/Machine/RingCommands.lean ====
section
/-! DEFINITION. The meanings of the commands of the order unit and the report writer. -/

namespace Sys2Proof.Machine

/-- The fetch's answer, when that fetch is the oldest own request (R164, R151). -/
def State.fetchReturned (a : Answer) (s : State) : State :=
  match s.path.own with
  | .orderFetch _ :: _ => s.popOwn.fetchAnswer a
  | _ => s

/-- The PLACED report is written when one is held and there is room (R161, R168). -/
def State.writePlaced (s : State) : State :=
  match s.reports.placed with
  | some p =>
    if s.mayReport then
      let s1 := s.writeReport (.placed p)
      { s1 with reports := { s1.reports with placed := none } }
    else s
  | none => s

/-- The order unit is IDLE or WAITING_ROOM, so that a condition may be written (R168). -/
def OrderState.resting : OrderState → Bool
  | .idle => true
  | .waitingRoom => true
  | _ => false

/-- The highest-ranked booked condition is written and unbooked (R168, R169). -/
def State.writeCondition (s : State) : State :=
  match s.conds.highest with
  | some k =>
    if s.reports.placed = none ∧ s.orders.st.resting = true ∧ s.mayReport = true then
      State.unbook k (s.writeReport (.condition k (s.conds.get k).count (s.conds.get k).data))
    else s
  | none => s

/-- ORDER_FETCH (R164). -/
def execOrderFetch (s : State) : Host.Outcome State Fault Refusal :=
  .next (s.fetchOrder)

/-- ORDER_FETCH_ANSWER (R164). -/
def execOrderFetchAnswer (a : Answer) (s : State) : Host.Outcome State Fault Refusal :=
  .next (s.fetchReturned a)

/-- BUY_FIXTURE (R92, R93). -/
def execBuyFixture (s : State) : Host.Outcome State Fault Refusal :=
  .next (s.takeOrder (isOrder 1) 1 State.answerBuyFixture)

/-- BUY_PASS (R94, R95). -/
def execBuyPass (s : State) : Host.Outcome State Fault Refusal :=
  .next (s.takeOrder (isOrder 2) 1 State.answerBuyPass)

/-- CANCEL (R96, R98). -/
def execCancel (s : State) : Host.Outcome State Fault Refusal :=
  .next (s.takeOrder (isOrder 3) 1 State.answerCancel)

/-- QUOTE (R102, R166). -/
def execQuote (s : State) : Host.Outcome State Fault Refusal :=
  .next (s.takeOrder (isOrder 4) 1 State.answerQuote)

/-- QUOTE_PASS (R102, R166). -/
def execQuotePass (s : State) : Host.Outcome State Fault Refusal :=
  .next (s.takeOrder (isOrder 5) 1 State.answerQuotePass)

/-- PURSE (R166). -/
def execPurse (s : State) : Host.Outcome State Fault Refusal :=
  .next (s.takeOrder (isOrder 6) 1 State.answerPurse)

/-- LOG_READ (R115, R116). -/
def execLogRead (s : State) : Host.Outcome State Fault Refusal :=
  .next (s.takeOrder (isOrder 7) 9 State.answerLogRead)

/-- FIXTURE_LIST (R167). -/
def execFixtureList (s : State) : Host.Outcome State Fault Refusal :=
  .next (s.takeOrder (isOrder 8) 9 State.answerFixtureList)

/-- BAD_ORDER (R164, R165). -/
def execBadOrder (s : State) : Host.Outcome State Fault Refusal :=
  .next (s.takeOrder isBadOrder 1 State.answerBadOrder)

/-- PLACED_REPORT_WRITE (R161, R168). -/
def execPlacedReportWrite (s : State) : Host.Outcome State Fault Refusal :=
  .next (s.writePlaced)

/-- REPLY_RECORD_WRITE (R168). -/
def execReplyRecordWrite (s : State) : Host.Outcome State Fault Refusal :=
  .next (s.writeReply)

/-- CONDITION_WRITE (R169). -/
def execConditionWrite (s : State) : Host.Outcome State Fault Refusal :=
  .next (s.writeCondition)

end Sys2Proof.Machine
end

