-- ==== Sys2Proof/Machine/StoreCommands.lean ====
section
/-! DEFINITION. The meanings of the commands of the retention unit. -/

namespace Sys2Proof.Machine

/-- EEPROM_SECTION_READ (R173, R174, R175). -/
def execEepromSectionRead (r : SectionRead) (s : State) : Host.Outcome State Fault Refusal :=
  .next (s.sectionRead r)

/-- WRITE_PASS_START (R176). -/
def execWritePassStart (s : State) : Host.Outcome State Fault Refusal :=
  .next (s.beginPass)

/-- PAGE_WRITE_COMPLETE: the bus address is acknowledged after the stop that ended the page (R172, R176). -/
def execPageWriteComplete (s : State) : Host.Outcome State Fault Refusal :=
  .next (s.pageDone)

/-- BUS_ARBITRATION_LOSS (R172). -/
def execBusArbitrationLoss (s : State) : Host.Outcome State Fault Refusal :=
  .next (s.loseBus)

/-- EEPROM_NO_ACKNOWLEDGE (R172, R174, R177). -/
def execEepromNoAcknowledge (why : NoAck) (s : State) : Host.Outcome State Fault Refusal :=
  .next (s.storeFails why)

/-- TRANSACTION_REISSUE (R172). -/
def execTransactionReissue (s : State) : Host.Outcome State Fault Refusal :=
  .next (s.reissue)

end Sys2Proof.Machine
end

