-- ==== Sys2Proof/Machine/Dispatch.lean ====
section
/-! DEFINITION. One arm per command. -/

namespace Sys2Proof.Machine

/-- The effect of a command on everything but the queue. No arm faults or refuses. -/
def exec (i : Instr) (s : State) : Host.Outcome State Fault Refusal :=
  match i with
  | .powerOnReset => Sys2Proof.Machine.execPowerOnReset s
  | .linkReset => Sys2Proof.Machine.execLinkReset s
  | .upstreamRead r => Sys2Proof.Machine.execUpstreamRead r s
  | .upstreamWrite w => Sys2Proof.Machine.execUpstreamWrite w s
  | .wholeCellWrite w => Sys2Proof.Machine.execWholeCellWrite w s
  | .cellBreak w => Sys2Proof.Machine.execCellBreak w s
  | .gatedRead r => Sys2Proof.Machine.execGatedRead r s
  | .gatedReadAnswer id a => Sys2Proof.Machine.execGatedReadAnswer id a s
  | .forwardedAnswer id a => Sys2Proof.Machine.execForwardedAnswer id a s
  | .slateReadAnswer a => Sys2Proof.Machine.execSlateReadAnswer a s
  | .ownWriteAck err => Sys2Proof.Machine.execOwnWriteAck err s
  | .holdTimerExpiry region slot => Sys2Proof.Machine.execHoldTimerExpiry region slot s
  | .unwrapCompletion => Sys2Proof.Machine.execUnwrapCompletion s
  | .announcement => Sys2Proof.Machine.execAnnouncement s
  | .passCellCompletion => Sys2Proof.Machine.execPassCell s
  | .timeCellAdoption => Sys2Proof.Machine.execTimeCell s
  | .groupSet => Sys2Proof.Machine.execGroupSet s
  | .zoneSet => Sys2Proof.Machine.execZoneSet s
  | .purseTopup => Sys2Proof.Machine.execPurseTopup s
  | .limitsSet => Sys2Proof.Machine.execLimitsSet s
  | .entitleFixture => Sys2Proof.Machine.execEntitleFixture s
  | .entitlePass => Sys2Proof.Machine.execEntitlePass s
  | .revokeFixture => Sys2Proof.Machine.execRevokeFixture s
  | .revokePass => Sys2Proof.Machine.execRevokePass s
  | .logAck => Sys2Proof.Machine.execLogAck s
  | .nightReset => Sys2Proof.Machine.execNightReset s
  | .secondEvent => Sys2Proof.Machine.execSecondEvent s
  | .armingWrite r => Sys2Proof.Machine.execArmingWrite r s
  | .placementHeadReadAnswer a => Sys2Proof.Machine.execPlacementHeadReadAnswer a s
  | .placementDescriptorReadAnswer a => Sys2Proof.Machine.execPlacementDescriptorReadAnswer a s
  | .orderProducerWrite w => Sys2Proof.Machine.execOrderProducerWrite w s
  | .reportConsumerWrite w => Sys2Proof.Machine.execReportConsumerWrite w s
  | .orderFetch => Sys2Proof.Machine.execOrderFetch s
  | .orderFetchAnswer a => Sys2Proof.Machine.execOrderFetchAnswer a s
  | .buyFixture => Sys2Proof.Machine.execBuyFixture s
  | .buyPass => Sys2Proof.Machine.execBuyPass s
  | .cancel => Sys2Proof.Machine.execCancel s
  | .quote => Sys2Proof.Machine.execQuote s
  | .quotePass => Sys2Proof.Machine.execQuotePass s
  | .purse => Sys2Proof.Machine.execPurse s
  | .logRead => Sys2Proof.Machine.execLogRead s
  | .fixtureList => Sys2Proof.Machine.execFixtureList s
  | .badOrder => Sys2Proof.Machine.execBadOrder s
  | .placedReportWrite => Sys2Proof.Machine.execPlacedReportWrite s
  | .replyRecordWrite => Sys2Proof.Machine.execReplyRecordWrite s
  | .conditionWrite => Sys2Proof.Machine.execConditionWrite s
  | .eepromSectionRead r => Sys2Proof.Machine.execEepromSectionRead r s
  | .writePassStart => Sys2Proof.Machine.execWritePassStart s
  | .pageWriteComplete => Sys2Proof.Machine.execPageWriteComplete s
  | .busArbitrationLoss => Sys2Proof.Machine.execBusArbitrationLoss s
  | .eepromNoAcknowledge why => Sys2Proof.Machine.execEepromNoAcknowledge why s
  | .transactionReissue => Sys2Proof.Machine.execTransactionReissue s

end Sys2Proof.Machine
end

