-- ==== Sys2Proof/Machine/Step.lean ====
section
/-! DEFINITION. One step: the command at the front of the queue, or one cycle of the reference clock; and the host's way of putting a word's command in front. -/

namespace Sys2Proof.Machine

/-- One step. The command at the front of the queue is taken and runs on the state with the queue's rest. On an empty queue the part sees one cycle of its reference
clock (DESIGN CHOICE, assumption log 2; R135), in which the retention unit may put the bus address on the two-wire bus (R172, assumption log 37). -/
def step (s : State) : Host.Outcome State Fault Refusal :=
  match s.pending with
  | [] => .next s.busCycle.tick
  | c :: rest => exec c { s with pending := rest }

/-- The state with the command that a word spells put in front of the queue; no row of the table gives bits, so no word spells one (assumption log 1). -/
def State.withFetchWord (s : State) (nbits w : Nat) : State :=
  match Sys2Proof.decodeTableWord nbits w with
  | some c => { s with pending := c :: s.pending }
  | none => s

end Sys2Proof.Machine
end

