-- ==== Sys2Proof/WellFormed.lean ====
section
/-! DEFINITION. Which commands can reach the part: the shapes of R142 for requests and answers, and for a section read what the store's capacity allows. -/

namespace Sys2Proof

/-- A length that the link carries: 16 to 128 bytes, a multiple of 16 (R142). -/
def lengthOk (n : Nat) : Bool := 16 ≤ n && n ≤ 128 && n % 16 == 0

/-- A 16-byte aligned address (R142). -/
def addrOk (a : Addr) : Bool := a.toNat % 16 == 0

/-- The shape of a read (R142). -/
def ReadReq.wf (r : ReadReq) : Bool := addrOk r.addr && lengthOk r.len

/-- The shape of a write: one enable per byte (R142). -/
def WriteReq.wf (w : WriteReq) : Bool :=
  addrOk w.addr && lengthOk w.data.length && w.enables.length == w.data.length

/-- The shape of a request of either sort (R142). -/
def Request.wf : Request → Bool
  | .read r => r.wf
  | .write w => w.wf

/-- A memory answer to a forwarded request: a read's bytes, or nothing for a write (R142). -/
def Answer.wf (a : Answer) : Bool := a.data.length == 0 || lengthOk a.data.length

/-- A memory answer of exactly `n` bytes. -/
def Answer.wfLen (a : Answer) (n : Nat) : Bool := a.data.length == n

/-- A list with no repeats. -/
def noRepeats {α : Type} [DecidableEq α] : List α → Bool
  | [] => true
  | x :: xs => !xs.contains x && noRepeats xs

/-- A kept schedule part lists at most 16 zones (R69). -/
def Schedule.wf (s : Schedule) : Bool := decide (s.blackout.length ≤ 16)

/-- The shape of what a section read brings back: four memberships (R86), as many entries as the count names up to 64
(R172), at most 32 fixture records of distinct nonzero tags (R64) and 4 pass records of distinct nonzero identifiers (R80) with at
most 16 members, and the section's bytes in their number (Table 12-1). -/
def SectionRead.wf : SectionRead → Bool
  | .s0 r => r.bytes.length == 128 && r.fields.memberships.length == 4
  | .s1 r => r.bytes.length == 1344 && r.fields.entries.length == min r.fields.count 64
  | .s2 r =>
    r.bytes.length == 2048 &&
    decide (r.fields.fixtures.length ≤ 32) && noRepeats (r.fields.fixtures.map (·.tag)) &&
    r.fields.fixtures.all (fun f => f.tag != 0#16 && (f.queued.map Schedule.wf).getD true) &&
    decide (r.fields.passes.length ≤ 4) && noRepeats (r.fields.passes.map (·.id)) &&
    r.fields.passes.all (fun p => p.id != 0#8 && decide (p.members.length ≤ 16))

/-- A well-formed command. -/
def Instr.wf : Instr → Bool
  | .upstreamRead r | .gatedRead r => r.wf
  | .upstreamWrite w | .wholeCellWrite w | .cellBreak w | .orderProducerWrite w | .reportConsumerWrite w => w.wf
  | .armingWrite r => r.wf
  | .gatedReadAnswer _ a | .forwardedAnswer _ a | .slateReadAnswer a => a.wf
  | .placementHeadReadAnswer a => a.wfLen 16
  | .placementDescriptorReadAnswer a => lengthOk a.data.length && a.data.length % 32 == 0
  | .orderFetchAnswer a => a.wfLen 64
  | .holdTimerExpiry region slot => decide (region < 12) && decide (slot < 2048)
  | .eepromSectionRead r => r.wf
  | _ => true

end Sys2Proof
end

