-- ==== Sys2Proof/Safety.lean ====
section
/-! DEFINITION. What the statements speak of: frames, the invariants of the part, and the tables of the spec in the form in which statements use them. -/

namespace Sys2Proof.Safety

open Sys2Proof.Machine

/-! ### Frames -/

/-- The blocks of State, one for each field. -/
inductive Block where
  | pending | emitted | unit | path | slots | keys | engine | clock | fixtures | refunds | passes | purse | log | placement | orders | reports | conds | store
  deriving DecidableEq, Repr

/-- A block holds after a step what it held before. -/
def sameBlock (b : Block) (s t : State) : Prop :=
  match b with
  | .pending => t.pending = s.pending
  | .emitted => t.emitted = s.emitted
  | .unit => t.unit = s.unit
  | .path => t.path = s.path
  | .slots => t.slots = s.slots
  | .keys => t.keys = s.keys
  | .engine => t.engine = s.engine
  | .clock => t.clock = s.clock
  | .fixtures => t.fixtures = s.fixtures
  | .refunds => t.refunds = s.refunds
  | .passes => t.passes = s.passes
  | .purse => t.purse = s.purse
  | .log => t.log = s.log
  | .placement => t.placement = s.placement
  | .orders => t.orders = s.orders
  | .reports => t.reports = s.reports
  | .conds => t.conds = s.conds
  | .store => t.store = s.store

/-- Every block outside the list is unchanged. -/
def changesOnly (bs : List Block) (s t : State) : Prop := ∀ b, b ∉ bs → sameBlock b s t

/-- Every condition outside the list is unchanged. -/
def condsOnly (ks : List CondKind) (s t : State) : Prop := ∀ k, k ∉ ks → t.conds.get k = s.conds.get k

/-- Of the retention unit nothing changes but dirty marks, which are set where the flags say so and otherwise stand. -/
def dirtied (b0 b1 b2 : Bool) (s t : State) : Prop :=
  t.store = { s.store with dirty :=
    { s0 := s.store.dirty.s0 || b0, s1 := s.store.dirty.s1 || b1, s2 := s.store.dirty.s2 || b2 } }

/-- Of the memory path, all but the requests in flight, the own requests and the two counters is unchanged: the region map stands. -/
def mapKept (s t : State) : Prop := t.path.regions = s.path.regions

/-- The placement unit is READING (R154). -/
def reading (s : State) : Prop := ∃ a h g, s.placement.st = .reading a h g

/-- The command at the front of the queue, if any, has a shape that can reach the part. -/
def FrontWf (s : State) : Prop := ∀ c rest, s.pending = c :: rest → c.wf = true

/-- A request is taken only while its class list holds fewer than 32 (R144). -/
def roomFor (c : Cls) (s : State) : Prop := (s.classList c).length < 32

/-- The commands that carry a read: whichever of them carries it, the step of R144 is taken on it whole (R144, assumption log 5). -/
def carriesRead (r : ReadReq) (cmd : Instr) : Prop := cmd = .upstreamRead r ∨ cmd = .gatedRead r ∨ cmd = .armingWrite (.read r)

/-- The commands that carry a write: whichever of them carries it, the step of R144 is taken on it whole (R144, assumption log 5). -/
def carriesWrite (w : WriteReq) (cmd : Instr) : Prop :=
  cmd = .upstreamWrite w ∨ cmd = .wholeCellWrite w ∨ cmd = .cellBreak w ∨ cmd = .orderProducerWrite w ∨ cmd = .reportConsumerWrite w ∨
    cmd = .armingWrite (.write w)

/-- The requests presented in a step, the own ones of them at the tail of those that await their answers, in the order presented (R150, R151). -/
def presentedAs (issued : List Emission) (s t : State) : Prop :=
  t.emitted = s.emitted ++ issued ∧ t.path.own = s.path.own ++ issued.filterMap ownOf

/-! ### Lookups -/

/-- An entry is in use at some index. -/
def inUse {α : Type} (t : List (Option α)) (e : α) : Prop := some e ∈ t

/-- The first entry in use that satisfies `p`, if there is one. -/
def firstWith {α : Type} (t : List (Option α)) (p : α → Prop) (r : Option α) : Prop :=
  (r = none → ∀ e, inUse t e → ¬ p e) ∧
    ∀ e, r = some e → ∃ i : Nat, t[i]? = some (some e) ∧ p e ∧ ∀ (j : Nat) (f : α), j < i → t[j]? = some (some f) → ¬ p f

/-- What a lookup of a group finds: nothing for group 0, otherwise the lowest-numbered membership that holds the group (R32, R36). -/
def membershipOf (s : State) (g : Group) (r : Option Membership) : Prop :=
  (g = 0 → r = none) ∧ (g ≠ 0 → firstWith (s.purse.memberships.map some) (fun m => m.group = g) r)

/-! ### Conditions and bookings (R169) -/

/-- A condition after a booking: the mark set, the count one higher but at most 65,535, and the booking's data in place of the old, save that sections are added to the
sections held (R169). -/
def bookedWith (d : CondData) (c c' : Cond) : Prop :=
  c'.booked = true ∧ c'.count = min (c.count + 1) 65535 ∧
    (∀ a b, c.data = some (.sections a) → d = .sections b → c'.data = some (.sections ⟨a.s0 || b.s0, a.s1 || b.s1, a.s2 || b.s2⟩)) ∧
    ((∀ a, c.data ≠ some (.sections a)) ∨ (∀ b, d ≠ .sections b) → c'.data = some d)

/-! ### Dirty marks (R65, R80, R87, R108) -/

/-- What S2 keeps of a fixture entry whose kind is other than NONE: tag, kind with its paid amount or identifier, viewed flag (R65, R172). -/
def keptFixture : Option FixtureEntry → Option (Tag × Kind × Bool)
  | none => none
  | some e => if e.kind = .none then none else some (e.tag, e.kind, e.viewed)

/-- What S2 keeps of an owned pass: identifier, ownership with its paid amount, members (R80, R172). -/
def keptPass : Option PassEntry → Option (PassId × Ownership × List Tag)
  | none => none
  | some p => if p.owner = .none then none else some (p.id, p.owner, p.members)

/-- Something that S2 keeps is changed: of an entitled entry, of the refund queue, the schedule part of a queued entry, or of an owned pass (R65, R80). -/
def keepsChanged (s t : State) : Prop :=
  t.fixtures.map keptFixture ≠ s.fixtures.map keptFixture ∨ t.refunds ≠ s.refunds ∨
    (∃ (i : Nat) (a b : FixtureEntry), s.fixtures[i]? = some (some a) ∧ t.fixtures[i]? = some (some b) ∧ b.tag ∈ s.refunds ∧ a.schedule ≠ b.schedule) ∨
    t.passes.map keptPass ≠ s.passes.map keptPass

/-- Of the retention unit nothing changes but dirty marks; a mark that stands stays, and a section is marked exactly when something that it keeps is changed
(R65, R80, R87, R108). -/
def marksFollow (s t : State) : Prop :=
  t.store = { s.store with dirty := t.store.dirty } ∧
    (t.store.dirty.s0 = true ↔ s.store.dirty.s0 = true ∨ t.purse ≠ s.purse ∨ t.log.next ≠ s.log.next) ∧
    (t.store.dirty.s1 = true ↔ s.store.dirty.s1 = true ∨ t.log ≠ s.log) ∧
    (t.store.dirty.s2 = true ↔ s.store.dirty.s2 = true ∨ keepsChanged s t)

/-! ### The fixture entry and the condition of a state, in the words of the statements -/

/-- The log entry that a step makes: next sequence number, clock value, balance after (R106). -/
def newEntryOf (s : State) (kind : LogKind) (ident : BitVec 16) (amount : Credit) (after : Int) : LogEntry :=
  { seq := s.log.next, kind := kind, ident := ident, amount := amount, clock := s.now, balanceAfter := after }

/-- The condition LOG_NEARLY_FULL after a step that leaves `n` entries (R108). -/
def nearlyFullAfter (n : Nat) (c : Cond) : Cond := if 56 ≤ n then c.book (.length n) else c

/-! ### Invariants -/

/-- The ranges of the purse's credit fields (Table 5-1). -/
def purseInRange (p : Purse) : Prop :=
  -65535 ≤ p.balance ∧ p.balance ≤ 16777215 ∧ p.spent ≤ 16777215 ∧ p.cap ≤ 16777215

/-- The ranges of Table 5-1 for the fields that section S0 keeps (R173). -/
def s0InRange (f : S0Fields) : Prop := purseInRange (purseOf f) ∧ -4259775 ≤ f.reference ∧ f.reference ≤ 20971455

/-- The ranges of Table 6-1: a tag 1 to 65,535 or a pass identifier 1 to 255, and the balance after. -/
def table61 (e : LogEntry) : Prop :=
  e.ident ≠ 0 ∧ (e.kind = .passPurchase → e.ident.toNat ≤ 255) ∧ -65535 ≤ e.balanceAfter ∧ e.balanceAfter ≤ 16777215

/-- The sum of the amounts of the entries of a sort. -/
def amounts (es : List LogEntry) (p : LogEntry → Bool) : Int := ((es.filter p).map (fun e => (e.amount.toNat : Int))).sum

/-- The entry is a refund. -/
def isRefund (e : LogEntry) : Bool :=
  match e.kind with
  | .refund _ => true
  | _ => false

/-- The purse law: balance = reference - purchases in the log + refunds in the log (R88). -/
def purseLaw (s : State) : Prop :=
  s.purse.balance = s.purse.reference - amounts s.log.entries (fun e => !isRefund e) + amounts s.log.entries isRefund

/-- The purse law, the ranges of Table 5-1 and the log's capacity, with what the restore has judged good so far in the same ranges (R86, R88, R105). -/
def CreditSound (s : State) : Prop :=
  purseLaw s ∧ purseInRange s.purse ∧ -4259775 ≤ s.purse.reference ∧ s.purse.reference ≤ 20971455 ∧ s.log.entries.length ≤ 64 ∧
    (∀ j0 j1, s.store.st = .restoring j0 j1 →
      (∀ f, j0 = some (.good f) → purseInRange (purseOf f)) ∧ (∀ es, j1 = some (.good es) → es.length ≤ 64))

/-- Each entry's sequence is one greater than that of the entry before it, modulo 2^32 (R105). -/
def consecutive : List LogEntry → Prop
  | a :: b :: rest => b.seq = a.seq + 1 ∧ consecutive (b :: rest)
  | _ => True

/-- What section S1 keeps is sound: the count, every kind and cause, the ranges of Table 6-1, and the numbering (R173). -/
def s1InRange (f : S1Fields) : Prop :=
  f.count ≤ 64 ∧ f.kindsOk = true ∧ (∀ e ∈ f.entries.take f.count, table61 e) ∧ consecutive (f.entries.take f.count)

/-- The section's mark is CLOSED and its bytes sum to 0 (R173). -/
def sectionClosed (bytes : List Byte) : Prop := byteAt bytes 0 = 0xA5 ∧ sumBytes bytes = 0

/-- The numbering of the log: entries rise by one, and the next number is one past the newest (R105). -/
def LogNumbered (s : State) : Prop :=
  consecutive s.log.entries ∧ (∀ e, s.log.entries.getLast? = some e → s.log.next = e.seq + 1) ∧
    (∀ j0 es, s.store.st = .restoring j0 (some (.good es)) → consecutive es)

/-- The slot table holds one record for each slot (R2). -/
def slotsDistinct (s : State) : Prop := (s.slots.map (fun x => (x.region, x.number))).Nodup

/-- The capacities of Table 0-4, one record for each slot, and the ranges of counters. -/
def Capacity (s : State) : Prop :=
  s.engine.queue.length ≤ 16 ∧ (∀ c, (s.classList c).length ≤ 32) ∧ s.keys.length = 16 ∧ s.fixtures.length = 32 ∧ s.passes.length = 4 ∧
    s.purse.memberships.length = 4 ∧ s.path.regions.length ≤ 12 ∧ s.slots.length ≤ 4096 ∧ s.clock.sub < 24576000 ∧
    (∀ k, (s.conds.get k).count ≤ 65535) ∧ s.placement.attempts ≤ 255 ∧ (∀ p, inUse s.passes p → p.members.length ≤ 16) ∧
    (∀ j0 j1, s.store.st = .restoring j0 j1 → ∀ f, j0 = some (.good f) → f.memberships.length = 4) ∧
    (∀ a head got, s.placement.st = .reading a (some head) got → headCount head ≤ 12) ∧
    (∀ e sch ph, inUse s.fixtures e → e.standing = .scheduled sch ph → sch.blackout.length ≤ 16) ∧
    slotsDistinct s

/-- Key bank entries in use hold distinct services, and each has a slot that is PENDING or VALID (R29). -/
def KeyBankSound (s : State) : Prop :=
  (s.keys.filterMap (fun o => o.map (·.service))).Nodup ∧ (∀ e, inUse s.keys e → ¬ (e.even = .empty ∧ e.odd = .empty))

/-- No two fixture entries hold one tag and none holds tag 0; the same for pass identifiers (R64, R80). -/
def TablesKeyed (s : State) : Prop :=
  (s.fixtures.filterMap (fun o => o.map (·.tag))).Nodup ∧ (∀ e, inUse s.fixtures e → e.tag ≠ 0) ∧
    (s.passes.filterMap (fun o => o.map (·.id))).Nodup ∧ (∀ p, inUse s.passes p → p.id ≠ 0)

/-- While the retention unit is RESTORING no right, entry, order or grant exists yet (R87, R117, R120, R164). -/
def restoringIsQuiet (s : State) : Prop :=
  s.restoring = true →
    s.refunds = [] ∧ s.log.entries = [] ∧ s.orders.st = .idle ∧ (∀ c ∈ s.engine.queue, c.kind ≠ .grant) ∧
      (∀ e, inUse s.fixtures e → e.kind = .none) ∧ (∀ p, inUse s.passes p → p.owner = .none)

/-- The refund queue: no tag twice, at most 32, each the tag of a CANCELLED IMPULSE entry, and empty while the log has room (R75). -/
def RefundQueueSound (s : State) : Prop :=
  s.refunds.Nodup ∧ s.refunds.length ≤ 32 ∧ s.fixtures.length = 32 ∧
    (∀ t ∈ s.refunds, ∃ e, s.fixture t = some e ∧ (∃ sch, e.standing = .scheduled sch .cancelled) ∧ ∃ a, e.kind = .impulse a) ∧
    (s.log.entries.length < 64 → s.refunds = []) ∧ restoringIsQuiet s

/-- The parts of a fixture entry agree: an AWAITING entry is entitled and has no preview; an entry is CANCELLED exactly when its cancelled flag is set, and its preview
remaining is at most its allowance (R57, R64, R66, R78). -/
def partsAgree (e : FixtureEntry) : Prop :=
  match e.standing with
  | .awaiting => e.kind ≠ .none ∧ e.remaining = 0
  | .scheduled sch ph => (ph = .cancelled ↔ sch.cancelled = true) ∧ e.remaining ≤ sch.allowance.toNat

/-- Every fixture entry in use is sound. -/
def FixturesSound (s : State) : Prop := ∀ e, inUse s.fixtures e → partsAgree e

/-- A ring's view: capacity in bounds, producer and consumer within it (R162, R168). -/
def viewSound (lo : Nat) (v : RingView) : Prop := lo ≤ v.cap ∧ v.cap ≤ 256 ∧ v.prod < v.cap ∧ v.cons < v.cap

/-- The regions of a map are aligned, nonempty, within the address space and disjoint (R146, R158). -/
def mapSound (rs : List Region) : Prop :=
  (∀ r ∈ rs, r.base.toNat % 128 = 0 ∧ r.size % 128 = 0 ∧ 0 < r.size ∧ r.base.toNat + r.size ≤ 4294967296) ∧
    rs.Pairwise (fun a b => a.base.toNat + a.size ≤ b.base.toNat ∨ b.base.toNat + b.size ≤ a.base.toNat)

/-- What stands with each placement state: no map, slot table, view or order while not PLACED; both views and a sound map while PLACED; a pending report
only while PLACED and RESTORING; no arming run while READING (R2, R146, R154, R155, R162, R168). -/
def PlacementSound (s : State) : Prop :=
  (s.placement.st ≠ .placed →
    s.path.regions = [] ∧ s.slots = [] ∧ s.orders.view = none ∧ s.orders.st = .idle ∧ s.reports.view = none ∧ s.reports.placed = none) ∧
  (s.placement.st = .placed →
    mapSound s.path.regions ∧ (∃ v, s.orders.view = some v ∧ viewSound 4 v) ∧ (∃ v, s.reports.view = some v ∧ viewSound 16 v)) ∧
  (s.placement.pendingReport = true → s.placement.st = .placed ∧ s.restoring = true) ∧
  (reading s → s.placement.run = none)

/-- Every held part of a read in flight waits on a slot that is HELD (R18, R19). -/
def HoldsSound (s : State) : Prop :=
  ∀ e ∈ s.path.inflight, ∀ p ∈ e.parts, p.serving = .held →
    ∃ h o svc odd n, s.slotAt p.region p.slot = some (.program h (.held o svc odd n))

/-- No answer that could be returned is kept back: the oldest request of every class has no ready answer (R145). -/
def NoReadyOldest (s : State) : Prop := ∀ c e, (s.classList c).head? = some e → e.ready = false

/-- The serial numbers of the requests in flight are distinct and below the next one. The numbers are the model's own: they stand for the identity of a request,
by which memory's answer finds it (R144, R145). -/
def RequestsNumbered (s : State) : Prop := (s.path.inflight.map (·.id)).Nodup ∧ ∀ e ∈ s.path.inflight, e.id < s.path.nextId

/-! ### Tables of the spec as statements use them -/

/-- Table 9-1: the classes and offsets for which a written byte of a region is kept. -/
def table91 (g : Region) (off : Nat) (c : Cls) : Prop :=
  match g.kind with
  | .cellRing => inSet g.writers c = true
  | .slate => inSet g.writers c = true
  | .shielded => inSet g.writers c = true
  | .orderRing => inSet g.writers c = true ∧ (off ≤ 3 ∨ 128 ≤ off)
  | .reportRing => inSet g.writers c = true ∧ 64 ≤ off ∧ off ≤ 67

/-- Byte `i` of a write is kept by the region rule for where it lies (R146, R147). -/
def kept91 (s : State) (c : Cls) (a : Addr) (i : Nat) : Prop :=
  match locate s.path.regions (addrAt a i) with
  | some (_, g) => table91 g (addrAt a i - g.base.toNat) c
  | none => True

/-- Table 1-9 and R14: the service that a slot state gives a part. -/
def table19 (st : Option SlotState) (v : Serving) : Prop :=
  match st with
  | some (.program _ .undecided) => v = .waiting false
  | some (.program _ (.held _ _ _ _)) => v = .held
  | some (.program h (.clear w)) => v = .clear w h.seq
  | some (.program _ (.slate r)) => v = .slate r none
  | some .control => v = .raw
  | some .opaqueCell => v = .raw
  | some .empty => v = .slate 0 none
  | some .broken => v = .slate 0 none
  | none => True

/-- Byte `i` of a request by class `c` is payload of a cell ring that `c` is a clear reader of: it lies in region `k`, at offset `off` of slot `n` (R8). -/
def gatedAt (s : State) (c : Cls) (a : Addr) (i k n off : Nat) : Prop :=
  ∃ g, locate s.path.regions (addrAt a i) = some (k, g) ∧ g.kind = .cellRing ∧ inSet g.readers c = true ∧
    n = (addrAt a i - g.base.toNat) / 128 ∧ off = (addrAt a i - g.base.toNat) % 128 ∧ 16 ≤ off

/-- A part after a write that touched these slots: waiting for its answer it is stale, held it is settled as NO_CELL, otherwise it stands (R17). -/
def madeStale (touched : List (Nat × Nat)) (p : Part) : Part :=
  if (p.region, p.slot) ∈ touched then
    match p.serving with
    | .waiting _ => { p with serving := .waiting true }
    | .held => { p with serving := .slate 0 none }
    | _ => p
  else p

/-- The emission presents a forwarded request. -/
def isForward : Emission → Bool
  | .forward _ _ _ => true
  | _ => false

/-- The emission is a slate read (R11). -/
def isSlateRead : Emission → Bool
  | .own (.slateRead _ _ _ _ _) => true
  | _ => false

/-- The emission is an own request other than a slate read: of the placement unit, the order unit or the report writer (R150). -/
def isUnitRequest : Emission → Bool
  | .own (.slateRead _ _ _ _ _) => false
  | .own _ => true
  | _ => false

/-- The emission returns an answer to a requester. -/
def isAnswer : Emission → Bool
  | .answer _ _ _ => true
  | _ => false

/-- Byte `i` of a write by class `c`, enabled and not masked, lies in slot `n` of the cell ring at index `r` of the map (R4). -/
def touchesAt (rs : List Region) (c : Cls) (w : WriteReq) (i r n : Nat) : Prop :=
  ∃ g, w.enables[i]? = some true ∧ locate rs (addrAt w.addr i) = some (r, g) ∧ g.kind = .cellRing ∧ inSet g.writers c = true ∧
    n = (addrAt w.addr i - g.base.toNat) / 128

/-- A write by class `c` is a whole-cell write of slot `n` of the cell ring at index `r` of the map (R5). -/
def coversSlot (rs : List Region) (c : Cls) (w : WriteReq) (r n : Nat) : Prop :=
  w.enables = List.replicate 128 true ∧ ∃ g, rs[r]? = some g ∧ g.kind = .cellRing ∧ inSet g.writers c = true ∧ n < g.size / 128 ∧
    w.addr.toNat = g.base.toNat + 128 * n

/-- The slate read for a part of request `id` served with slate cell `k`: the slate offsets the part covers (R11). -/
def slateReadFor (s : State) (id : Nat) (p : Part) (k : Nat) : Emission :=
  .own (.slateRead (s.slateBase + BitVec.ofNat 32 (128 * k + p.offset)) p.len id p.region p.slot)

/-! ### The placement record (R158) -/

/-- Base of descriptor `i` of the descriptor bytes (Table 13-7). -/
def descBase (ds : List Byte) (i : Nat) : Nat := (le32 ds (32 * i + 4)).toNat

/-- Size of descriptor `i` of the descriptor bytes (Table 13-7). -/
def descSize (ds : List Byte) (i : Nat) : Nat := (le32 ds (32 * i + 8)).toNat

/-- Table 10-1: how many regions of a kind byte are allowed, and the sizes allowed. -/
def table101 (k : Byte) (size : Nat) (allowed : Nat) : Prop :=
  (k = 1 ∧ 2048 ≤ size ∧ size ≤ 262144 ∧ allowed = 4) ∨ (k = 2 ∧ size = 1024 ∧ allowed = 1) ∨
    (k = 3 ∧ 384 ≤ size ∧ size ≤ 16512 ∧ allowed = 1) ∨ (k = 4 ∧ 1152 ≤ size ∧ size ≤ 16512 ∧ allowed = 1) ∨
    (k = 5 ∧ 128 ≤ size ∧ allowed = 6)

/-- Descriptor `i` passes every BAD_REGION test (R158). -/
def regionGood (ds : List Byte) (i : Nat) : Prop :=
  descBase ds i % 128 = 0 ∧ descSize ds i ≠ 0 ∧ descSize ds i % 128 = 0 ∧ descBase ds i + descSize ds i ≤ 4294967296 ∧
    ∃ allowed, table101 (byteAt ds (32 * i)) (descSize ds i) allowed ∧
      ((List.range i).filter (fun j => byteAt ds (32 * j) == byteAt ds (32 * i))).length < allowed

/-- Descriptor `i` shares a byte with a region of lower index (R158). -/
def sharesBytes (ds : List Byte) (i : Nat) : Prop :=
  ∃ j b, j < i ∧ descBase ds i ≤ b ∧ b < descBase ds i + descSize ds i ∧ descBase ds j ≤ b ∧ b < descBase ds j + descSize ds j

/-- The cells of all cell rings among the first `n` descriptors (R158). -/
def recordCells (ds : List Byte) (n : Nat) : Nat :=
  ((List.range n).map (fun i => if byteAt ds (32 * i) = 1 then descSize ds i / 128 else 0)).sum

/-- The kind byte of a region kind (section 10.3). -/
def kindByte : RegionKind → Byte
  | .cellRing => 1 | .slate => 2 | .orderRing => 3 | .reportRing => 4 | .shielded => 5

/-! ### Refunds (R97) -/

/-- The purse after a refund of an amount: the balance rises by the amount credited, the reference falls by the part forfeited, and spent tonight falls by the amount, not
below 0 (R97). -/
def refunded (p : Purse) (amount : Nat) : Purse :=
  { p with
    balance := p.balance + min (amount : Int) (16777215 - p.balance)
    reference := p.reference - ((amount : Int) - min (amount : Int) (16777215 - p.balance))
    spent := p.spent - amount }

/-- The paid amount of the entry that holds a tag (R64). -/
def paidFor (s : State) (t : Tag) : Credit :=
  match s.fixture t with
  | some { kind := .impulse paid, .. } => paid
  | _ => 0

/-- A purse after the refunds of these tags, one after the other, each of its entry's paid amount in `s` (R97, R112). -/
def refundedAll (s : State) (tags : List Tag) (p : Purse) : Purse := tags.foldl (fun p t => refunded p (paidFor s t).toNat) p

/-- The REFUND entry of each of these tags, in their order, from a purse `p`: the balance after is the running balance (R106, R112, assumption log 31). -/
def refundEntries (s : State) (p : Purse) (tags : List Tag) : List LogEntry :=
  tags.zipIdx.map (fun x =>
    { seq := s.log.next + BitVec.ofNat 32 x.2, kind := .refund .operator, ident := x.1, amount := paidFor s x.1, clock := s.now
      balanceAfter := (refundedAll s (tags.take (x.2 + 1)) p).balance })

/-! ### The retention store (R172, R175) -/

/-- What a PAGE_WRITE_COMPLETE puts on the bus first: the bus address, unless a cycle has put it there since the page's stop (R172, assumption log 37). -/
def acknowledging (polling : Bool) : List Emission := if polling then [] else [.bus (.poll 0b1010010)]

/-- A page write is under way and no stop is awaited (R172). -/
def pageUnderWay (s : State) : Prop := ∃ image rest page polling, s.store.st = .writing (image :: rest) page polling ∧ s.store.awaitingStop = false

/-- The retention unit in one cycle of the clock: with no page write under way it does nothing; otherwise the model's own counter rises, and the unit may put the bus address on
the bus, after which the page has reached its stop (R172, assumption log 37). -/
def busCycled (s u : State) : Prop :=
  (¬ pageUnderWay s → u = s) ∧
    (pageUnderWay s → ∃ st turns issued, u = { s with store := { s.store with st := st, turns := turns }, emitted := s.emitted ++ issued } ∧
      ((st = s.store.st ∧ issued = []) ∨
        ∃ image rest page polling, s.store.st = .writing (image :: rest) page polling ∧ st = .writing (image :: rest) page true ∧
          issued = [.bus (.poll 0b1010010)]))

/-- The order unit is IDLE in a part that is PLACED, and its ring holds a waiting order (R164). -/
def orderWaits (s : State) : Prop := ∃ v, s.orders.st = .idle ∧ s.orders.view = some v ∧ s.placement.st = .placed ∧ v.prod ≠ v.cons

/-- What the end of the restore does beside purse, log and tables: a pending PLACED report is handed over with its values as they stand, and an order that waits is taken
up in the same step (R161, R164, assumption log 23). -/
def restoreEnded (s t : State) : Prop :=
  t.placement = { s.placement with pendingReport := false } ∧
    (s.placement.pendingReport = true → t.reports = { s.reports with
      placed := some { unit := s.unit.number, balance := t.purse.balance, logCount := t.log.entries.length, running := s.clock.running } }) ∧
    (s.placement.pendingReport = false → t.reports = s.reports) ∧
    (orderWaits s → t.orders = { s.orders with st := .waitingRoom }) ∧ (¬ orderWaits s → t.orders = s.orders)

/-- The kind that a kept record gives a fixture entry (R175). -/
def keptKind (r : FixtureRec) : Kind :=
  match r.kind with
  | .none => .none
  | .impulse => .impulse r.paid
  | .granted => .granted
  | .pass => .pass r.passId

/-- A record of S2 that keeps a fixture entry (R172). -/
def recordKeeps (r : FixtureRec) (e : FixtureEntry) : Prop := r.tag = e.tag ∧ keptKind r = e.kind ∧ r.viewed = e.viewed

/-- The standing that a queued record leaves: CANCELLED, with this schedule part and its cancelled flag set (R175). -/
def cancelledBy (sch : Schedule) : Standing := .scheduled { sch with cancelled := true } .cancelled

/-- A key bank entry that may be evicted: no slot is PENDING (R34). -/
def keyEvictable (e : KeyEntry) : Bool :=
  match e.even, e.odd with
  | .pending _, _ => false
  | _, .pending _ => false
  | _, _ => true

/-- Index `i` is where a new service goes: the lowest-indexed free entry, or, when none is free, the evictable entry with the smallest last-use second, of equals the
lowest-indexed (R33, R34). -/
def keyPlace (s : State) (i : Nat) : Prop :=
  (s.keys[i]? = some none ∧ ∀ j, j < i → s.keys[j]? ≠ some none) ∨
    ((∀ o ∈ s.keys, o ≠ none) ∧ ∃ e, s.keys[i]? = some (some e) ∧ keyEvictable e = true ∧
      ∀ (j : Nat) (f : KeyEntry), s.keys[j]? = some (some f) → keyEvictable f = true →
        e.lastUse.toNat < f.lastUse.toNat ∨ (e.lastUse.toNat = f.lastUse.toNat ∧ i ≤ j))

/-- An entry that may be evicted for a new fixture, with its end: RETIRED, or CANCELLED and not in the refund queue (R71). -/
def evictable (s : State) (e : FixtureEntry) (finish : Nat) : Prop :=
  ∃ sch, finish = sch.finish.toNat ∧
    (e.standing = .scheduled sch .retired ∨ (e.standing = .scheduled sch .cancelled ∧ e.tag ∉ s.refunds))

/-- A pass that may be evicted, with its rank: not owned, and without a schedule part (rank 0) or with a sale close at or before the clock value (R81). -/
def passEvictable (s : State) (p : PassEntry) (rank : Nat) : Prop :=
  p.owner = .none ∧
    ((p.sale = none ∧ rank = 0) ∨ ∃ sale, p.sale = some sale ∧ sale.closes.toNat ≤ s.now.toNat ∧ rank = sale.closes.toNat + 1)

/-- Index `i` is where a new entry goes in a table: the lowest-indexed free one, or, when none is free, the candidate of least rank, of equals the lowest-indexed
(R64, R71, R81). -/
def placeIn {α : Type} (t : List (Option α)) (candidate : α → Nat → Prop) (i : Nat) : Prop :=
  (t[i]? = some none ∧ ∀ j, j < i → t[j]? ≠ some none) ∨
    ((∀ o ∈ t, o ≠ none) ∧ ∃ e k, t[i]? = some (some e) ∧ candidate e k ∧
      ∀ (j : Nat) (f : α) (k' : Nat), t[j]? = some (some f) → candidate f k' → k < k' ∨ (k = k' ∧ i ≤ j))

/-- No place can be had: no entry is free and none may be evicted. -/
def noPlaceIn {α : Type} (t : List (Option α)) (candidate : α → Nat → Prop) : Prop :=
  ∀ o ∈ t, ∃ e, o = some e ∧ ∀ k, ¬ candidate e k

/-- A grant of the unit's own, of kind `k`, that stands at the head and passes the checks of R125. -/
def unitGrantAtHead (s : State) (k : Nat) (cell : List Byte) : Prop :=
  s.headGrant (isGrant k) = some cell ∧ grantTarget cell = 0 ∧ s.grantApplies cell = true

/-- The purse once a unit-addressed grant has advanced the last grant sequence (R125). -/
def sequenced (s : State) (cell : List Byte) : Purse := { s.purse with lastSeq := grantSeq cell }

/-- The grant kinds that a completion command serves (R128): which head cells it is the event of. -/
def grantOf : Instr → Option (List Byte → Bool)
  | .groupSet => some (isGrant 1)
  | .zoneSet => some (isGrant 2)
  | .purseTopup => some (isGrant 3)
  | .limitsSet => some (isGrant 4)
  | .entitleFixture => some (isGrantOf 5 0)
  | .entitlePass => some (isGrantOf 5 1)
  | .revokeFixture => some (isGrantOf 6 0)
  | .revokePass => some (isGrantOf 6 1)
  | .logAck => some (isGrant 7)
  | .nightReset => some (isGrant 8)
  | _ => none

/-- The queue once its head has left: the next cell is at the head, and a KEY cell's group key is looked up then, by the memberships as they stand (R36, R123). -/
def headLeft (s : State) (ms : List Membership) : Engine :=
  { queue := s.engine.queue.tail
    headKey :=
      match s.engine.queue.tail with
      | c :: _ =>
        if c.kind = .key ∧ keyGroup c.bytes ≠ 0 then (ms.find? (fun m => m.group == keyGroup c.bytes)).map (·.key) else none
      | [] => none }

/-- The retention unit with S0 marked dirty. -/
def s0Dirty (s : State) : Retention := { s.store with dirty := { s.store.dirty with s0 := true } }

/-- The phases in which a pass reaches an entry: LISTED, ON_SALE and LIVE (R70, R82). -/
def onOfferNow (e : FixtureEntry) : Prop :=
  ∃ sch ph, e.standing = .scheduled sch ph ∧ (ph = .listed ∨ ph = .onSale ∨ ph = .live)

/-- The lowest-indexed owned pass, other than `id`, that lists a tag (R84). -/
def otherPass (s : State) (id : PassId) (t : Tag) : Option PassEntry :=
  tableFind s.passes (fun q => q.owned && q.id != id && q.members.contains t)

/-- The pass reaches the entry: a NONE entry on offer whose nonzero tag is among the members (R82). -/
def reached (members : List Tag) (e : FixtureEntry) : Prop := e.tag ∈ members ∧ e.tag ≠ 0 ∧ e.kind = .none ∧ onOfferNow e

/-- What propagation of a pass to a list of members leaves of a fixture entry (R82). -/
def propagated (id : PassId) (members : List Tag) (e e' : FixtureEntry) : Prop :=
  (reached members e → e' = { e with kind := .pass id }) ∧ (¬ reached members e → e' = e)

/-- ENTITLEMENT_CHANGED is booked once for each tag whose entry is changed: the count is that much higher, up to 65,535, and the data is one of the tags (which, is a
free value: assumption log 15). Where no entry is changed it stands (R82, R84, R169). -/
def changedBooked (changed : Tag → Prop) (s t : State) : Prop :=
  ((∃ u, changed u) → t.conds.entitlementChanged.booked = true ∧ ∃ u, changed u ∧ t.conds.entitlementChanged.data = some (.tag u)) ∧
    ((∀ u, ¬ changed u) → t.conds.entitlementChanged = s.conds.entitlementChanged) ∧
    ∀ tags : List Tag, tags ≠ [] → tags.Nodup → (∀ u, u ∈ tags ↔ changed u) →
      t.conds.entitlementChanged.count = min (s.conds.entitlementChanged.count + tags.length) 65535

/-- Propagation books ENTITLEMENT_CHANGED once for each entry it reaches (R82, R169). -/
def propagationBooked (members : List Tag) (s t : State) : Prop :=
  changedBooked (fun u => ∃ e, s.fixture u = some e ∧ reached members e) s t

/-- The announcement passes the checks of R69. -/
def announcementSound (cell : List Byte) : Prop :=
  (parseHeader cell).tag ≠ 0 ∧ (pay8 cell 0).toNat ≤ 1 ∧ (pay32 cell 2).toNat ≤ (pay32 cell 6).toNat ∧ (pay32 cell 6).toNat < (pay32 cell 10).toNat

/-- The phase that a schedule part gives at a clock value (Table 4-2). -/
def table42 (sch : Schedule) (c : Nat) (ph : Phase) : Prop :=
  (c < sch.saleOpen.toNat ∧ ph = .listed) ∨
    (sch.saleOpen.toNat ≤ c ∧ c < sch.kickOff.toNat ∧ ph = .onSale) ∨
    (sch.saleOpen.toNat ≤ c ∧ sch.kickOff.toNat ≤ c ∧ c < sch.finish.toNat ∧ ph = .live) ∨
    (sch.saleOpen.toNat ≤ c ∧ sch.kickOff.toNat ≤ c ∧ sch.finish.toNat ≤ c ∧ c < sch.finish.toNat + 1800 ∧ ph = .ended) ∨
    (sch.saleOpen.toNat ≤ c ∧ sch.kickOff.toNat ≤ c ∧ sch.finish.toNat + 1800 ≤ c ∧ ph = .retired)

/-! ### Fields and records (chapter 13) -/

/-- The number in the `n` bytes at an offset, its lowest-addressed byte the least significant (R178). -/
def leAt (bs : List Byte) (off : Nat) : Nat → Nat
  | 0 => 0
  | n + 1 => (byteAt bs off).toNat + 256 * leAt bs (off + 1) n

/-- The `n` bytes of a number, its lowest-addressed byte the least significant (R178). -/
def leBytes : Nat → Nat → List Byte
  | 0, _ => []
  | n + 1, v => BitVec.ofNat 8 v :: leBytes n (v / 256)

/-- The four bytes of a signed number, in two's complement (R178). -/
def signedBytes (z : Int) : List Byte := leBytes 4 (z % 4294967296).toNat

/-- Bytes that no table assigns (R179). -/
def unassigned (n : Nat) : List Byte := List.replicate n 0

/-- The header of a cell as captured (R1, Table 13-1). -/
def table131 (cell : List Byte) (h : Header) : Prop :=
  h.kind = byteAt cell 0 ∧ (h.parity = true ↔ (byteAt cell 1).toNat % 2 = 1) ∧ h.service.toNat = leAt cell 2 2 % 1024 ∧
    h.tag.toNat = leAt cell 4 2 ∧ h.period.toNat = leAt cell 6 2 ∧ h.seq.toNat = leAt cell 8 4

/-- The payload fields of a cell lie 16 bytes on (section 0.7, R178). -/
def payloadFields (cell : List Byte) : Prop :=
  ∀ p, pay8 cell p = byteAt cell (16 + p) ∧ (pay16 cell p).toNat = leAt cell (16 + p) 2 ∧ (pay32 cell p).toNat = leAt cell (16 + p) 4

/-- The common part of a grant and its operand bytes (Tables 13-5, 13-6). -/
def table135 (cell : List Byte) : Prop :=
  grantTarget cell = byteAt cell 16 ∧ grantKind cell = byteAt cell 17 ∧ (grantUnit cell).toNat = leAt cell 18 4 ∧
    (grantGroup cell).toNat = leAt cell 18 2 ∧ (grantSeq cell).toNat = leAt cell 22 4 ∧ grantOp cell = byteAt cell 26 ∧
    (grantIdent cell).toNat = leAt cell 27 2 ∧ (grantPass cell).toNat = leAt cell 27 2 % 256

/-- The fields of an order (Table 13-9, R180). -/
def table139 (order : List Byte) : Prop :=
  orderKind order = byteAt order 0 ∧ (orderNumber order).toNat = leAt order 4 4 ∧ (orderTag order).toNat = leAt order 8 2 ∧
    orderByte order = byteAt order 8 ∧ (orderPrice order).toNat = leAt order 10 2 ∧ (orderFrom order).toNat = leAt order 8 4 ∧
    orderCount order = byteAt order 12

/-- The class of a cell by its kind byte (Table 1-6). -/
def table16 (kind : Byte) (c : CellClass) : Prop :=
  (kind = 1 ∧ c = .program) ∨ (kind = 2 ∧ c = .control .key) ∨ (kind = 3 ∧ c = .control .grant) ∨ (kind = 4 ∧ c = .control .time) ∨
    (kind = 5 ∧ c = .control .fixture) ∨ (kind = 6 ∧ c = .control .pass) ∨ ((kind = 0 ∨ 7 ≤ kind.toNat) ∧ c = .opaqueCell)

/-- The schedule part of an announcement: the header's service, and the payload fields of Table 13-3, each as it stands within the limits of R69 and at the limit outside them. -/
def table133 (cell : List Byte) (sch : Schedule) : Prop :=
  sch.service.toNat = leAt cell 2 2 % 1024 ∧ (sch.cancelled = true ↔ byteAt cell 16 = 1) ∧
    sch.saleOpen.toNat = leAt cell 18 4 ∧ sch.kickOff.toNat = leAt cell 22 4 ∧ sch.finish.toNat = leAt cell 26 4 ∧
    sch.base.toNat = leAt cell 30 2 ∧ sch.floor.toNat = min (leAt cell 32 2) (leAt cell 30 2) ∧
    sch.stepLen.toNat = max 60 (min 3600 (leAt cell 34 2)) ∧ sch.stepCut.toNat = leAt cell 36 2 ∧
    sch.allowance.toNat = min 900 (leAt cell 38 2) ∧
    sch.blackout = (List.range (min (byteAt cell 17).toNat 16)).map (fun i => byteAt cell (40 + i))

/-- A flag or a clock state as a code (Table 13-16). -/
def flagCode (b : Bool) : Nat := if b then 1 else 0

/-- Codes of outcomes and refusals (Table 13-16). -/
def outcomeCode (o : OrderOutcome) : Nat :=
  [OrderOutcome.accepted, .noTime, .unknownFixture, .unknownPass, .notOnSale, .ended, .cancelled, .alreadyEntitled, .blackedOut,
    .priceChanged, .logFull, .capReached, .noCredit, .notCancellable, .badOrder].idxOf o

/-- Codes of phases: 1 AWAITING, then the phases of an entry with a schedule part; ABSENT is 0 (Table 13-16). -/
def standingCode : Standing → Nat
  | .awaiting => 1
  | .scheduled _ ph => 2 + [Phase.listed, .onSale, .live, .ended, .retired, .cancelled].idxOf ph

/-- A kind's code, paid amount and pass identifier, each 0 where the kind has none (Table 13-16, R64, R179). -/
def kindFields : Kind → Nat × Nat × Nat
  | .none => (0, 0, 0)
  | .impulse paid => (1, paid.toNat, 0)
  | .granted => (2, 0, 0)
  | .pass id => (3, 0, id.toNat)

/-- An ownership's code and paid amount (Table 13-16, R80). -/
def ownerFields : Ownership → Nat × Nat
  | .none => (0, 0)
  | .bought paid => (1, paid.toNat)
  | .granted => (2, 0)

/-- The codes of a log entry's kind and refund cause (Table 13-16). -/
def logKindFields : LogKind → Nat × Nat
  | .purchase => (1, 0)
  | .passPurchase => (2, 0)
  | .refund .operator => (3, 1)
  | .refund .viewer => (3, 2)

/-- Bytes 8 to 63 of a REPLY (Table 13-12). -/
def replyBytes : ReplyBody → List Byte
  | .purchase price seq balance => leBytes 2 price ++ unassigned 2 ++ leBytes 4 seq.toNat ++ signedBytes balance ++ unassigned 44
  | .cancel seq balance => unassigned 4 ++ leBytes 4 seq.toNat ++ signedBytes balance ++ unassigned 44
  | .quote none price blackout refusal =>
    unassigned 2 ++ leBytes 2 price ++ unassigned 2 ++ leBytes 1 (flagCode blackout) ++ leBytes 1 (outcomeCode refusal) ++ unassigned 48
  | .quote (some e) price blackout refusal =>
    leBytes 1 (standingCode e.standing) ++ leBytes 1 (kindFields e.kind).1 ++ leBytes 2 price ++ leBytes 2 e.remaining ++
      leBytes 1 (flagCode blackout) ++ leBytes 1 (outcomeCode refusal) ++ unassigned 48
  | .quotePass none price refusal => unassigned 2 ++ leBytes 2 price ++ unassigned 3 ++ leBytes 1 (outcomeCode refusal) ++ unassigned 48
  | .quotePass (some p) price refusal =>
    leBytes 1 (ownerFields p.owner).1 ++ leBytes 1 p.members.length ++ leBytes 2 price ++ leBytes 2 (ownerFields p.owner).2 ++ unassigned 1 ++
      leBytes 1 (outcomeCode refusal) ++ unassigned 48
  | .purse p count next clock running =>
    signedBytes p.balance ++ leBytes 4 p.spent ++ leBytes 4 p.cap ++ leBytes 2 p.overdraft.toNat ++ leBytes 1 count ++ leBytes 1 p.zone.toNat ++
      leBytes 4 next.toNat ++ leBytes 4 clock.toNat ++ leBytes 1 (flagCode running) ++ unassigned 31
  | .logRead returned next => leBytes 1 returned ++ unassigned 3 ++ leBytes 4 next.toNat ++ unassigned 48
  | .fixtureList returned next => leBytes 1 returned ++ leBytes 1 next ++ unassigned 54
  | .bad => unassigned 56

/-- Bytes 8 to 63 of a CONDITION (Table 13-15). -/
def condBytes : Option CondData → List Byte
  | none => unassigned 56
  | some (.sections x) => leBytes 1 (flagCode x.s0 + 2 * flagCode x.s1 + 4 * flagCode x.s2) ++ unassigned 55
  | some (.length n) => leBytes 1 n ++ unassigned 55
  | some (.tag t) => leBytes 2 t.toNat ++ unassigned 54
  | some (.reason r) =>
    leBytes 1 (1 + [CellReason.badChecksum, .badGrant, .badTag, .badSchedule, .queueFull, .keyTableFull, .restoring].idxOf r) ++ unassigned 55
  | some (.shield c region) =>
    leBytes 1 ([Cls.cpu, .transport, .video, .audio, .display, .periph, .spare, .internal].idxOf c) ++ leBytes 1 region ++ unassigned 54
  | some (.table ident t) => leBytes 2 ident.toNat ++ leBytes 1 (if t = .passTable then 1 else 0) ++ unassigned 53
  | some (.difference d) => signedBytes d ++ unassigned 52
  | some (.index v w) => leBytes 4 v.toNat ++ leBytes 1 (if w = .reportConsumer then 1 else 0) ++ unassigned 51

/-- The 64 bytes of a report, in their order (R179, R180, Tables 11-2 and 13-10 to 13-16). -/
def reportBytes : Report → List Byte
  | .placed p =>
    [1] ++ unassigned 3 ++ leBytes 4 p.unit.toNat ++ signedBytes p.balance ++ leBytes 1 p.logCount ++ leBytes 1 (flagCode p.running) ++ unassigned 50
  | .reply kind outcome slot orderNo body =>
    [2, kind] ++ leBytes 1 (outcomeCode outcome) ++ leBytes 1 slot ++ leBytes 4 orderNo.toNat ++ replyBytes body
  | .logEntry orderNo e =>
    [3] ++ leBytes 1 (logKindFields e.kind).1 ++ leBytes 1 (logKindFields e.kind).2 ++ unassigned 1 ++ leBytes 4 orderNo.toNat ++ leBytes 4 e.seq.toNat ++
      leBytes 2 e.ident.toNat ++ leBytes 2 e.amount.toNat ++ leBytes 4 e.clock.toNat ++ signedBytes e.balanceAfter ++ unassigned 40
  | .fixtureEntry orderNo index e =>
    [4] ++ leBytes 1 index ++ leBytes 1 (standingCode e.standing) ++ leBytes 1 (kindFields e.kind).1 ++ leBytes 4 orderNo.toNat ++
      leBytes 2 e.tag.toNat ++ leBytes 1 (kindFields e.kind).2.2 ++ leBytes 1 (flagCode e.viewed) ++ leBytes 2 (kindFields e.kind).2.1 ++
      leBytes 2 e.remaining ++
      (match e.standing with
       | .awaiting => unassigned 48
       | .scheduled sch _ =>
         [1] ++ unassigned 1 ++ leBytes 2 sch.service.toNat ++ leBytes 4 sch.kickOff.toNat ++ leBytes 4 sch.finish.toNat ++ unassigned 36)
  | .condition k count data =>
    [5] ++ leBytes 1 (1 + [CondKind.storeLost, .refundWaiting, .logNearlyFull, .entitlementChanged, .cellDrop, .badCell, .shieldHit, .tableFull,
      .clockJump, .indexBad].idxOf k) ++ leBytes 2 count ++ unassigned 4 ++ condBytes data

/-- The order of the derived phases (R66). -/
def phaseOrder : Phase → Nat
  | .listed => 0 | .onSale => 1 | .live => 2 | .ended => 3 | .retired => 4 | .cancelled => 5

/-- An entry at the derivation of phases from a clock value: forward only, and only without the cancelled flag (R66 to R68). -/
def derivedAt (c : Nat) (e e' : FixtureEntry) : Prop :=
  match e.standing with
  | .awaiting => e' = e
  | .scheduled sch ph =>
    if sch.cancelled then e' = e
    else ∃ d, table42 sch c d ∧
      e' = { e with standing := .scheduled sch (if phaseOrder ph < phaseOrder d then d else ph) }

/-- An own write of an index word: 16 bytes at the word, the word's four bytes enabled alone (R160, R164, R168). -/
def indexWordWrite (a : Addr) (v : Nat) : OwnReq :=
  .write a (bytes32 (BitVec.ofNat 32 v) ++ List.replicate 12 0) (List.replicate 4 true ++ List.replicate 12 false)

/-- The two own writes of one report record, in their order (R168). -/
def recordWrites (v : RingView) (r : Report) : List OwnReq :=
  [.write (v.base + BitVec.ofNat 32 (128 + 64 * v.prod)) r.encode (List.replicate r.encode.length true),
    indexWordWrite v.base ((v.prod + 1) % v.cap)]

/-- The report writer may write: it has this view, the ring has room for one record, and no PLACED report is pending (R168). -/
def mayWriteReport (s : State) (v : RingView) : Prop :=
  s.reports.view = some v ∧ 1 ≤ v.cap - 1 - (v.prod + v.cap - v.cons) % v.cap ∧ s.placement.pendingReport = false

/-- The state after one record is written and nothing else (R168). -/
def reportWritten (s : State) (v : RingView) (r : Report) : State :=
  { s with
    emitted := s.emitted ++ (recordWrites v r).map .own
    path := { s.path with own := s.path.own ++ recordWrites v r }
    reports := { s.reports with view := some { v with prod := (v.prod + 1) % v.cap } } }

/-- The state after an own request is presented and nothing else (R150). -/
def ownPresented (s : State) (r : OwnReq) : State :=
  { s with emitted := s.emitted ++ [.own r], path := { s.path with own := s.path.own ++ [r] } }

/-- An order of this kind has been fetched without error and the report ring has room for its largest reply (R165). -/
def orderReady (s : State) (k need slot : Nat) (a : Answer) : Prop :=
  s.orders.st = .fetching slot (some a) ∧ a.err = false ∧ (orderKind a.data).toNat = k ∧ need ≤ s.reportRoom

/-- The last three checks of a purchase (Tables 5-3, 5-4). -/
def fundsOutcome (s : State) (price : Nat) : OrderOutcome :=
  if 64 ≤ s.log.entries.length then .logFull
  else if s.purse.cap < s.purse.spent + price then .capReached
  else if s.purse.balance - (price : Int) < -(s.purse.overdraft.toNat : Int) then .noCredit
  else .accepted

/-- Table 5-3 from its third check on, for an entry with a schedule part; `differs` says that the stated price differs from the computed one (R92). -/
def table53 (s : State) (e : FixtureEntry) (sch : Schedule) (ph : Phase) (price : Nat) (differs : Bool) : OrderOutcome :=
  if ph = .listed then .notOnSale
  else if ph = .ended ∨ ph = .retired then .ended
  else if ph = .cancelled then .cancelled
  else if e.kind ≠ .none then .alreadyEntitled
  else if s.purse.zone ≠ 0 ∧ s.purse.zone ∈ sch.blackout then .blackedOut
  else if differs then .priceChanged
  else fundsOutcome s price

/-- Table 5-4 from its third check on, for a pass with a schedule part (R94). -/
def table54 (s : State) (p : PassEntry) (sale : PassSale) (price : Nat) (differs : Bool) : OrderOutcome :=
  if s.clock.value.toNat < sale.opens.toNat then .notOnSale
  else if sale.closes.toNat ≤ s.clock.value.toNat then .ended
  else if p.owner ≠ .none then .alreadyEntitled
  else if differs then .priceChanged
  else fundsOutcome s price

/-- The price of a pass: its base price less what its distinct nonzero members cost as IMPULSE entries, at least 0 (R91). -/
def passCost (s : State) (p : PassEntry) (sale : PassSale) : Nat :=
  sale.base.toNat - (((p.members.filter (fun x => x != 0)).eraseDups).map (fun x => (paidFor s x).toNat)).sum

/-- The state after the order unit has taken its order, with these records to write, and nothing else (R165). -/
def replied (s : State) (records : List Report) : State := { s with orders := { s.orders with st := .replying records } }

end Sys2Proof.Safety
end

