-- ==== Sys2Proof/Certificates/Slice0/Obligations.lean ====
section
/-! DEFINITION. The statements for the provers. -/

open Sys2Proof Sys2Proof.Machine Sys2Proof.Safety

/-! ### The queue of commands and the clock -/

/-- A step at a state with a command in front is that command's meaning on the state with the queue's rest. -/
def Obligations.StepRunsFrontCommand : Prop :=
  ∀ (c : Instr) (rest : List Instr) (s : State),
    step { s with pending := c :: rest } = exec c { s with pending := rest }

/-- R135 with the model's choice of log 2: an empty queue is one reference clock cycle. While the clock is RUNNING the sub-second count rises by 1, and the rise
that would take it to 24,576,000 is a second event; while it is UNSET the clock stands. In the same cycle a page write under way may reach its stop and the unit
may put the bus address on the bus, the first time or again (R172; when it does is a free value, log 37); nothing else changes. -/
def Obligations.EmptyQueueIsOneClockCycle : Prop :=
  ∀ s : State, s.pending = [] → ∃ u, busCycled s u ∧
    (s.clock.running = false → step s = .next u) ∧
    (s.clock.running = true → s.clock.sub + 1 < 24576000 →
      step s = .next { u with clock := { s.clock with sub := s.clock.sub + 1 } }) ∧
    (s.clock.running = true → 24576000 ≤ s.clock.sub + 1 → step s = exec .secondEvent u)

/-- Every command completes, since one whose event cannot occur changes nothing (the model's choice, log 3); none changes the queue (the model's own, log 1) or
the fuses, and the record of what the part has put on its pins (the model's own, log 6) is never taken back. -/
def Obligations.EveryCommandCompletesAndLeavesQueue : Prop :=
  ∀ (c : Instr) (s : State), ∃ t es, exec c s = .next t ∧ t.pending = s.pending ∧ t.unit = s.unit ∧ t.emitted = s.emitted ++ es

/-! ### Invariants kept by every step -/

/-- R86, R88, R105, R107: the purse law, the credit ranges, the log's capacity and its numbering are kept by every step. -/
def Obligations.PurseLawAndNumberingAreKept : Prop :=
  ∀ s t : State, CreditSound s → LogNumbered s → step s = .next t → CreditSound t ∧ LogNumbered t

/-- Table 0-4, R2: the capacities, the 16 blackout zones of a fixture among them, are kept by every step, with one record for each slot. -/
def Obligations.CapacitiesAreKept : Prop :=
  ∀ s t : State, Capacity s → FrontWf s → step s = .next t → Capacity t

/-- R29, R64, R80: the soundness of the key bank table, and distinct, nonzero keys of the fixture and pass tables, are kept by every step. -/
def Obligations.TableKeysStayDistinct : Prop :=
  ∀ s t : State, KeyBankSound s → TablesKeyed s → FrontWf s → step s = .next t → KeyBankSound t ∧ TablesKeyed t

/-- R75, R120: the refund queue's soundness is kept by every step, the step that ends the restore included. -/
def Obligations.RefundQueueStaysSound : Prop :=
  ∀ s t : State, RefundQueueSound s → FrontWf s → step s = .next t → RefundQueueSound t

/-- R57, R64, R66, R78: the agreement of a fixture entry's parts is kept by every step. -/
def Obligations.FixturePartsStayInAgreement : Prop :=
  ∀ s t : State, TablesKeyed s → RefundQueueSound s → FixturesSound s → FrontWf s → step s = .next t → FixturesSound t

/-- R2, R146, R154, R155, R158, R162, R168: map, slot table, views and pending report stand with the placement state after every step, and no arming run stands
while READING. -/
def Obligations.PlacementStaysSound : Prop :=
  ∀ s t : State, PlacementSound s → step s = .next t → PlacementSound t

/-- R18 to R22: after every step each held part waits on a slot that is HELD. -/
def Obligations.HeldPartsKeepHeldSlots : Prop :=
  ∀ s t : State, PlacementSound s → HoldsSound s → step s = .next t → HoldsSound t

/-- R144, R145: after every step no ready answer is the oldest of its class; and the serial numbers of the requests in flight (the model's own, log 7) stay
distinct and below the next. -/
def Obligations.ReadyAnswersAreReturned : Prop :=
  (∀ s t : State, NoReadyOldest s → step s = .next t → NoReadyOldest t) ∧
    ∀ s t : State, RequestsNumbered s → step s = .next t → RequestsNumbered t

/-- The state after power-on reset meets every invariant stated. -/
def Obligations.ResetMeetsEveryCondition : Prop :=
  CreditSound State.reset ∧ LogNumbered State.reset ∧ Capacity State.reset ∧ KeyBankSound State.reset ∧ TablesKeyed State.reset ∧
    RefundQueueSound State.reset ∧ FixturesSound State.reset ∧ PlacementSound State.reset ∧ HoldsSound State.reset ∧
    NoReadyOldest State.reset ∧ RequestsNumbered State.reset

/-! ### Resets -/

/-- The reset rules of each chapter: what power-on reset leaves, and that ALERT is deasserted. The record of the pins, the serial counters, the queue and the
fuses are the model's own or fixed. That S0 is read as one transaction is the model's choice (log 36). -/
def Obligations.PowerOnResetLeaves : Prop :=
  ∀ s : State, ∃ t, exec .powerOnReset s = .next t ∧
    t.clock = { running := false, value := 0, sub := 0 } ∧
    t.path.regions = [] ∧ t.path.inflight = [] ∧ t.path.own = [] ∧ t.slots = [] ∧ t.keys = List.replicate 16 none ∧
    t.engine = { queue := [], headKey := none } ∧ t.fixtures = List.replicate 32 none ∧ t.refunds = [] ∧ t.passes = List.replicate 4 none ∧
    t.purse = { balance := 0, reference := 0, spent := 0, cap := 0, overdraft := 0, zone := 0, memberships := List.replicate 4 ⟨0, 0⟩, lastSeq := 0 } ∧
    t.log = { entries := [], next := 1 } ∧
    t.placement = { st := .unplaced, run := none, attempts := 0, pendingReport := false } ∧
    t.orders = { st := .idle, view := none } ∧ t.reports = { view := none, placed := none } ∧
    (∀ k, t.conds.get k = { booked := false, count := 0, data := none }) ∧
    t.store.st = .restoring none none ∧ t.store.dirty = ⟨false, false, false⟩ ∧ t.store.awaitingStop = false ∧
    t.emitted = s.emitted ++ [.bus (.read 0b1010010 0x0000 128)] ∧ t.alert = false

/-- The link reset rules of each chapter, R172 and R177 for the retention unit, which stands as it is: what goes, what stands, and ALERT (R170), which is
asserted afterwards exactly when STORE_LOST is still booked. -/
def Obligations.LinkResetLeaves : Prop :=
  ∀ s : State, ∃ t, exec .linkReset s = .next t ∧
    changesOnly [.path, .slots, .keys, .engine, .fixtures, .placement, .orders, .reports, .conds] s t ∧
    t.path = { s.path with regions := [], inflight := [], own := [] } ∧ t.slots = [] ∧ t.keys = List.replicate 16 none ∧
    t.engine = { queue := [], headKey := none } ∧ t.fixtures = s.fixtures.map (Option.map (fun e => { e with delivered := false })) ∧
    t.placement = { st := .unplaced, run := none, attempts := s.placement.attempts, pendingReport := false } ∧
    t.orders = { st := .idle, view := none } ∧ t.reports = { view := none, placed := none } ∧
    t.conds.storeLost = s.conds.storeLost ∧
    (∀ k, k ≠ .storeLost → t.conds.get k = { booked := false, count := 0, data := none }) ∧
    t.alert = s.conds.storeLost.booked

/-! ### Requests (chapter 9, chapter 1) -/

/-- R8, R142 to R144, R155: a request carrying class 7 is handled as class 6, any other under its own class; byte i of a request lies at address + i modulo
2^32; and a read has a gated byte where one of its bytes is payload of a ring that its class is a clear reader of. A request of a class whose list holds 32 is
not taken, whichever command carries it (the model's reading, log 5). A read with no gated byte, whichever command carries it (the model's reading, log 5), is
forwarded whole under its handled class and joins its class list; a read handled as CPU breaks the arming run unless the unit is READING. -/
def Obligations.RequestsWaitOrAreForwardedWhole : Prop :=
  (handled .internal = .spare ∧ ∀ c, c ≠ .internal → handled c = c) ∧ (∀ a i, addrAt a i = (a.toNat + i) % 4294967296) ∧
  (∀ (s : State) (c : Cls) (a : Addr) (len : Nat),
    gatedBytes s.path.regions c a len = [] ↔ ∀ i k n off, i < len → ¬ gatedAt s c a i k n off) ∧
  ∀ (s : State) (r : ReadReq) (w : WriteReq) (q : Request) (cmd : Instr),
    (32 ≤ (s.classList (handled r.cls)).length → exec (.upstreamRead r) s = .next s ∧ exec (.gatedRead r) s = .next s) ∧
    (32 ≤ (s.classList (handled w.cls)).length →
      exec (.upstreamWrite w) s = .next s ∧ exec (.wholeCellWrite w) s = .next s ∧ exec (.cellBreak w) s = .next s ∧
      exec (.orderProducerWrite w) s = .next s ∧ exec (.reportConsumerWrite w) s = .next s) ∧
    (32 ≤ (s.classList (handled (requestClass q))).length → exec (.armingWrite q) s = .next s) ∧
    (carriesRead r cmd → roomFor (handled r.cls) s → NoReadyOldest s → gatedBytes s.path.regions (handled r.cls) r.addr r.len = [] →
      ∃ t, exec cmd s = .next t ∧
        t = { s with
          emitted := s.emitted ++ [.forward s.path.nextId (handled r.cls) (.read { r with cls := handled r.cls })]
          path := { s.path with
            inflight := s.path.inflight ++
              [{ id := s.path.nextId, cls := handled r.cls, req := .read { r with cls := handled r.cls }, parts := [], answer := none }]
            nextId := s.path.nextId + 1 }
          placement := t.placement } ∧
        (handled r.cls ≠ .cpu ∨ reading s → t.placement = s.placement) ∧
        (handled r.cls = .cpu ∧ ¬ reading s → t.placement = { s.placement with run := none }))

/-- R8, R9, R11, R16, R23, Table 1-9: slate reads go to the slate region. A gated read is forwarded whole, whichever command carries it (the model's reading,
log 5). Each part is served by its slot's state at arrival, and the slate reads of parts settled as slate are presented together with it, in some order (a free
value, log 8). The parts cover exactly the bytes the read gates, each at its slot and offset, with one part for each slot. -/
def Obligations.GatedReadIsServedBySlotState : Prop :=
  (∀ (s : State) (g : Region), s.path.regions.find? (fun r => r.kind == .slate) = some g → s.slateBase = g.base) ∧
  ∀ (s : State) (r : ReadReq) (cmd : Instr), carriesRead r cmd → roomFor (handled r.cls) s → NoReadyOldest s →
    ∃ t e issued, exec cmd s = .next t ∧ changesOnly [.path, .emitted, .placement] s t ∧
      t.path.regions = s.path.regions ∧ t.path.nextId = s.path.nextId + 1 ∧ t.path.inflight = s.path.inflight ++ [e] ∧
      e.id = s.path.nextId ∧ e.cls = handled r.cls ∧
      e.req = .read { r with cls := handled r.cls } ∧ e.answer = none ∧
      (∀ p ∈ e.parts, table19 (s.slotAt p.region p.slot) p.serving ∧ 16 ≤ p.offset ∧
        ∃ g, s.path.regions[p.region]? = some g ∧ g.kind = .cellRing ∧ inSet g.readers (handled r.cls) = true) ∧
      presentedAs issued s t ∧
      issued.Perm (.forward s.path.nextId (handled r.cls) e.req :: s.slateReads s.path.nextId e.parts) ∧
      (∀ p ∈ e.parts, ∀ k, p.serving = .slate k none → slateReadFor s s.path.nextId p k.val ∈ issued) ∧
      (∀ i k n off, i < r.len → gatedAt s (handled r.cls) r.addr i k n off → ∃ p ∈ e.parts, p.region = k ∧ p.slot = n) ∧
      (r.wf = true → mapSound s.path.regions →
        (∀ i k n off, i < r.len → gatedAt s (handled r.cls) r.addr i k n off →
          ∃ p ∈ e.parts, p.region = k ∧ p.slot = n ∧ p.start ≤ i ∧ i < p.start + p.len ∧ p.offset + (i - p.start) = off) ∧
        (∀ p ∈ e.parts, ∀ i, p.start ≤ i → i < p.start + p.len →
          i < r.len ∧ gatedAt s (handled r.cls) r.addr i p.region p.slot (p.offset + (i - p.start))) ∧
        e.parts.Pairwise (fun p q => ¬ (p.region = q.region ∧ p.slot = q.slot)))

/-- R144, R146, R147, Table 9-1, Table 0-2: a set of classes holds class c when its bit c is 1. An enable survives masking exactly when it was on and the table
keeps the byte for the class. A write, whichever command carries it (the model's reading, log 5), is presented exactly once, with its masked enables, unless
none is left; then nothing is presented and, when no request of its class is in flight, it is acknowledged without the error flag at once. That a position whose
enable is off still carries its data as it arrived is the model's choice (log 35). -/
def Obligations.WriteIsPresentedMasked : Prop :=
  (∀ set c, inSet set c = true ↔
    set.toNat / 2 ^ [Cls.cpu, .transport, .video, .audio, .display, .periph, .spare, .internal].idxOf c % 2 = 1) ∧
  (∀ (s : State) (c : Cls) (w : WriteReq) (i : Nat),
    (keptEnables s.path.regions c w)[i]? = some true ↔ w.enables[i]? = some true ∧ kept91 s c w.addr i) ∧
  ∀ (s : State) (w : WriteReq) (cmd : Instr), carriesWrite w cmd → roomFor (handled w.cls) s →
    ∃ t issued, exec cmd s = .next t ∧ presentedAs issued s t ∧ mapKept s t ∧ t.path.nextId = s.path.nextId + 1 ∧
      changesOnly [.path, .emitted, .slots, .engine, .keys, .orders, .reports, .placement, .conds] s t ∧
      (∀ id c q, .forward id c q ∈ issued ↔
        (keptEnables s.path.regions (handled w.cls) w).contains true = true ∧ id = s.path.nextId ∧ c = handled w.cls ∧
          q = .write { w with cls := handled w.cls, enables := keptEnables s.path.regions (handled w.cls) w }) ∧
      ((keptEnables s.path.regions (handled w.cls) w).contains true = false → s.classList (handled w.cls) = [] →
        .answer s.path.nextId (handled w.cls) { data := [], err := false } ∈ issued) ∧
      issued.countP isForward = (if (keptEnables s.path.regions (handled w.cls) w).contains true then 1 else 0)

/-- R147, R149, R169: a byte is lost when its enable was on at arrival and the region rule does not keep it. A booking changes one condition alone: its mark is
set, its count rises by 1 up to 65,535, and its data is replaced, save that sections are added to the sections held. A write that loses bytes, whichever command
carries it (the model's reading, log 5), books SHIELD_HIT once, with its handled class and the region of the lowest-addressed byte lost; a write that loses none
leaves it. For a write that runs past the top of the address space the lowest address is taken by number after wrapping (the model's reading, log 18). -/
def Obligations.ShieldHitIsBookedOnce : Prop :=
  (∀ (s : State) (c : Cls) (w : WriteReq) (a : Nat),
    a ∈ lostAddrs s.path.regions c w ↔ ∃ i, w.enables[i]? = some true ∧ ¬ kept91 s c w.addr i ∧ a = addrAt w.addr i) ∧
  (∀ (s : State) (k : CondKind) (d : CondData), changesOnly [.conds] s (s.book k d) ∧ condsOnly [k] s (s.book k d) ∧
    bookedWith d (s.conds.get k) ((s.book k d).conds.get k)) ∧
  (∀ (c : Cond) (d : CondData), bookedWith d c (c.book d)) ∧
  ∀ (s : State) (w : WriteReq) (cmd : Instr), carriesWrite w cmd → roomFor (handled w.cls) s →
    ∃ t, exec cmd s = .next t ∧
      (lostAddrs s.path.regions (handled w.cls) w = [] → t.conds.shieldHit = s.conds.shieldHit) ∧
      (∀ a r g, a ∈ lostAddrs s.path.regions (handled w.cls) w →
        (∀ b ∈ lostAddrs s.path.regions (handled w.cls) w, a ≤ b) → locate s.path.regions a = some (r, g) →
        t.conds.shieldHit = s.conds.shieldHit.book (.shield (handled w.cls) r))

/-- R1, R2, R4 to R6, Table 1-6, Table 13-1: after a write that is taken, whichever command carries it (the model's reading, log 5), a slot covered whole holds
the new cell, any other touched slot is BROKEN, and every other slot stands. What a new cell gives its slot by its kind byte, and the header fields captured;
which slots a write touches: those in which an enabled byte that is not masked lies; and, on a sound map, in which region a byte lies, and that a write covers a
slot when its class is a writer, its address is the slot's first byte and it has 128 enables, all on. -/
def Obligations.WritesStartOrBreakCells : Prop :=
  (∀ cell : List Byte, table131 cell (parseHeader cell) ∧
    (byteAt cell 0 = 1 → startCell cell = .program (parseHeader cell) .undecided) ∧
    (2 ≤ (byteAt cell 0).toNat → (byteAt cell 0).toNat ≤ 6 → startCell cell = .control) ∧
    (byteAt cell 0 = 0 ∨ 7 ≤ (byteAt cell 0).toNat → startCell cell = .opaqueCell)) ∧
  (∀ (s : State) (r n : Nat) (st : SlotState), slotsDistinct s → (s.slotAt r n = some st ↔ ⟨r, n, st⟩ ∈ s.slots)) ∧
  (∀ (rs : List Region) (c : Cls) (w : WriteReq) (r n : Nat),
    ((r, n) ∈ touchedSlots rs w.addr (keptEnables rs c w) ↔ ∃ i, touchesAt rs c w i r n) ∧
    (mapSound rs →
      (wholeCellSlot rs w.addr (keptEnables rs c w) = some (r, n) ↔ coversSlot rs c w r n) ∧
      ∀ a g, locate rs a = some (r, g) ↔ rs[r]? = some g ∧ g.base.toNat ≤ a ∧ a < g.base.toNat + g.size)) ∧
  ∀ (s : State) (w : WriteReq) (cmd : Instr), carriesWrite w cmd → roomFor (handled w.cls) s →
    ∃ t, exec cmd s = .next t ∧ mapKept s t ∧
      ∀ r n, t.slotAt r n =
        if wholeCellSlot s.path.regions w.addr (keptEnables s.path.regions (handled w.cls) w) = some (r, n) then
          (s.slotAt r n).map (fun _ => startCell w.data)
        else if (r, n) ∈ touchedSlots s.path.regions w.addr (keptEnables s.path.regions (handled w.cls) w) then
          (s.slotAt r n).map (fun _ => .broken)
        else s.slotAt r n

/-- R6, R7, R17, R119, R144, R145, Table 1-6: what a write does to the reads it meets, and to the message engine, whichever command carries it (the model's
reading, log 5). The waiting parts of the slots it touches become stale, their held parts are settled as NO_CELL with their slate reads issued, and every
request stays in flight with all else as it was. The write joins the tail of its class list: unanswered while it has an enable left; with none left answered, so
that it leaves at once where no request of its class is in flight and waits there otherwise. No other answer is returned in the step. A whole-cell write hands
its cell over, and the engine, the key bank table and the conditions are as the hand-over leaves them: a bad checksum books BAD_CHECKSUM for every control kind,
a TIME, FIXTURE or PASS cell joins the tail or is dropped for a full queue, and a cell that is no control cell changes nothing. The kind of a cell is read from
its kind byte. A write that is no whole-cell write leaves the message queue, the key bank table and every condition but SHIELD_HIT and INDEX_BAD as they stand. -/
def Obligations.WritesReachReadersAndMessageEngine : Prop :=
  (∀ (s : State) (w : WriteReq) (cmd : Instr), carriesWrite w cmd →
    roomFor (handled w.cls) s → NoReadyOldest s →
    ∃ t issued later, exec cmd s = .next t ∧ t.emitted = s.emitted ++ issued ∧
      t.path.inflight = s.path.inflight.map (fun e =>
        { e with parts := e.parts.map (madeStale (touchedSlots s.path.regions w.addr (keptEnables s.path.regions (handled w.cls) w))) }) ++ later ∧
      ((keptEnables s.path.regions (handled w.cls) w).contains true = true → later = [
        { id := s.path.nextId, cls := handled w.cls, req := .write { w with cls := handled w.cls, enables := keptEnables s.path.regions (handled w.cls) w }
          parts := [], answer := none }]) ∧
      ((keptEnables s.path.regions (handled w.cls) w).contains true = false → s.classList (handled w.cls) = [] → later = []) ∧
      ((keptEnables s.path.regions (handled w.cls) w).contains true = false → s.classList (handled w.cls) ≠ [] → later = [
        { id := s.path.nextId, cls := handled w.cls, req := .write { w with cls := handled w.cls, enables := keptEnables s.path.regions (handled w.cls) w }
          parts := [], answer := some { data := [], err := false } }]) ∧
      issued.filter isAnswer =
        (if (keptEnables s.path.regions (handled w.cls) w).contains true = false ∧ s.classList (handled w.cls) = [] then
          [.answer s.path.nextId (handled w.cls) { data := [], err := false }]
        else []) ∧
      (issued.filter isSlateRead).Perm (s.path.inflight.flatMap (fun e => (e.parts.filter (fun p => p.serving == .held &&
        (touchedSlots s.path.regions w.addr (keptEnables s.path.regions (handled w.cls) w)).contains (p.region, p.slot))).map
          (fun p => slateReadFor s e.id p 0))) ∧
      (∀ e ∈ s.path.inflight, ∀ p ∈ e.parts, p.serving = .held →
        (p.region, p.slot) ∈ touchedSlots s.path.regions w.addr (keptEnables s.path.regions (handled w.cls) w) →
        slateReadFor s e.id p 0 ∈ issued) ∧
      (∀ a len id r n, .own (.slateRead a len id r n) ∈ issued →
        (r, n) ∈ touchedSlots s.path.regions w.addr (keptEnables s.path.regions (handled w.cls) w) ∧
          ∃ e ∈ s.path.inflight, e.id = id ∧ ∃ p ∈ e.parts, p.serving = .held ∧ p.region = r ∧ p.slot = n)) ∧
  (∀ (s : State) (w : WriteReq) (cmd : Instr) (r n : Nat), carriesWrite w cmd →
    roomFor (handled w.cls) s → PlacementSound s →
    wholeCellSlot s.path.regions w.addr (keptEnables s.path.regions (handled w.cls) w) = some (r, n) →
    ∃ t, exec cmd s = .next t ∧ t.engine = (s.handOver w.data).engine ∧ t.keys = (s.handOver w.data).keys ∧
      t.conds = (s.handOver w.data).conds) ∧
  (∀ (s : State) (w : WriteReq) (cmd : Instr), carriesWrite w cmd →
    roomFor (handled w.cls) s → wholeCellSlot s.path.regions w.addr (keptEnables s.path.regions (handled w.cls) w) = none →
    ∃ t, exec cmd s = .next t ∧ t.engine = s.engine ∧ t.keys = s.keys ∧ condsOnly [.shieldHit, .indexBad] s t) ∧
  (∀ kind, table16 kind (classify kind)) ∧
  (∀ (s : State) (cell : List Byte), (∀ k, classify (byteAt cell 0) ≠ .control k) → s.handOver cell = s) ∧
  (∀ (s : State) (cell : List Byte) (k : CtrlKind), classify (byteAt cell 0) = .control k →
    (sumBytes ((cell.drop 16).take 112) ≠ 0 → s.handOver cell = s.book .badCell (.reason .badChecksum)) ∧
    (sumBytes ((cell.drop 16).take 112) = 0 → k = .time ∨ k = .fixture ∨ k = .pass →
      (16 ≤ s.engine.queue.length → s.handOver cell = s.book .cellDrop (.reason .queueFull)) ∧
      (s.engine.queue.length < 16 → s.handOver cell =
        { s with engine :=
          { queue := s.engine.queue ++ [⟨k, cell⟩]
            headKey := if s.engine.queue = [] then none else s.engine.headKey } })))

/-- R32, R119 to R122, R178, Tables 13-5, 13-6: where a grant's fields lie in its payload; the checksum, the sum of the bytes modulo 256; the membership that a
group number finds, none for 0, otherwise the lowest-numbered; and when the restore runs. A GRANT cell at its write. It is set aside for a bad checksum, dropped
during the restore, set aside when not addressed to this decoder or rejected by Table 7-1, dropped for a full queue, and otherwise queued at the tail. -/
def Obligations.GrantCellIsCheckedAtWrite : Prop :=
  (∀ cell, payloadFields cell ∧ table135 cell) ∧ (∀ bs : List Byte, (sumBytes bs).toNat = (bs.map (·.toNat)).sum % 256) ∧
  (∀ (s : State) (g : Group), membershipOf s g (s.membership g)) ∧
  (∀ s : State, s.restoring = true ↔ ∃ j0 j1, s.store.st = .restoring j0 j1) ∧
  ∀ (s : State) (cell : List Byte), classify (byteAt cell 0) = .control .grant →
    s.handOver cell =
      (if sumBytes ((cell.drop 16).take 112) ≠ 0 then s.book .badCell (.reason .badChecksum)
      else if s.restoring = true then s.book .cellDrop (.reason .restoring)
      else if ¬ ((grantTarget cell = 0 ∧ grantUnit cell = s.unit.number ∧ grantUnit cell ≠ 0) ∨
          (grantTarget cell = 1 ∧ s.membership (grantGroup cell) ≠ none ∧ (grantKind cell = 5 ∨ grantKind cell = 6))) then s
      else if grantKind cell = 0 ∨ 8 < (grantKind cell).toNat ∨ (grantKind cell = 1 ∧ 3 < (grantOp cell).toNat) ∨
          ((grantKind cell = 5 ∨ grantKind cell = 6) ∧
            (1 < (grantOp cell).toNat ∨ (grantOp cell = 1 ∧ 255 < (grantIdent cell).toNat))) then s.book .badCell (.reason .badGrant)
      else if 16 ≤ s.engine.queue.length then s.book .cellDrop (.reason .queueFull)
      else { s with engine :=
        { queue := s.engine.queue ++ [⟨.grant, cell⟩]
          headKey := if s.engine.queue = [] then none else s.engine.headKey } })

/-- R32 to R36, R123: a KEY cell with a good checksum at its write. For target group 0, or a group that no membership holds, it is ignored and nothing changes.
For a group this decoder holds and a service with an entry, a VALID slot of its period makes it a duplicate; otherwise a full queue drops it, and with room its
slot becomes PENDING with its period, the other parity stands, and the cell joins the tail; in an empty queue it is at the head at once and its membership's
group key is looked up. -/
def Obligations.KeyCellMarksItsSlot : Prop :=
  (∀ (e : KeyEntry) (odd : Bool) (k : KeySlot), e.slot odd = (if odd then e.odd else e.even) ∧
    e.setSlot odd k = (if odd then { e with odd := k } else { e with even := k })) ∧
  (∀ cell, (keyGroup cell).toNat = leAt cell 16 2) ∧
  (∀ (s : State) (cell : List Byte), classify (byteAt cell 0) = .control .key → sumBytes ((cell.drop 16).take 112) = 0 →
    leAt cell 16 2 = 0 ∨ (∀ m ∈ s.purse.memberships, m.group.toNat ≠ leAt cell 16 2) → s.handOver cell = s) ∧
  ∀ (s : State) (cell : List Byte) (m : Membership) (e : KeyEntry),
    classify (byteAt cell 0) = .control .key → sumBytes ((cell.drop 16).take 112) = 0 →
    s.membership (keyGroup cell) = some m → s.keyEntry (parseHeader cell).service = some e →
    ((∃ w, e.slot (parseHeader cell).parity = .valid (parseHeader cell).period w) → s.handOver cell = s) ∧
    ((∀ w, e.slot (parseHeader cell).parity ≠ .valid (parseHeader cell).period w) → 16 ≤ s.engine.queue.length →
      s.handOver cell = s.book .cellDrop (.reason .queueFull)) ∧
    ((∀ w, e.slot (parseHeader cell).parity ≠ .valid (parseHeader cell).period w) → s.engine.queue.length < 16 →
      changesOnly [.keys, .engine] s (s.handOver cell) ∧
      (s.handOver cell).engine =
        { queue := s.engine.queue ++ [⟨.key, cell⟩]
          headKey := if s.engine.queue = [] then some m.key else s.engine.headKey } ∧
      (s.handOver cell).keyEntry (parseHeader cell).service =
        some (e.setSlot (parseHeader cell).parity (.pending (parseHeader cell).period)) ∧
      ∀ svc, svc ≠ (parseHeader cell).service → (s.handOver cell).keyEntry svc = s.keyEntry svc)

/-- R33 to R36, R123: a KEY cell for a group this decoder holds and a service with no entry. It takes the lowest-indexed free entry, or the least recently used
entry without a PENDING slot; it is dropped for want of an entry or of room in the queue, and then nothing is evicted. In an empty queue it is at the head at
once and its membership's group key is looked up. -/
def Obligations.KeyCellTakesAnEntry : Prop :=
  ∀ (s : State) (cell : List Byte) (m : Membership),
    classify (byteAt cell 0) = .control .key → sumBytes ((cell.drop 16).take 112) = 0 →
    s.membership (keyGroup cell) = some m → s.keyEntry (parseHeader cell).service = none →
    ((∀ o ∈ s.keys, ∃ e, o = some e ∧ keyEvictable e = false) →
      s.handOver cell = s.book .cellDrop (.reason .keyTableFull)) ∧
    (∀ i, keyPlace s i →
      (16 ≤ s.engine.queue.length → s.handOver cell = s.book .cellDrop (.reason .queueFull)) ∧
      (s.engine.queue.length < 16 →
        changesOnly [.keys, .engine] s (s.handOver cell) ∧
        (s.handOver cell).engine =
          { queue := s.engine.queue ++ [⟨.key, cell⟩]
            headKey := if s.engine.queue = [] then some m.key else s.engine.headKey } ∧
        (s.handOver cell).keys = s.keys.set i (some
          { service := (parseHeader cell).service
            even := if (parseHeader cell).parity then .empty else .pending (parseHeader cell).period
            odd := if (parseHeader cell).parity then .pending (parseHeader cell).period else .empty
            lastUse := s.now })))

/-! ### Answers of memory, holds and verdicts (chapters 1 to 3) -/

/-- R145, R152: memory's answer to a request without gated parts is returned with its flag when the request is the oldest of its class, and is otherwise kept
with it; the request takes its answer, and what is ready then leaves (R145). -/
def Obligations.ForwardedAnswerIsReturnedInOrder : Prop :=
  ∀ (s : State) (id : Nat) (a : Answer) (e : Inflight),
    (s.path.inflight.map (·.id)).Nodup → e ∈ s.path.inflight → e.id = id → e.answer = none → e.parts = [] →
    exec (.forwardedAnswer id a) s = .next (State.drain { s with path := { s.path with
      inflight := s.path.inflight.map (fun x => if x.id = id then { x with answer := some a } else x) } }) ∧
    ∃ t issued, exec (.forwardedAnswer id a) s = .next t ∧ changesOnly [.path, .emitted] s t ∧ mapKept s t ∧ t.path.own = s.path.own ∧
      t.emitted = s.emitted ++ issued ∧
      ((s.classList e.cls).head? = some e → .answer id e.cls a ∈ issued ∧ ∀ e' ∈ t.path.inflight, e'.id ≠ id) ∧
      (NoReadyOldest s → (s.classList e.cls).head? ≠ some e → issued = [] ∧ { e with answer := some a } ∈ t.path.inflight)

/-- R145: a request's answer is ready when memory has answered it and each of its parts is settled and served: none waits, none is held, and each slate read has
been answered. The answers that become ready leave each class list from its oldest end, and stop at the first that is not ready; nothing else changes and
nothing but answers is put out. -/
def Obligations.AnswersLeaveInArrivalOrder : Prop :=
  (∀ e : Inflight, e.ready = true ↔ e.answer ≠ none ∧
    ∀ p ∈ e.parts, (∀ stale, p.serving ≠ .waiting stale) ∧ p.serving ≠ .held ∧ ∀ k, p.serving ≠ .slate k none) ∧
  (∀ (s : State) (c : Cls), s.classList c = s.path.inflight.filter (fun e => e.cls = c)) ∧
  (∀ s : State, changesOnly [.path, .emitted] s s.drain ∧ s.drain.path = { s.path with inflight := s.drain.path.inflight } ∧
    s.drain.path.inflight.Sublist s.path.inflight ∧ ∃ gone, s.drain.emitted = s.emitted ++ gone ∧ ∀ x ∈ gone, isAnswer x = true) ∧
  ∀ (s : State) (c : Cls), ∃ done : List Inflight,
    s.classList c = done ++ s.drain.classList c ∧ (∀ e ∈ done, e.ready = true) ∧
      (∀ e, (s.drain.classList c).head? = some e → e.ready = false) ∧
      (s.drain.emitted.drop s.emitted.length).filter (fun x => match x with | .answer _ c' _ => c' == c | _ => false) =
        done.map (fun e => .answer e.id c e.final)

/-- R10 to R12, R152: what a read is answered with. A byte outside the gated parts is raw; a byte of a CLEAR part is its stored byte XOR its byte of the
keystream; a byte of a slate part is the slate read's byte, or 0 when that read failed. The flag is memory's or a failed slate read's. -/
def Obligations.ServedBytesFollowTheirParts : Prop :=
  ∀ (e : Inflight) (a : Answer) (i : Nat) (b : Byte), e.answer = some a → a.data[i]? = some b →
    e.final.data.length = a.data.length ∧
    (e.final.err = true ↔ a.err = true ∨ ∃ p ∈ e.parts, ∃ r sl, p.serving = .slate r (some sl) ∧ sl.err = true) ∧
    ((∀ p ∈ e.parts, ¬ (p.start ≤ i ∧ i < p.start + p.len)) → e.final.data[i]? = some b) ∧
    (∀ p, e.parts.find? (fun p => p.start ≤ i && i < p.start + p.len) = some p →
      (p.serving = .raw → e.final.data[i]? = some b) ∧
      (∀ w seed, p.serving = .clear w seed →
        e.final.data[i]? = some (b ^^^
          (keystream w seed ((p.offset - 16 + (i - p.start)) / 4)).extractLsb' (8 * ((p.offset - 16 + (i - p.start)) % 4)) 8)) ∧
      (∀ r sl, p.serving = .slate r (some sl) → sl.err = true → e.final.data[i]? = some 0) ∧
      (∀ r sl, p.serving = .slate r (some sl) → sl.err = false → e.final.data[i]? = some (byteAt sl.data (i - p.start))))

/-- R10, R13, R17, R23, R45: memory's answers to gated reads. The first clean answer for a part that waits on an UNDECIDED slot runs the verdict chain once and
latches its outcome with the captured header; no other slot is touched. The parts of one read are judged in address order, each by the state that the one before
it left: that order is the model's choice (log 27). An answer with the error flag latches no verdict, drops the parts, and neither does a clean answer for stale
parts, which become NO_CELL. -/
def Obligations.FirstCleanAnswerLatchesVerdict : Prop :=
  ∀ (s : State) (id : Nat) (a : Answer) (e : Inflight), s.path.inflight.find? (fun x => x.id == id) = some e → e.answer = none →
    (∀ p h, a.err = false → e.parts = [p] → p.serving = .waiting false → s.slotAt p.region p.slot = some (.program h .undecided) →
      ∃ t, exec (.gatedReadAnswer id a) s = .next t ∧ changesOnly [.path, .emitted, .slots, .keys, .fixtures, .store] s t ∧ mapKept s t ∧
        t.slotAt p.region p.slot = some (.program h (s.runChain h).1) ∧
        (∀ r n, ¬ (r = p.region ∧ n = p.slot) → t.slotAt r n = s.slotAt r n) ∧
        t.keys = (s.runChain h).2.keys ∧ t.fixtures = (s.runChain h).2.fixtures ∧ t.store = (s.runChain h).2.store) ∧
    (a.err = false → ∃ (v : Nat → State) (t : State), exec (.gatedReadAnswer id a) s = .next t ∧ v 0 = s ∧
      changesOnly [.path, .emitted] (v e.parts.length) t ∧
      ∀ (i : Nat) (p : Part), e.parts[i]? = some p →
        (∀ h, p.serving = .waiting false → (v i).slotAt p.region p.slot = some (.program h .undecided) →
          v (i + 1) = ((v i).runChain h).2.latch p.region p.slot ((v i).runChain h).1) ∧
        (p.serving ≠ .waiting false ∨ (∀ h, (v i).slotAt p.region p.slot ≠ some (.program h .undecided)) → v (i + 1) = v i)) ∧
    (a.err = true → exec (.gatedReadAnswer id a) s = .next (State.drain { s with path := { s.path with
      inflight := s.path.inflight.map (fun x => if x.id = id then { x with answer := some a, parts := [] } else x) } })) ∧
    (a.err = true ∨ (∀ p ∈ e.parts, p.serving = .waiting true) →
      ∃ t, exec (.gatedReadAnswer id a) s = .next t ∧ changesOnly [.path, .emitted] s t ∧ mapKept s t ∧
        (∀ e' ∈ t.path.inflight, e'.id = id →
          (a.err = true → e'.parts = []) ∧ (a.err = false → ∀ p ∈ e'.parts, p.serving = .slate 0 none)))

/-- R45 to R52, Table 3-1: the ten steps of the verdict chain, in order. -/
def Obligations.VerdictChainFollowsItsTable : Prop :=
  (∀ (s : State) (u : Tag), firstWith s.fixtures (fun e => e.tag = u) (s.fixture u)) ∧
  ∀ (s : State) (h : Header),
    (s.clock.running = false → h.tag ≠ 0 → s.runChain h = (.slate 5, s)) ∧
    (h.tag = 0 → s.runChain h = s.checkKey .plain h) ∧
    (s.clock.running = true → h.tag ≠ 0 → s.fixture h.tag = none → s.runChain h = (.slate 6, s)) ∧
    (∀ e, s.clock.running = true → h.tag ≠ 0 → s.fixture h.tag = some e →
      (e.standing = .awaiting → s.runChain h = s.checkKey .plain h) ∧
      (∀ sch ph, e.standing = .scheduled sch ph →
        (h.service ≠ sch.service → s.runChain h = (.slate 6, s)) ∧
        (h.service = sch.service → ph = .cancelled ∨ ph = .retired → s.runChain h = (.slate 7, s)) ∧
        (h.service = sch.service → ph ≠ .cancelled → ph ≠ .retired →
          (s.purse.zone ≠ 0 ∧ s.purse.zone ∈ sch.blackout → s.runChain h = (.slate 3, s)) ∧
          (¬ (s.purse.zone ≠ 0 ∧ s.purse.zone ∈ sch.blackout) →
            (e.kind ≠ .none → s.runChain h = s.checkKey .entitled h) ∧
            (e.kind = .none → ph = .ended → s.runChain h = (.slate 7, s)) ∧
            (e.kind = .none → ph = .listed → s.runChain h = (.slate 1, s)) ∧
            (e.kind = .none → ph = .onSale ∨ ph = .live → 0 < e.remaining → s.runChain h = s.checkKey .preview h) ∧
            (e.kind = .none → ph = .onSale ∨ ph = .live → e.remaining = 0 → sch.allowance ≠ 0 → s.runChain h = (.slate 2, s)) ∧
            (e.kind = .none → ph = .onSale ∨ ph = .live → e.remaining = 0 → sch.allowance = 0 → s.runChain h = (.slate 1, s))))))

/-- R40, R41, R54, R56, Table 2-4: the key check at the end of the chain. VALID with the period is CLEAR and sets the last-use second, with the viewed flag for
origin ENTITLED and the delivered mark for origin PREVIEW, and no other entry changes and S2 is marked dirty when a viewed flag it keeps changes (R65); PENDING
with the period is HELD; anything else is SLATE(4). -/
def Obligations.KeyCheckAnswersByItsTable : Prop :=
  (∀ (s : State) (svc : Service), firstWith s.keys (fun e => e.service = svc) (s.keyEntry svc)) ∧
  ∀ (s : State) (o : Origin) (h : Header),
    (s.keyEntry h.service = none → s.checkKey o h = (.slate 4, s)) ∧
    (∀ e, s.keyEntry h.service = some e →
      (e.slot h.parity = .empty → s.checkKey o h = (.slate 4, s)) ∧
      (∀ n, e.slot h.parity = .pending n → n ≠ h.period → s.checkKey o h = (.slate 4, s)) ∧
      (∀ n w, e.slot h.parity = .valid n w → n ≠ h.period → s.checkKey o h = (.slate 4, s)) ∧
      (e.slot h.parity = .pending h.period → s.checkKey o h = (.held o h.service h.parity h.period, s)) ∧
      (∀ w, e.slot h.parity = .valid h.period w →
        (s.checkKey o h).1 = .clear w ∧ changesOnly [.keys, .fixtures, .store] s (s.checkKey o h).2 ∧ marksFollow s (s.checkKey o h).2 ∧
        (s.checkKey o h).2.keyEntry h.service = some { e with lastUse := s.now } ∧
        (∀ svc, svc ≠ h.service → (s.checkKey o h).2.keyEntry svc = s.keyEntry svc) ∧
        (∀ u, u ≠ h.tag → (s.checkKey o h).2.fixture u = s.fixture u) ∧
        (o = .plain → (s.checkKey o h).2.fixtures = s.fixtures) ∧
        (∀ f, s.fixture h.tag = some f →
          (o = .entitled → f.kind ≠ .none → (s.checkKey o h).2.fixture h.tag = some { f with viewed := true }) ∧
          (o = .entitled → f.kind = .none → (s.checkKey o h).2.fixture h.tag = some f) ∧
          (o = .preview → (s.checkKey o h).2.fixture h.tag = some { f with delivered := true }))))

/-- R11, R13, R14, R17, R20, R21, R23, R62, R151: how parts get their service after arrival; `u` is the state before ready answers are returned (R145). A slate
read's answer leaves the port's order and supplies the one part it was issued for, whether or not the read's forwarded answer is in; an own write's
acknowledgment only leaves that order. A clean answer to a read settles each waiting part by itself: a stale one as NO_CELL, any other by its slot's verdict,
which stands where one was latched, and slots that no part lies in stand; slate reads are issued then, once for each part, in some order (a free value, log 8),
and parts not waiting stand. A timer's expiry gives the held parts slate cell 4, a fill gives them the new word and sets the flags and marks of the holds'
origins alone. -/
def Obligations.AnswersAndHoldEndsSettleParts : Prop :=
  (∀ (s : State) (rest : List OwnReq) (addr : Addr) (len id r n : Nat) (a : Answer), s.path.own = .slateRead addr len id r n :: rest →
    exec (.slateReadAnswer a) s = .next (State.drain { s with path := { s.path with
      own := rest
      inflight := s.path.inflight.map (fun e =>
        if e.id = id then
          { e with parts := e.parts.map (fun p =>
              if p.region = r ∧ p.slot = n then
                match p.serving with
                | .slate k none => { p with serving := .slate k (some a) }
                | _ => p
              else p) }
        else e) } })) ∧
  (∀ (s : State) (rest : List OwnReq) (addr : Addr) (data : List Byte) (en : List Bool) (err : Bool), s.path.own = .write addr data en :: rest →
    exec (.ownWriteAck err) s = .next { s with path := { s.path with own := rest } }) ∧
  (∀ (s : State) (id : Nat) (a : Answer) (e : Inflight), s.path.inflight.find? (fun x => x.id == id) = some e → e.answer = none → a.err = false →
    ∃ (u : State) (issued : List Emission) (parts : List Part), exec (.gatedReadAnswer id a) s = .next u.drain ∧
      changesOnly [.path, .emitted, .slots, .keys, .fixtures, .store] s u ∧ mapKept s u ∧ u.path.nextId = s.path.nextId ∧
      presentedAs issued s u ∧ u.path.inflight = s.path.inflight.map (fun x => if x.id = id then { x with answer := some a, parts := parts } else x) ∧
      parts.length = e.parts.length ∧
      issued.Perm ((e.parts.zip parts).filterMap (fun q => match q.1.serving, q.2.serving with
        | .waiting _, .slate k none => some (slateReadFor s id q.2 k.val)
        | _, _ => none)) ∧
      (∀ r n, (∀ p ∈ e.parts, ¬ (p.region = r ∧ p.slot = n)) → u.slotAt r n = s.slotAt r n) ∧
      ∀ (i : Nat) (p p' : Part), e.parts[i]? = some p → parts[i]? = some p' →
        p' = { p with serving := p'.serving } ∧
        (p.serving = .waiting true → p'.serving = .slate 0 none) ∧
        (p.serving = .waiting false → ∀ h v, s.slotAt p.region p.slot = some (.program h v) →
          ∃ v', u.slotAt p.region p.slot = some (.program h v') ∧ v' ≠ .undecided ∧ (v ≠ .undecided → v' = v) ∧
            table19 (some (.program h v')) p'.serving) ∧
        ((∀ b, p.serving ≠ .waiting b) → p' = p) ∧
        (∀ b k, p.serving = .waiting b → p'.serving = .slate k none → slateReadFor s id p k.val ∈ issued)) ∧
  (∀ (s : State) (r n : Nat) (h : Header) (o : Origin) (svc : Service) (odd : Bool) (per : Period),
    s.slotAt r n = some (.program h (.held o svc odd per)) →
    ∃ (u : State) (issued : List Emission), exec (.holdTimerExpiry r n) s = .next u.drain ∧ changesOnly [.path, .emitted, .slots] s u ∧ mapKept s u ∧
      u.path.nextId = s.path.nextId ∧
      presentedAs issued s u ∧
      issued.Perm (s.path.inflight.flatMap (fun e =>
        (e.parts.filter (fun p => p.serving == .held && p.region == r && p.slot == n)).map (fun p => slateReadFor s e.id p 4))) ∧
      u.path.inflight = s.path.inflight.map (fun e =>
        { e with parts := e.parts.map (fun p =>
            if p.serving = .held ∧ p.region = r ∧ p.slot = n then { p with serving := .slate 4 none } else p) }) ∧
      ∀ e ∈ s.path.inflight, ∀ p ∈ e.parts, p.serving = .held → p.region = r → p.slot = n → slateReadFor s e.id p 4 ∈ issued) ∧
  (∀ (s : State) (cell : List Byte) (rest : List QCell) (gk : Key) (e : KeyEntry), slotsDistinct s →
    s.engine.queue = ⟨.key, cell⟩ :: rest → s.engine.headKey = some gk →
    s.keyEntry (parseHeader cell).service = some e → e.slot (parseHeader cell).parity = .pending (parseHeader cell).period →
    ∃ u : State, exec .unwrapCompletion s = .next u.drain ∧ u.emitted = s.emitted ∧ u.path = { s.path with inflight := u.path.inflight } ∧
      u.path.inflight = s.path.inflight.map (fun x =>
        { x with parts := x.parts.map (fun p =>
            match s.slotAt p.region p.slot with
            | some (.program h (.held _ svc odd per)) =>
              if p.serving = .held ∧ svc = (parseHeader cell).service ∧ odd = (parseHeader cell).parity ∧ per = (parseHeader cell).period then
                { p with serving := .clear (unwrap gk (parseHeader cell).seq (pay32 cell 2) (pay32 cell 6)) h.seq }
              else p
            | _ => p) }) ∧
      ∀ tag f, s.fixture tag = some f → ∃ f' : FixtureEntry, u.fixture tag = some f' ∧ f' = { f with viewed := f'.viewed, delivered := f'.delivered } ∧
        (f'.viewed = true ↔ f.viewed = true ∨ (f.kind ≠ .none ∧ ∃ x ∈ s.slots, ∃ h, h.tag = tag ∧ x.st = .program h
          (.held .entitled (parseHeader cell).service (parseHeader cell).parity (parseHeader cell).period))) ∧
        (f'.delivered = true ↔ f.delivered = true ∨ ∃ x ∈ s.slots, ∃ h, h.tag = tag ∧ x.st = .program h
          (.held .preview (parseHeader cell).service (parseHeader cell).parity (parseHeader cell).period)))

/-- R21: a HELD slot whose timer expires latches SLATE(4), no flag or mark is set, and no part stays held on it; a slot that is not HELD is not touched. -/
def Obligations.HoldExpiryLatchesNoKey : Prop :=
  ∀ (s : State) (r n : Nat),
    (∀ h o svc odd per, s.slotAt r n = some (.program h (.held o svc odd per)) →
      ∃ t, exec (.holdTimerExpiry r n) s = .next t ∧ changesOnly [.path, .slots, .emitted] s t ∧ mapKept s t ∧
        t.slotAt r n = some (.program h (.slate 4)) ∧
        (∀ r' n', ¬ (r' = r ∧ n' = n) → t.slotAt r' n' = s.slotAt r' n') ∧
        (∀ e ∈ t.path.inflight, ∀ p ∈ e.parts, p.region = r → p.slot = n → p.serving ≠ .held)) ∧
    ((∀ h o svc odd per, s.slotAt r n ≠ some (.program h (.held o svc odd per))) → exec (.holdTimerExpiry r n) s = .next s)

/-- R20, R36, R37, R41, R123: the completion of a KEY cell whose slot is PENDING with its period and whose group key was found makes the slot VALID with the
unwrapped word, and every slot HELD for that service, parity and period CLEAR under it; no other slot changes. The entry's last-use second is not changed by the
fill; a hold that it ends makes it the clock's value. No other entry changes. The cell leaves the queue, and the next is at the head, with its group key looked
up, and S2 is marked dirty when a viewed flag it keeps changes (R65). -/
def Obligations.UnwrapFillsSlotAndEndsHolds : Prop :=
  ∀ (s : State) (cell : List Byte) (rest : List QCell) (gk : Key) (e : KeyEntry),
    s.engine.queue = ⟨.key, cell⟩ :: rest → s.engine.headKey = some gk →
    s.keyEntry (parseHeader cell).service = some e → e.slot (parseHeader cell).parity = .pending (parseHeader cell).period →
    ∃ t, exec .unwrapCompletion s = .next t ∧ changesOnly [.path, .slots, .emitted, .keys, .engine, .fixtures, .store] s t ∧ mapKept s t ∧
      marksFollow s t ∧
      t.engine = headLeft s s.purse.memberships ∧
      (∃ e', t.keyEntry (parseHeader cell).service = some e' ∧
        e' = { e.setSlot (parseHeader cell).parity
            (.valid (parseHeader cell).period (unwrap gk (parseHeader cell).seq (pay32 cell 2) (pay32 cell 6))) with lastUse := e'.lastUse } ∧
        ((∃ x ∈ s.slots, ∃ h o, x.st =
            .program h (.held o (parseHeader cell).service (parseHeader cell).parity (parseHeader cell).period)) → e'.lastUse = s.now) ∧
        ((∀ x ∈ s.slots, ∀ h o, x.st ≠
            .program h (.held o (parseHeader cell).service (parseHeader cell).parity (parseHeader cell).period)) → e'.lastUse = e.lastUse) ∧
        e'.slot (parseHeader cell).parity =
          .valid (parseHeader cell).period (unwrap gk (parseHeader cell).seq (pay32 cell 2) (pay32 cell 6)) ∧
        e'.slot (!(parseHeader cell).parity) = e.slot (!(parseHeader cell).parity)) ∧
      (∀ svc, svc ≠ (parseHeader cell).service → t.keyEntry svc = s.keyEntry svc) ∧
      (slotsDistinct s → ∀ r n, (∀ h o, s.slotAt r n ≠
          some (.program h (.held o (parseHeader cell).service (parseHeader cell).parity (parseHeader cell).period))) →
        t.slotAt r n = s.slotAt r n) ∧
      ∀ r n h o, s.slotAt r n =
          some (.program h (.held o (parseHeader cell).service (parseHeader cell).parity (parseHeader cell).period)) →
        t.slotAt r n =
          some (.program h (.clear (unwrap gk (parseHeader cell).seq (pay32 cell 2) (pay32 cell 6))))

/-- R36 to R38, R123: a completion that finds no PENDING slot of its period is discarded; one without a group key empties its PENDING slot and frees the entry
when the other slot is EMPTY too; no other entry changes. The cell leaves the queue, and the next is at the head, with its group key looked up. -/
def Obligations.UnwrapWithoutMatchOrMembership : Prop :=
  ∀ (s : State) (cell : List Byte) (rest : List QCell),
    s.engine.queue = ⟨.key, cell⟩ :: rest → NoReadyOldest s →
    ((∀ e, s.keyEntry (parseHeader cell).service = some e → e.slot (parseHeader cell).parity ≠ .pending (parseHeader cell).period) →
      exec .unwrapCompletion s = .next { s with engine := headLeft s s.purse.memberships }) ∧
    (∀ e, s.engine.headKey = none → s.keyEntry (parseHeader cell).service = some e →
      e.slot (parseHeader cell).parity = .pending (parseHeader cell).period →
      ∃ t, exec .unwrapCompletion s = .next t ∧ changesOnly [.keys, .engine] s t ∧ t.engine = headLeft s s.purse.memberships ∧
        (e.slot (!(parseHeader cell).parity) ≠ .empty →
          t.keyEntry (parseHeader cell).service = some (e.setSlot (parseHeader cell).parity .empty)) ∧
        (∀ svc, svc ≠ (parseHeader cell).service → t.keyEntry svc = s.keyEntry svc) ∧
        (KeyBankSound s → e.slot (!(parseHeader cell).parity) = .empty → t.keyEntry (parseHeader cell).service = none))

/-! ### The scrambler (chapter 2) -/

/-- R25: the keystream. The starting state, the keystream word of each step, and the two next-state words in exact unsigned arithmetic and as a rotation. An
unwrapped key (R27, R28) has the first wrapped word XOR keystream word 0 as its bytes 0 to 3 and the second XOR keystream word 1 as its bytes 4 to 7. -/
def Obligations.KeystreamFollowsRecurrence : Prop :=
  (∀ (key : Key) (seed w0 w1 : Word), (unwrap key seed w0 w1).extractLsb' 0 32 = w0 ^^^ keystream key seed 0 ∧
    (unwrap key seed w0 w1).extractLsb' 32 32 = w1 ^^^ keystream key seed 1) ∧
  ∀ (key : Key) (seed : Word) (j : Nat),
    scramble key seed 0 = (key.extractLsb' 0 32 ^^^ seed, key.extractLsb' 32 32) ∧
    keystream key seed j = (scramble key seed j).1 ^^^ (scramble key seed j).2 ∧
    (scramble key seed (j + 1)).1.toNat =
      (69069 * (scramble key seed j).1.toNat + (scramble key seed j).2.toNat + 1) % 4294967296 ∧
    (scramble key seed (j + 1)).2 =
      (((scramble key seed j).2 <<< 5) ||| ((scramble key seed j).2 >>> 27)) ^^^ (scramble key seed (j + 1)).1

/-! ### Grants (chapter 7) -/

/-- R123, R125, R128: the cell of a kind at the head of the queue, and the grant kinds by kind byte and target byte; an applied grant of the unit's own becomes
the last grant sequence, a group's does not. Which grants apply at their completion, and that one which does not leaves the queue and changes nothing else. That
a command whose grant is not at the head changes nothing is the model's choice (log 3). -/
def Obligations.StaleGrantsAreSetAside : Prop :=
  (∀ (s : State) (k : CtrlKind) (cell : List Byte), s.headCell k = some cell ↔ ∃ rest, s.engine.queue = ⟨k, cell⟩ :: rest) ∧
  (∀ (s : State) (is : List Byte → Bool) (cell : List Byte), s.headGrant is = some cell ↔ s.headCell .grant = some cell ∧ is cell = true) ∧
  (∀ (k target : Nat) (cell : List Byte), (isGrant k cell = true ↔ (grantKind cell).toNat = k) ∧
    (isGrantOf k target cell = true ↔ (grantKind cell).toNat = k ∧ (grantOp cell).toNat = target)) ∧
  (∀ (s : State) (cell : List Byte), (s.advanceSeq cell).purse = if grantTarget cell = 1 then s.purse else sequenced s cell) ∧
  ∀ (s : State) (cmd : Instr) (is : List Byte → Bool), grantOf cmd = some is →
    (s.headGrant is = none → exec cmd s = .next s) ∧
    (∀ cell, s.headGrant is = some cell →
      (s.grantApplies cell = true ↔
        (grantTarget cell = 1 ∧ s.membership (grantGroup cell) ≠ none) ∨
          (grantTarget cell = 0 ∧ grantUnit cell = s.unit.number ∧ s.purse.lastSeq.toNat < (grantSeq cell).toNat)) ∧
      (s.grantApplies cell = false → exec cmd s = .next { s with engine := headLeft s s.purse.memberships }))

/-- R28, R100, R101, R125, R129, R130: the four grants to the purse, each whole: the last grant sequence advances, the fields named change, S0 is marked dirty,
the cell leaves the queue, and nothing else changes. -/
def Obligations.PurseGrantsChangeTheirFields : Prop :=
  ∀ (s : State) (cell : List Byte),
    (unitGrantAtHead s 1 cell →
      ∃ ms, ms = s.purse.memberships.set (grantOp cell).toNat
          (if grantIdent cell = 0 then ⟨0, 0⟩ else ⟨grantIdent cell, unwrap s.unit.key (grantSeq cell) (pay32 cell 13) (pay32 cell 17)⟩) ∧
        exec .groupSet s = .next { s with
          purse := { sequenced s cell with memberships := ms }, store := s0Dirty s, engine := headLeft s ms }) ∧
    (unitGrantAtHead s 2 cell →
      exec .zoneSet s = .next { s with
        purse := { sequenced s cell with zone := pay8 cell 10 }, store := s0Dirty s, engine := headLeft s s.purse.memberships }) ∧
    (unitGrantAtHead s 3 cell →
      ∃ applied : Int, applied = min (min ((pay32 cell 10).toNat : Int) 16777215) (16777215 - s.purse.balance) ∧
        exec .purseTopup s = .next { s with
          purse := { sequenced s cell with balance := s.purse.balance + applied, reference := s.purse.reference + applied }
          store := s0Dirty s, engine := headLeft s s.purse.memberships }) ∧
    (unitGrantAtHead s 4 cell →
      exec .limitsSet s = .next { s with
        purse := { sequenced s cell with cap := min (pay32 cell 10).toNat 16777215, overdraft := pay16 cell 14 }
        store := s0Dirty s, engine := headLeft s s.purse.memberships })

/-- R77, R78, Table 4-4, R65: ENTITLE and REVOKE of a fixture, row by row. A section is marked dirty exactly when what it keeps changes. -/
def Obligations.FixtureGrantsFollowTheirTable : Prop :=
  ∀ (s : State) (cell : List Byte), s.grantApplies cell = true →
    (s.headGrant (isGrantOf 5 0) = some cell →
      ∃ t, exec .entitleFixture s = .next t ∧ changesOnly [.engine, .purse, .fixtures, .conds, .store] s t ∧ marksFollow s t ∧
        t.engine = headLeft s s.purse.memberships ∧ t.purse = (s.advanceSeq cell).purse ∧
        (grantIdent cell = 0 → t.fixtures = s.fixtures ∧ t.conds = s.conds) ∧
        (∀ e, grantIdent cell ≠ 0 → s.fixture (grantIdent cell) = some e →
          (e.kind = .none ∨ (∃ id, e.kind = .pass id) →
            t.fixture (grantIdent cell) = some { e with kind := .granted } ∧
            (∀ u, u ≠ grantIdent cell → t.fixture u = s.fixture u) ∧
            t.conds = (s.book .entitlementChanged (.tag (grantIdent cell))).conds) ∧
          (e.kind = .granted ∨ (∃ a, e.kind = .impulse a) → t.fixtures = s.fixtures ∧ t.conds = s.conds)) ∧
        (grantIdent cell ≠ 0 → s.fixture (grantIdent cell) = none →
          (noPlaceIn s.fixtures (evictable s) →
            t.fixtures = s.fixtures ∧ t.conds = (s.book .tableFull (.table (grantIdent cell) .fixtureTable)).conds) ∧
          (∀ i, placeIn s.fixtures (evictable s) i →
            t.fixtures = s.fixtures.set i (some
              { tag := grantIdent cell, standing := .awaiting, kind := .granted, viewed := false, remaining := 0, delivered := false }) ∧
            t.conds = (s.book .entitlementChanged (.tag (grantIdent cell))).conds))) ∧
    (s.headGrant (isGrantOf 6 0) = some cell →
      ∃ t, exec .revokeFixture s = .next t ∧ changesOnly [.engine, .purse, .fixtures, .conds, .store] s t ∧ marksFollow s t ∧
        t.engine = headLeft s s.purse.memberships ∧ t.purse = (s.advanceSeq cell).purse ∧
        (∀ u, u ≠ grantIdent cell → t.fixture u = s.fixture u) ∧
        ((∀ e, s.fixture (grantIdent cell) = some e → e.kind ≠ .granted) → t.fixtures = s.fixtures ∧ t.conds = s.conds) ∧
        (∀ e, s.fixture (grantIdent cell) = some e → e.kind = .granted →
          t.conds = (s.book .entitlementChanged (.tag (grantIdent cell))).conds ∧
          (∀ id, e.standing = .awaiting ∨ onOfferNow e → s.coveringPass (grantIdent cell) = some id →
            t.fixture (grantIdent cell) = some { e with kind := .pass id }) ∧
          (e.standing = .awaiting → s.coveringPass (grantIdent cell) = none → t.fixture (grantIdent cell) = none) ∧
          (e.standing ≠ .awaiting → ¬ onOfferNow e ∨ s.coveringPass (grantIdent cell) = none →
            t.fixture (grantIdent cell) = some { e with kind := .none, viewed := false })))

/-- R65, R70, R80, R82 to R84, R169: the lowest-indexed owned pass that lists a tag. ENTITLE and REVOKE of a pass, with the propagation to its members and the
entries that follow another pass; the condition is booked once for each entry changed and keeps the tag of one of them, no other pass changes, and a section is
marked dirty exactly when what it keeps changes. -/
def Obligations.PassGrantsReachTheirMembers : Prop :=
  (∀ (s : State) (id : PassId), firstWith s.passes (fun p => p.id = id) (s.pass id)) ∧
  (∀ (s : State) (u : Tag), ∃ r, firstWith s.passes (fun p => p.owner ≠ .none ∧ u ∈ p.members) r ∧ s.coveringPass u = r.map (·.id)) ∧
  ∀ (s : State) (cell : List Byte), s.grantApplies cell = true → TablesKeyed s →
    (s.headGrant (isGrantOf 5 1) = some cell →
      ∃ t, exec .entitlePass s = .next t ∧ changesOnly [.engine, .purse, .fixtures, .passes, .conds, .store] s t ∧ marksFollow s t ∧
        t.engine = headLeft s s.purse.memberships ∧ t.purse = (s.advanceSeq cell).purse ∧
        (grantPass cell = 0 → t.passes = s.passes ∧ t.fixtures = s.fixtures ∧ t.conds = s.conds) ∧
        (∀ p, grantPass cell ≠ 0 → s.pass (grantPass cell) = some p →
          (p.owner ≠ .none → t.passes = s.passes ∧ t.fixtures = s.fixtures ∧ t.conds = s.conds) ∧
          (p.owner = .none → t.pass (grantPass cell) = some { p with owner := .granted } ∧ condsOnly [.entitlementChanged] s t ∧
            (∀ id', id' ≠ grantPass cell → t.pass id' = s.pass id') ∧
            propagationBooked p.members s t ∧ (∀ u, s.fixture u = none → t.fixture u = none) ∧
            ∀ u e, s.fixture u = some e → ∃ e', t.fixture u = some e' ∧ propagated (grantPass cell) p.members e e')) ∧
        (grantPass cell ≠ 0 → s.pass (grantPass cell) = none → t.fixtures = s.fixtures ∧
          (noPlaceIn s.passes (passEvictable s) →
            t.passes = s.passes ∧ t.conds = (s.book .tableFull (.table ((grantPass cell).setWidth 16) .passTable)).conds) ∧
          (∀ i, placeIn s.passes (passEvictable s) i →
            t.passes = s.passes.set i (some { id := grantPass cell, members := [], sale := none, owner := .granted }) ∧
            t.conds = s.conds))) ∧
    (s.headGrant (isGrantOf 6 1) = some cell →
      ∃ t, exec .revokePass s = .next t ∧ changesOnly [.engine, .purse, .fixtures, .passes, .conds, .store] s t ∧ marksFollow s t ∧
        t.engine = headLeft s s.purse.memberships ∧ t.purse = (s.advanceSeq cell).purse ∧ condsOnly [.entitlementChanged] s t ∧
        ((∀ p, s.pass (grantPass cell) = some p → p.owner ≠ .granted) →
          t.passes = s.passes ∧ t.fixtures = s.fixtures ∧ t.conds = s.conds) ∧
        (∀ p, s.pass (grantPass cell) = some p → p.owner = .granted →
          t.pass (grantPass cell) = some { p with owner := .none } ∧
          (∀ id', id' ≠ grantPass cell → t.pass id' = s.pass id') ∧ (∀ u, s.fixture u = none → t.fixture u = none) ∧
          changedBooked
            (fun u => ∃ e, s.fixture u = some e ∧ e.kind = .pass (grantPass cell) ∧ otherPass s (grantPass cell) u = none) s t ∧
          ((∀ u e, s.fixture u = some e → e.kind = .pass (grantPass cell) → otherPass s (grantPass cell) u ≠ none) → t.conds = s.conds) ∧
          ∀ u e, s.fixture u = some e →
            (e.kind ≠ .pass (grantPass cell) → t.fixture u = some e) ∧
            (∀ q, e.kind = .pass (grantPass cell) → otherPass s (grantPass cell) u = some q →
              t.fixture u = some { e with kind := .pass q.id }) ∧
            (e.kind = .pass (grantPass cell) → otherPass s (grantPass cell) u = none →
              (e.standing = .awaiting → t.fixture u = none) ∧
              (e.standing ≠ .awaiting → t.fixture u = some { e with kind := .none, viewed := false }))))

/-- R97, R107, R110 to R113: LOG_ACK. The acknowledged entries leave and are folded into the reference, so that the purse law stands; then the refund queue is
served from its head while the log has room, each tag by one REFUND entry; then the conditions are settled and the sections marked. The purse takes each served
refund by R97: the credited amount, the forfeited part, and spent tonight; the balance after in each entry is the running balance (the model's choice, log 31). -/
def Obligations.LogAckRemovesFoldsAndServes : Prop :=
  ∀ (s : State) (cell : List Byte) (k m : Nat), unitGrantAtHead s 7 cell → RefundQueueSound s →
    k = (match s.log.entries with
      | [] => 0
      | q :: _ => if (pay32 cell 10 - q.seq).toNat < 2147483648 then min ((pay32 cell 10 - q.seq).toNat + 1) s.log.entries.length else 0) →
    m = min s.refunds.length (64 - (s.log.entries.length - k)) →
    ∃ t made, exec .logAck s = .next t ∧ changesOnly [.engine, .purse, .log, .fixtures, .refunds, .conds, .store] s t ∧
      t.engine = headLeft s s.purse.memberships ∧ t.refunds = s.refunds.drop m ∧
      t.log.entries = s.log.entries.drop k ++ made ∧ made.length = m ∧ t.log.next = s.log.next + BitVec.ofNat 32 m ∧
      (∀ (j : Nat) (tag : Tag), (s.refunds.take m)[j]? = some tag → ∃ e x, s.fixture tag = some e ∧ made[j]? = some x ∧
        x.kind = .refund .operator ∧ x.ident = tag ∧ x.amount = e.paid ∧ x.seq = s.log.next + BitVec.ofNat 32 j ∧ x.clock = s.now ∧
        t.fixture tag = some { e with kind := .none, viewed := false }) ∧
      (∀ u, u ∉ s.refunds.take m → t.fixture u = s.fixture u) ∧
      (∀ folded, folded = { sequenced s cell with
            reference := s.purse.reference - amounts (s.log.entries.take k) (fun e => !isRefund e) + amounts (s.log.entries.take k) isRefund } →
          t.purse = refundedAll s (s.refunds.take m) folded ∧ made = refundEntries s folded (s.refunds.take m)) ∧
      t.purse.lastSeq = grantSeq cell ∧ t.purse.memberships = s.purse.memberships ∧ t.purse.zone = s.purse.zone ∧
      t.purse.cap = s.purse.cap ∧ t.purse.overdraft = s.purse.overdraft ∧ (purseLaw s → purseLaw t) ∧
      (m = 0 → t.purse.balance = s.purse.balance ∧ t.purse.spent = s.purse.spent) ∧
      condsOnly [.refundWaiting, .logNearlyFull] s t ∧ (m = 0 → t.conds = s.conds) ∧
      (0 < m → s.refunds.drop m = [] → t.conds.refundWaiting = { booked := false, count := 0, data := none }) ∧
      (s.refunds.drop m ≠ [] → 0 < m → t.conds.refundWaiting = s.conds.refundWaiting.book (.length (s.refunds.drop m).length)) ∧
      (0 < m → t.conds.logNearlyFull = nearlyFullAfter t.log.entries.length s.conds.logNearlyFull) ∧
      dirtied true (decide (0 < k) || decide (0 < m)) (decide (0 < m)) s t

/-- R79: NIGHT_RESET. Spent tonight becomes 0; RETIRED, AWAITING and settled CANCELLED entries and closed passes are removed; S2 is marked when a removed entry
was entitled or a removed pass owned. -/
def Obligations.NightResetSweepsTheTables : Prop :=
  ∀ (s : State) (cell : List Byte) (keepFixture : FixtureEntry → Bool) (keepPass : PassEntry → Bool),
    unitGrantAtHead s 8 cell →
    (keepFixture = fun e => match e.standing with
      | .awaiting => false
      | .scheduled _ .retired => false
      | .scheduled _ .cancelled => s.refunds.contains e.tag
      | _ => true) →
    (keepPass = fun p => match p.sale with
      | some sale => decide (s.now.toNat < sale.closes.toNat)
      | none => true) →
    ∃ t, exec .nightReset s = .next t ∧ changesOnly [.engine, .purse, .fixtures, .passes, .store] s t ∧
      t.engine = headLeft s s.purse.memberships ∧ t.purse = { sequenced s cell with spent := 0 } ∧
      t.fixtures = s.fixtures.map (fun o => o.filter keepFixture) ∧ t.passes = s.passes.map (fun o => o.filter keepPass) ∧
      t.store = { s.store with dirty := { s0 := true, s1 := s.store.dirty.s1, s2 := t.store.dirty.s2 } } ∧
      (t.store.dirty.s2 = true ↔ s.store.dirty.s2 = true ∨
        (∃ e, inUse s.fixtures e ∧ keepFixture e = false ∧ e.kind ≠ .none) ∨
        (∃ p, inUse s.passes p ∧ keepPass p = false ∧ p.owner ≠ .none))

/-! ### Announcements, passes and the clock (chapters 4 and 8) -/

/-- R65, R69, R70, R72, R73, Table 4-3, Table 13-3: what an announcement at the head does. A rejected one books BAD_CELL with its reason (with tag 0, BAD_TAG
alone: the model's choice, log 30) and changes nothing else; the schedule part of an accepted one takes the header's service and the payload's fields, each as
it stands within its limits and at the limit outside them. A new tag takes a free or evicted place with the derived phase, or PASS by an owned pass; a scheduled
one keeps its entitlement and takes the phase of Table 4-3; an AWAITING one gains its schedule. A section is marked dirty exactly when what it keeps changes. -/
def Obligations.AnnouncementIsCheckedAndApplied : Prop :=
  ∀ (s : State) (cell : List Byte) (tag : Tag) (sch : Schedule),
    s.headCell .fixture = some cell → tag = (parseHeader cell).tag → sch = announceSchedule cell →
    ∃ t, exec .announcement s = .next t ∧
      changesOnly [.engine, .purse, .log, .fixtures, .refunds, .conds, .store] s t ∧ marksFollow s t ∧
      t.engine = headLeft s s.purse.memberships ∧ table133 cell sch ∧
      (sch.floor.toNat ≤ sch.base.toNat ∧ 60 ≤ sch.stepLen.toNat ∧ sch.stepLen.toNat ≤ 3600 ∧ sch.allowance.toNat ≤ 900 ∧
        sch.blackout.length ≤ 16) ∧
      (tag = 0 → t = { s with conds := (s.book .badCell (.reason .badTag)).conds, engine := t.engine }) ∧
      (tag ≠ 0 → ¬ announcementSound cell →
        t = { s with conds := (s.book .badCell (.reason .badSchedule)).conds, engine := t.engine }) ∧
      (announcementSound cell → s.fixture tag = none →
        (noPlaceIn s.fixtures (evictable s) →
          t = { s with conds := (s.book .tableFull (.table tag .fixtureTable)).conds, engine := t.engine }) ∧
        (∀ i, placeIn s.fixtures (evictable s) i → ∃ e, t.fixtures = s.fixtures.set i (some e) ∧ e.tag = tag ∧
          t.purse = s.purse ∧ t.log = s.log ∧ t.refunds = s.refunds ∧
          (∃ ph, e.standing = .scheduled sch ph ∧ (pay8 cell 0 = 1 → ph = .cancelled) ∧ (pay8 cell 0 = 0 → table42 sch s.now.toNat ph)) ∧
          e.remaining = sch.allowance.toNat ∧ e.viewed = false ∧ e.delivered = false ∧
          (∀ id, onOfferNow e → s.coveringPass tag = some id →
            e.kind = .pass id ∧ t.conds = (s.book .entitlementChanged (.tag tag)).conds) ∧
          (¬ onOfferNow e ∨ s.coveringPass tag = none → e.kind = .none ∧ t.conds = s.conds))) ∧
      (∀ e, announcementSound cell → s.fixture tag = some e → pay8 cell 0 = 0 →
        t.conds = s.conds ∧ t.purse = s.purse ∧ t.log = s.log ∧ t.refunds = s.refunds ∧ (∀ u, u ≠ tag → t.fixture u = s.fixture u) ∧
        (e.standing = .awaiting → ∃ ph, table42 sch s.now.toNat ph ∧
          t.fixture tag = some { e with standing := .scheduled sch ph, remaining := sch.allowance.toNat, delivered := false }) ∧
        (∀ old ph, e.standing = .scheduled old ph → ∃ ph',
          (ph = .cancelled ∨ ph = .ended ∨ ph = .retired → ph' = ph) ∧
          (ph = .listed ∨ ph = .onSale ∨ ph = .live → table42 sch s.now.toNat ph') ∧
          t.fixture tag = some { e with
            standing := .scheduled { sch with cancelled := old.cancelled } ph'
            remaining := min e.remaining sch.allowance.toNat }))

/-- R72 to R74, R97, R99: an accepted announcement with status CANCELLED for a tag whose entry is not CANCELLED yet, by kind and room in the log; and for one
that is CANCELLED already, nothing is refunded again. The schedule part is the announcement's with the cancelled flag set, an AWAITING entry takes its allowance
as preview remaining, and any other keeps the smaller of its own and the allowance. -/
def Obligations.CancellationRefundsOrQueues : Prop :=
  ∀ (s : State) (cell : List Byte) (tag : Tag) (e : FixtureEntry),
    s.headCell .fixture = some cell → tag = (parseHeader cell).tag → announcementSound cell → pay8 cell 0 = 1 → s.fixture tag = some e →
    ∃ t e', exec .announcement s = .next t ∧ t.fixture tag = some e' ∧ (∃ sch, e'.standing = .scheduled sch .cancelled ∧ sch.cancelled = true) ∧
      e' = { e with
        standing := .scheduled { announceSchedule cell with cancelled := true } .cancelled
        kind := e'.kind, viewed := e'.viewed
        remaining := (match e.standing with
          | .awaiting => (announceSchedule cell).allowance.toNat
          | .scheduled _ _ => min e.remaining (announceSchedule cell).allowance.toNat)
        delivered := (match e.standing with
          | .awaiting => false
          | .scheduled _ _ => e.delivered) } ∧
      (∀ u, u ≠ tag → t.fixture u = s.fixture u) ∧ t.engine = headLeft s s.purse.memberships ∧
      ((∃ old, e.standing = .scheduled old .cancelled) →
        e'.kind = e.kind ∧ e'.viewed = e.viewed ∧ t.purse = s.purse ∧ t.log = s.log ∧ t.refunds = s.refunds ∧ t.conds = s.conds) ∧
      ((∀ old, e.standing ≠ .scheduled old .cancelled) →
        ((∀ a, e.kind ≠ .impulse a) →
          e'.kind = e.kind ∧ e'.viewed = e.viewed ∧ t.purse = s.purse ∧ t.log = s.log ∧ t.refunds = s.refunds ∧ t.conds = s.conds) ∧
        (∀ a, e.kind = .impulse a → 64 ≤ s.log.entries.length →
          e'.kind = .impulse a ∧ e'.viewed = e.viewed ∧ t.purse = s.purse ∧ t.log = s.log ∧ t.refunds = s.refunds ++ [tag] ∧
          condsOnly [.refundWaiting, .entitlementChanged] s t ∧
          t.conds.refundWaiting = s.conds.refundWaiting.book (.length (s.refunds.length + 1)) ∧
          t.conds.entitlementChanged = s.conds.entitlementChanged.book (.tag tag)) ∧
        (∀ a, e.kind = .impulse a → s.log.entries.length < 64 →
          e'.kind = .none ∧ e'.viewed = false ∧ t.refunds = s.refunds ∧
          (∃ credit : Int, credit = min (a.toNat : Int) (16777215 - s.purse.balance) ∧
            t.purse = { s.purse with
              balance := s.purse.balance + credit
              reference := s.purse.reference - ((a.toNat : Int) - credit)
              spent := s.purse.spent - a.toNat } ∧
            t.log = { entries := s.log.entries ++ [newEntryOf s (.refund .operator) tag a (s.purse.balance + credit)], next := s.log.next + 1 }) ∧
          condsOnly [.entitlementChanged, .logNearlyFull] s t ∧
          t.conds.entitlementChanged = s.conds.entitlementChanged.book (.tag tag) ∧
          t.conds.logNearlyFull = nearlyFullAfter (s.log.entries.length + 1) s.conds.logNearlyFull ∧ dirtied true true true s t))

/-- R65, R80 to R82: a PASS cell at the head: rejected (with identifier 0 for BAD_TAG alone: the model's choice, log 30), merged into its entry with propagation
to the members it gains and no other pass changed, or given a free or evicted place. A section is marked dirty exactly when what it keeps changes. -/
def Obligations.PassCellIsCheckedAndApplied : Prop :=
  ∀ (s : State) (cell : List Byte) (sale : PassSale) (members : List Tag),
    s.headCell .pass = some cell → sale = { opens := pay32 cell 2, closes := pay32 cell 6, base := pay16 cell 10 } →
    members = (List.range (min (pay8 cell 1).toNat 16)).map (fun i => pay16 cell (12 + 2 * i)) →
    ∃ t, exec .passCellCompletion s = .next t ∧ changesOnly [.engine, .passes, .fixtures, .conds, .store] s t ∧ marksFollow s t ∧
      t.engine = headLeft s s.purse.memberships ∧
      (pay8 cell 0 = 0 → t = { s with conds := (s.book .badCell (.reason .badTag)).conds, engine := t.engine }) ∧
      (pay8 cell 0 ≠ 0 → pay8 cell 1 = 0 ∨ sale.closes.toNat < sale.opens.toNat →
        t = { s with conds := (s.book .badCell (.reason .badSchedule)).conds, engine := t.engine }) ∧
      (pay8 cell 0 ≠ 0 → pay8 cell 1 ≠ 0 → sale.opens.toNat ≤ sale.closes.toNat →
        (∀ p, s.pass (pay8 cell 0) = some p →
          t.pass (pay8 cell 0) = some { p with sale := some sale, members := members } ∧
          (∀ id', id' ≠ pay8 cell 0 → t.pass id' = s.pass id') ∧
          (p.owner = .none → t.fixtures = s.fixtures ∧ t.conds = s.conds) ∧
          (p.owner ≠ .none → condsOnly [.entitlementChanged] s t ∧
            propagationBooked (members.filter (fun x => !p.members.contains x)) s t ∧
            (∀ u, s.fixture u = none → t.fixture u = none) ∧
            ∀ u e, s.fixture u = some e → ∃ e', t.fixture u = some e' ∧
              propagated (pay8 cell 0) (members.filter (fun x => !p.members.contains x)) e e')) ∧
        (s.pass (pay8 cell 0) = none → t.fixtures = s.fixtures ∧
          (noPlaceIn s.passes (passEvictable s) →
            t = { s with conds := (s.book .tableFull (.table ((pay8 cell 0).setWidth 16) .passTable)).conds, engine := t.engine }) ∧
          (∀ i, placeIn s.passes (passEvictable s) i →
            t.passes = s.passes.set i (some { id := pay8 cell 0, members := members, sale := some sale, owner := .none }) ∧
            t.conds = s.conds)))

/-- R66 to R68, R134 to R138, R57: the clock value that other blocks take is 0 while the clock is UNSET. The two ways in which the clock's value changes. A
second event advances the value, derives every phase forward only, then meters preview and clears every delivered mark. An adoption takes the cell's value,
restarts the sub-second count, derives phases and meters nothing, and books CLOCK_JUMP for an exact difference outside -2 to +2. That a second event given as a
command ends the second whatever the sub-second count, and has no effect while the clock is UNSET, is the model's choice (log 11). That phases are derived for a
difference of 0 too is its choice as well (log 32). -/
def Obligations.ClockAdvancesAndAdopts : Prop :=
  (∀ s : State, s.now = if s.clock.running then s.clock.value else 0) ∧
  ∀ s : State,
    (s.clock.running = true →
      ∃ t, exec .secondEvent s = .next t ∧ changesOnly [.clock, .fixtures] s t ∧
        t.clock = { running := true, value := s.clock.value + 1, sub := 0 } ∧
        ∀ (i : Nat), (s.fixtures[i]? = some none → t.fixtures[i]? = some none) ∧
          ∀ e, s.fixtures[i]? = some (some e) → ∃ d e', derivedAt (s.clock.value + 1).toNat e d ∧ t.fixtures[i]? = some (some e') ∧
            (d.delivered = true ∧ d.kind = .none ∧ (∃ sch, d.standing = .scheduled sch .onSale ∨ d.standing = .scheduled sch .live) →
              e' = { d with remaining := d.remaining - 1, delivered := false }) ∧
            (¬ (d.delivered = true ∧ d.kind = .none ∧ (∃ sch, d.standing = .scheduled sch .onSale ∨ d.standing = .scheduled sch .live)) →
              e' = { d with delivered := false })) ∧
    (s.clock.running = false → exec .secondEvent s = .next s) ∧
    (∀ cell, s.headCell .time = some cell →
      ∃ t, exec .timeCellAdoption s = .next t ∧ changesOnly [.clock, .fixtures, .engine, .conds] s t ∧
        t.engine = headLeft s s.purse.memberships ∧
        t.clock = { running := true, value := pay32 cell 0, sub := 0 } ∧
        (∀ (i : Nat), (s.fixtures[i]? = some none → t.fixtures[i]? = some none) ∧
          ∀ e, s.fixtures[i]? = some (some e) → ∃ e', derivedAt (pay32 cell 0).toNat e e' ∧ t.fixtures[i]? = some (some e')) ∧
        (∀ d : Int, d = ((pay32 cell 0).toNat : Int) - (s.clock.value.toNat : Int) →
          (s.clock.running = false ∨ (-2 ≤ d ∧ d ≤ 2) → t.conds = s.conds) ∧
          (s.clock.running = true → d < -2 ∨ 2 < d →
            t.conds = (s.book .clockJump (.difference (max (-2147483647) (min d 2147483647)))).conds)))

/-! ### Placement (chapter 10) -/

/-- R155, R156: a request handled as CPU, outside READING and whichever command carries it (the model's reading, log 5), against the arming run. The next write
of the run raises the count; the eighth raises the attempt count and starts the reading, or writes ALREADY_PLACED; a first write starts a run; anything else
forgets it. The unit presents nothing in any other case. A request handled as CPU while READING, and one handled under classes 1 to 6 in any state, leaves run,
count and state as they are. -/
def Obligations.ArmingRunIsJudged : Prop :=
  (∀ (s : State) (q : Request) (cmd : Instr),
    (∃ r, q = .read r ∧ carriesRead r cmd) ∨ (∃ w, q = .write w ∧ carriesWrite w cmd) →
    roomFor (handled (requestClass q)) s → reading s ∨ handled (requestClass q) ≠ .cpu →
    ∃ t issued, exec cmd s = .next t ∧ t.placement = s.placement ∧ t.emitted = s.emitted ++ issued ∧ issued.filter isUnitRequest = []) ∧
  ∀ (s : State) (w : WriteReq) (r : ReadReq), roomFor .cpu s → ¬ reading s → w.cls = .cpu → r.cls = .cpu →
    (∀ cmd, carriesRead r cmd → ∃ t issued, exec cmd s = .next t ∧ t.placement = { s.placement with run := none } ∧
      t.emitted = s.emitted ++ issued ∧ issued.filter isUnitRequest = []) ∧
    ∀ cmd, carriesWrite w cmd → ∃ t issued, exec cmd s = .next t ∧ presentedAs issued s t ∧
      (t.placement.attempts = s.placement.attempts → issued.filter isUnitRequest = []) ∧
      (¬ (w.data.length = 16 ∧ w.enables = List.replicate 16 true) → t.placement = { s.placement with run := none }) ∧
      (w.data.length = 16 → w.enables = List.replicate 16 true →
        (∀ k, s.placement.run = some k → w.addr = k.addr → (byteAt w.data 0).toNat = k.count + 1 → k.count + 1 < 8 →
          t.placement = { s.placement with run := some { k with count := k.count + 1 } }) ∧
        (∀ k, s.placement.run = some k → w.addr = k.addr → (byteAt w.data 0).toNat = 8 → k.count = 7 →
          (s.placement.st = .unplaced →
            t.placement = { s.placement with
              st := .reading k.addr none [], run := none
              attempts := if s.placement.attempts = 255 then 1 else s.placement.attempts + 1 } ∧
            issued.filter isUnitRequest = [.own (.headRead (k.addr + 16))]) ∧
          (s.placement.st = .placed →
            t.placement = { s.placement with
              run := none, attempts := if s.placement.attempts = 255 then 1 else s.placement.attempts + 1 } ∧
            issued.filter isUnitRequest =
              [.own (.write k.addr (resultRecord .alreadyPlaced t.placement.attempts 255 s.unit.number) (List.replicate 16 true))])) ∧
        ((∀ k, s.placement.run = some k → ¬ (w.addr = k.addr ∧ (byteAt w.data 0).toNat = k.count + 1)) →
          ((byteAt w.data 0).toNat = 1 → t.placement = { s.placement with run := some { count := 1, addr := w.addr } }) ∧
          ((byteAt w.data 0).toNat ≠ 1 → t.placement = { s.placement with run := none })))

/-- R157, R159: the head read's answer. A failed read, a version other than 1 or a count outside 4 to 12 ends placement with its code and the result record;
otherwise the first descriptors are read. -/
def Obligations.PlacementHeadIsChecked : Prop :=
  (∀ head, headCount head = (byteAt head 1).toNat) ∧
  ∀ (s : State) (addr x : Addr) (rest : List OwnReq) (a : Answer) (got : List Byte),
    s.path.own = .headRead x :: rest → s.placement.st = .reading addr none got → a.data.length = 16 →
    (∀ code, (a.err = true ∧ code = .readFailed) ∨ (a.err = false ∧ byteAt a.data 0 ≠ 1 ∧ code = .badVersion) ∨
        (a.err = false ∧ byteAt a.data 0 = 1 ∧ ((byteAt a.data 1).toNat < 4 ∨ 12 < (byteAt a.data 1).toNat) ∧ code = .badCount) →
      exec (.placementHeadReadAnswer a) s = .next (ownPresented
        { s with path := { s.path with own := rest }, placement := { s.placement with st := .unplaced } }
        (.write addr (resultRecord code s.placement.attempts 255 s.unit.number) (List.replicate 16 true)))) ∧
    (a.err = false → byteAt a.data 0 = 1 → 4 ≤ (byteAt a.data 1).toNat → (byteAt a.data 1).toNat ≤ 12 →
      exec (.placementHeadReadAnswer a) s = .next (ownPresented
        { s with path := { s.path with own := rest }, placement := { s.placement with st := .reading addr (some a.data) [] } }
        (.descriptorRead (addr + 32) 128)))

/-- R157 to R161, Table 10-2, Table 13-8: a descriptor read's answer. A failed read, or a record that fails its checks, ends placement with its code; an answer
before the last asks for the next bytes; a record that passes sets the map, builds the slot table, gives the views and presents the three own writes in their
order (the bytes of an index write whose enables are off are 0, log 19), and the PLACED report is handed over or left pending. The checks, in their order:
BAD_SUM, then the first descriptor that fails, with BAD_REGION or else OVERLAP and its index, then MISSING_KIND, then TOO_MANY_CELLS; a record that passes gives
its descriptors' regions. The result record's bytes and codes. -/
def Obligations.PlacementDescriptorsComplete : Prop :=
  (∀ (head ds : List Byte),
    (sumBytes (head ++ ds) ≠ 0 → checkRecord head ds = .fail .badSum 255) ∧
    (sumBytes (head ++ ds) = 0 →
      (∀ i, i < headCount head → (∀ j, j < i → regionGood ds j ∧ ¬ sharesBytes ds j) →
        (¬ regionGood ds i → checkRecord head ds = .fail .badRegion i) ∧
        (regionGood ds i → sharesBytes ds i → checkRecord head ds = .fail .overlap i)) ∧
      ((∀ i, i < headCount head → regionGood ds i ∧ ¬ sharesBytes ds i) →
        ((∃ k, (k = 1 ∨ k = 2 ∨ k = 3 ∨ k = 4) ∧ ∀ i, i < headCount head → byteAt ds (32 * i) ≠ k) →
          checkRecord head ds = .fail .missingKind 255) ∧
        ((∀ k, k = 1 ∨ k = 2 ∨ k = 3 ∨ k = 4 → ∃ i, i < headCount head ∧ byteAt ds (32 * i) = k) →
          (4096 < recordCells ds (headCount head) → checkRecord head ds = .fail .tooManyCells 255) ∧
          (recordCells ds (headCount head) ≤ 4096 → ∃ rs, checkRecord head ds = .ok rs ∧ rs.length = headCount head ∧
            ∀ (i : Nat) (g : Region), rs[i]? = some g → kindByte g.kind = byteAt ds (32 * i) ∧ g.writers = byteAt ds (32 * i + 1) ∧
              g.readers = byteAt ds (32 * i + 2) ∧ g.base.toNat = descBase ds i ∧ g.size = descSize ds i))))) ∧
  (∀ c attempts index unit, resultRecord c attempts index unit =
    [BitVec.ofNat 8 c.code, BitVec.ofNat 8 attempts, BitVec.ofNat 8 index, 0] ++ bytes32 unit ++ List.replicate 8 0) ∧
  ([PlacementResult.placed, .badSum, .badVersion, .badCount, .badRegion, .overlap, .missingKind, .tooManyCells, .readFailed, .alreadyPlaced].map (·.code) =
    [0x20, 0x21, 0x22, 0x23, 0x24, 0x25, 0x26, 0x27, 0x28, 0x29]) ∧
  ∀ (s : State) (addr x : Addr) (len : Nat) (rest : List OwnReq) (a : Answer) (head got : List Byte),
    s.path.own = .descriptorRead x len :: rest → s.placement.st = .reading addr (some head) got → a.data.length = len →
    (a.err = true → exec (.placementDescriptorReadAnswer a) s = .next (ownPresented
        { s with path := { s.path with own := rest }, placement := { s.placement with st := .unplaced } }
        (.write addr (resultRecord .readFailed s.placement.attempts 255 s.unit.number) (List.replicate 16 true)))) ∧
    (a.err = false → (got ++ a.data).length < 32 * headCount head →
      exec (.placementDescriptorReadAnswer a) s = .next (ownPresented
        { s with path := { s.path with own := rest }, placement := { s.placement with st := .reading addr (some head) (got ++ a.data) } }
        (.descriptorRead (addr + BitVec.ofNat 32 (32 + (got ++ a.data).length)) (min 128 (32 * headCount head - (got ++ a.data).length))))) ∧
    (∀ code i, a.err = false → 32 * headCount head ≤ (got ++ a.data).length → checkRecord head (got ++ a.data) = .fail code i →
      exec (.placementDescriptorReadAnswer a) s = .next (ownPresented
        { s with path := { s.path with own := rest }, placement := { s.placement with st := .unplaced } }
        (.write addr (resultRecord code s.placement.attempts i s.unit.number) (List.replicate 16 true)))) ∧
    (∀ rs, a.err = false → 32 * headCount head ≤ (got ++ a.data).length → checkRecord head (got ++ a.data) = .ok rs →
      mapSound rs ∧ ∃ t, exec (.placementDescriptorReadAnswer a) s = .next t ∧
        changesOnly [.path, .emitted, .placement, .slots, .orders, .reports] s t ∧
        (∃ g h, g ∈ rs ∧ g.kind = .reportRing ∧ h ∈ rs ∧ h.kind = .orderRing ∧
          (∃ three : List OwnReq, three = [indexWordWrite g.base 0, indexWordWrite (h.base + 64) 0,
              .write addr (resultRecord .placed s.placement.attempts 255 s.unit.number) (List.replicate 16 true)] ∧
            t.path = { s.path with regions := rs, own := rest ++ three } ∧ t.emitted = s.emitted ++ three.map .own) ∧
          t.orders = { st := .idle, view := some { base := h.base, cap := (h.size - 128) / 64, prod := 0, cons := 0 } } ∧
          t.reports.view = some { base := g.base, cap := (g.size - 128) / 64, prod := 0, cons := 0 }) ∧
        (∀ r n, t.slotAt r n = some .empty ↔ ∃ g, rs[r]? = some g ∧ g.kind = .cellRing ∧ n < g.size / 128) ∧
        (s.restoring = false → t.placement = { s.placement with st := .placed, pendingReport := false } ∧
          t.reports.placed = some { unit := s.unit.number, balance := s.purse.balance, logCount := s.log.entries.length, running := s.clock.running }) ∧
        (s.restoring = true → t.placement = { s.placement with st := .placed, pendingReport := true } ∧ t.reports.placed = none))

/-! ### Orders and reports (chapter 11) -/

/-- R148, R163, R164: a CPU write of a host index word whose four bytes are kept, whichever command carries it (the model's reading, log 5). A value of the
capacity or more is ignored and books INDEX_BAD with the value and the word; a value in range is taken by its unit, and the order unit moves between IDLE and
WAITING_ROOM, in the step of the write (the model's choice, log 23). A word is written when its four enables are on after masking, with their little-endian
value; a write of another class, and a CPU write that does not write a word whole, is not handed on: the unit's view and state stand, and nothing is booked for
the word. -/
def Obligations.HostIndexWordsAreTaken : Prop :=
  (∀ (w : WriteReq) (kept : List Bool) (a : Addr) (v : BitVec 32) (i : Nat), i < 4294967296 → addrAt w.addr i = a.toNat →
    (wordWritten w kept a = some v ↔ (∀ k, k < 4 → kept[i + k]? = some true) ∧ v.toNat = leAt w.data i 4)) ∧
  (∀ (s : State) (w : WriteReq) (cmd : Instr),
    carriesWrite w cmd → roomFor (handled w.cls) s →
    ∃ t, exec cmd s = .next t ∧
      (w.cls ≠ .cpu ∨ (∀ g, s.path.regions.find? (fun r => r.kind == .orderRing) = some g →
          wordWritten w (keptEnables s.path.regions (handled w.cls) w) g.base = none) → t.orders = s.orders) ∧
      (w.cls ≠ .cpu ∨ (∀ g, s.path.regions.find? (fun r => r.kind == .reportRing) = some g →
          wordWritten w (keptEnables s.path.regions (handled w.cls) w) (g.base + 64) = none) → t.reports = s.reports) ∧
      (w.cls ≠ .cpu ∨ (∀ g, (s.path.regions.find? (fun r => r.kind == .orderRing) = some g →
            wordWritten w (keptEnables s.path.regions (handled w.cls) w) g.base = none) ∧
          (s.path.regions.find? (fun r => r.kind == .reportRing) = some g →
            wordWritten w (keptEnables s.path.regions (handled w.cls) w) (g.base + 64) = none)) → t.conds.indexBad = s.conds.indexBad)) ∧
  ∀ (s : State) (w : WriteReq) (g : Region) (v : BitVec 32) (vw : RingView) (cmd : Instr), carriesWrite w cmd → w.cls = .cpu → roomFor .cpu s →
    (s.path.regions.find? (fun r => r.kind == .orderRing) = some g → s.orders.view = some vw →
      wordWritten w (keptEnables s.path.regions .cpu w) g.base = some v →
      ∃ t, exec cmd s = .next t ∧
        (vw.cap ≤ v.toNat → (∀ h, s.path.regions.find? (fun r => r.kind == .reportRing) = some h →
            wordWritten w (keptEnables s.path.regions .cpu w) (h.base + 64) = none) →
          t.orders = s.orders ∧ t.conds.indexBad = s.conds.indexBad.book (.index v .orderProducer)) ∧
        (v.toNat < vw.cap → t.orders.view = some { vw with prod := v.toNat } ∧
          (s.orders.st = .waitingRoom → v.toNat = vw.cons → t.orders.st = .idle) ∧
          (s.orders.st = .waitingRoom → v.toNat ≠ vw.cons → t.orders.st = .waitingRoom) ∧
          (s.orders.st = .idle → v.toNat ≠ vw.cons → s.placement.st = .placed → s.restoring = false → t.orders.st = .waitingRoom) ∧
          (s.orders.st = .idle → v.toNat = vw.cons ∨ s.restoring = true → t.orders.st = .idle) ∧
          (∀ sl an, s.orders.st = .fetching sl an → t.orders.st = s.orders.st) ∧
          (∀ rs, s.orders.st = .replying rs → t.orders.st = s.orders.st))) ∧
    (s.path.regions.find? (fun r => r.kind == .reportRing) = some g → s.reports.view = some vw →
      wordWritten w (keptEnables s.path.regions .cpu w) (g.base + 64) = some v →
      ∃ t, exec cmd s = .next t ∧ t.reports.placed = s.reports.placed ∧
        (vw.cap ≤ v.toNat → (∀ h, s.path.regions.find? (fun r => r.kind == .orderRing) = some h →
            wordWritten w (keptEnables s.path.regions .cpu w) h.base = none) →
          t.reports.view = some vw ∧ t.conds.indexBad = s.conds.indexBad.book (.index v .reportConsumer)) ∧
        (v.toNat < vw.cap → t.reports.view = some { vw with cons := v.toNat }))

/-- R163, R164: the room of the report ring is its capacity less 1 and less the unconsumed count, and none without a view. In WAITING_ROOM with an order waiting
and room for one record, the fetch is issued and the consumer advanced in one step; when the fetch's answer returns it is kept and the advanced consumer is
written to the order consumer word, with 0 in the twelve bytes whose enables are off (the model's reading, log 19). -/
def Obligations.OrderIsFetchedAndConsumed : Prop :=
  (∀ s : State, (s.reports.view = none → s.reportRoom = 0) ∧
    ∀ v, s.reports.view = some v → s.reportRoom = v.cap - 1 - (v.prod + v.cap - v.cons) % v.cap) ∧
  ∀ (s : State) (v : RingView), s.orders.view = some v →
    (s.orders.st = .waitingRoom → v.prod ≠ v.cons → 1 ≤ s.reportRoom →
      exec .orderFetch s = .next (ownPresented
        { s with orders := { st := .fetching v.cons none, view := some { v with cons := (v.cons + 1) % v.cap } } }
        (.orderFetch (v.base + BitVec.ofNat 32 (128 + 64 * v.cons))))) ∧
    (s.orders.st = .waitingRoom → s.reportRoom = 0 → exec .orderFetch s = .next s) ∧
    (∀ x rest slot a, s.path.own = .orderFetch x :: rest → s.orders.st = .fetching slot none →
      exec (.orderFetchAnswer a) s = .next (ownPresented
        { s with path := { s.path with own := rest }, orders := { s.orders with st := .fetching slot (some a) } }
        (indexWordWrite (v.base + 64) v.cons)))

/-- R90: the price of a fixture. Elapsed time, steps, cut and price in exact arithmetic; with a schedule's clamped values, the cut stays below 2^48, the price
lies between floor and base, and it is the base with no cut, with the floor at the base, and at or before kick-off. -/
def Obligations.FixturePriceFallsByWholeSteps : Prop :=
  ∀ (sch : Schedule) (c : Seconds), 60 ≤ sch.stepLen.toNat → sch.stepLen.toNat ≤ 3600 → sch.floor.toNat ≤ sch.base.toNat →
    ∃ elapsed steps cut : Nat,
      (sch.kickOff.toNat < c.toNat → elapsed + sch.kickOff.toNat = c.toNat) ∧ (c.toNat ≤ sch.kickOff.toNat → elapsed = 0) ∧
      steps * sch.stepLen.toNat ≤ elapsed ∧ elapsed < (steps + 1) * sch.stepLen.toNat ∧ cut = steps * sch.stepCut.toNat ∧
      cut < 281474976710656 ∧
      ((sch.floor.toNat : Int) ≤ (sch.base.toNat : Int) - (cut : Int) → (fixturePrice sch c : Int) = (sch.base.toNat : Int) - (cut : Int)) ∧
      ((sch.base.toNat : Int) - (cut : Int) < (sch.floor.toNat : Int) → fixturePrice sch c = sch.floor.toNat) ∧
      sch.floor.toNat ≤ fixturePrice sch c ∧ fixturePrice sch c ≤ sch.base.toNat ∧
      (sch.stepCut = 0 ∨ sch.floor = sch.base ∨ c.toNat ≤ sch.kickOff.toNat → fixturePrice sch c = sch.base.toNat)

/-- R97: a refund of a paid amount, of either cause. The amount credited, the forfeited part taken off the reference, spent tonight, the REFUND entry of the
full amount, the marks, and the purse law. A refund of 0 changes no purse field. -/
def Obligations.RefundCreditsUpToTheBound : Prop :=
  ∀ (s : State) (cause : Cause) (tag : Tag) (a : Credit), s.purse.balance ≤ 16777215 →
    ∃ credit forfeited : Int, credit = min (a.toNat : Int) (16777215 - s.purse.balance) ∧ forfeited = (a.toNat : Int) - credit ∧
      (s.refund cause tag a).purse = { s.purse with
        balance := s.purse.balance + credit, reference := s.purse.reference - forfeited, spent := s.purse.spent - a.toNat } ∧
      (s.refund cause tag a).log =
        { entries := s.log.entries ++ [newEntryOf s (.refund cause) tag a (s.purse.balance + credit)], next := s.log.next + 1 } ∧
      changesOnly [.purse, .log, .store] s (s.refund cause tag a) ∧ dirtied true true false s (s.refund cause tag a) ∧
      (purseLaw s → purseLaw (s.refund cause tag a)) ∧ (forfeited = 0 → (s.refund cause tag a).purse.reference = s.purse.reference) ∧
      (a = 0 → (s.refund cause tag a).purse = s.purse)

/-- R92, R93, Table 5-3: BUY_FIXTURE. The refusals in their order, with the price once the first two checks pass (R89 of section 5.2 as the model reads it, log
22); a refusal changes nothing but the order unit; an accepted purchase debits, logs, makes the fixture IMPULSE, marks all sections and books LOG_NEARLY_FULL at
56 entries or more. -/
def Obligations.BuyFixtureRefusesOrDebits : Prop :=
  ∀ (s : State) (slot : Nat) (a : Answer), orderReady s 1 1 slot a →
    ∃ t outcome price seq, exec .buyFixture s = .next t ∧
      t.orders = (replied s
        [.reply 1 outcome slot (orderNumber a.data) (.purchase price seq t.purse.balance)]).orders ∧
      (outcome ≠ .accepted → t = { s with orders := t.orders } ∧ seq = 0) ∧
      (s.clock.running = false → outcome = .noTime ∧ price = 0) ∧
      (s.clock.running = true → ((∀ e, s.fixture (orderTag a.data) = some e → e.standing = .awaiting) → outcome = .unknownFixture ∧ price = 0) ∧
        ∀ e sch ph, s.fixture (orderTag a.data) = some e → e.standing = .scheduled sch ph →
          price = fixturePrice sch s.clock.value ∧
          outcome =
            table53 s e sch ph price (decide ((orderPrice a.data).toNat ≠ price)) ∧
          (outcome = .accepted →
            changesOnly [.purse, .log, .fixtures, .orders, .conds, .store] s t ∧ seq = s.log.next ∧
            t.purse = { s.purse with balance := s.purse.balance - (price : Int), spent := min (s.purse.spent + price) 16777215 } ∧
            t.log = { entries := s.log.entries ++ [newEntryOf s .purchase (orderTag a.data) (BitVec.ofNat 16 price) (s.purse.balance - (price : Int))]
                      next := s.log.next + 1 } ∧
            t.fixture (orderTag a.data) = some { e with kind := .impulse (BitVec.ofNat 16 price) } ∧
            (∀ u, u ≠ orderTag a.data → t.fixture u = s.fixture u) ∧ condsOnly [.logNearlyFull] s t ∧
            t.conds.logNearlyFull = nearlyFullAfter (s.log.entries.length + 1) s.conds.logNearlyFull ∧ dirtied true true true s t))

/-- R91, R94, R95, Table 5-4: BUY_PASS. The refusals in their order, with the price once the first two checks pass (the model's reading, log 22); a refusal
changes nothing but the order unit; an accepted purchase debits, logs, makes the pass BOUGHT, reaches its members and changes no other pass, marks all sections
and books LOG_NEARLY_FULL at 56 entries or more. -/
def Obligations.BuyPassRefusesOrDebits : Prop :=
  ∀ (s : State) (slot : Nat) (a : Answer), orderReady s 2 1 slot a →
    ∃ t outcome price seq, exec .buyPass s = .next t ∧
      t.orders = (replied s
        [.reply 2 outcome slot (orderNumber a.data) (.purchase price seq t.purse.balance)]).orders ∧
      (outcome ≠ .accepted → t = { s with orders := t.orders } ∧ seq = 0) ∧
      (s.clock.running = false → outcome = .noTime ∧ price = 0) ∧
      (s.clock.running = true → ((∀ p, s.pass (orderByte a.data) = some p → p.sale = none) → outcome = .unknownPass ∧ price = 0) ∧
        ∀ p sale, s.pass (orderByte a.data) = some p → p.sale = some sale →
          price = passCost s p sale ∧
          outcome =
            table54 s p sale price (decide ((orderPrice a.data).toNat ≠ price)) ∧
          (outcome = .accepted →
            changesOnly [.purse, .log, .fixtures, .passes, .orders, .conds, .store] s t ∧ seq = s.log.next ∧
            t.purse = { s.purse with balance := s.purse.balance - (price : Int), spent := min (s.purse.spent + price) 16777215 } ∧
            t.log = { entries := s.log.entries ++
                        [newEntryOf s .passPurchase ((orderByte a.data).setWidth 16) (BitVec.ofNat 16 price) (s.purse.balance - (price : Int))]
                      next := s.log.next + 1 } ∧
            t.pass (orderByte a.data) = some { p with owner := .bought (BitVec.ofNat 16 price) } ∧
            (∀ id', id' ≠ orderByte a.data → t.pass id' = s.pass id') ∧ (∀ u, s.fixture u = none → t.fixture u = none) ∧
            (∀ u e, s.fixture u = some e → ∃ e', t.fixture u = some e' ∧ propagated (orderByte a.data) p.members e e') ∧
            condsOnly [.logNearlyFull, .entitlementChanged] s t ∧ propagationBooked p.members s t ∧
            t.conds.logNearlyFull = nearlyFullAfter (s.log.entries.length + 1) s.conds.logNearlyFull ∧ dirtied true true true s t))

/-- R96, R98: CANCEL. The refusals in their order, each of which changes nothing but the order unit; an accepted one refunds with cause VIEWER and makes the
kind NONE. -/
def Obligations.CancelRefusesOrRefunds : Prop :=
  ∀ (s : State) (slot : Nat) (a : Answer), orderReady s 3 1 slot a →
    ∃ t outcome seq, exec .cancel s = .next t ∧
      t.orders = (replied s [.reply 3 outcome slot (orderNumber a.data) (.cancel seq t.purse.balance)]).orders ∧
      (outcome ≠ .accepted → t = { s with orders := t.orders } ∧ seq = 0) ∧
      ((∀ e, s.fixture (orderTag a.data) = some e → e.standing = .awaiting) → outcome = .unknownFixture) ∧
      (∀ e sch ph, s.fixture (orderTag a.data) = some e → e.standing = .scheduled sch ph →
        (((∀ paid, e.kind ≠ .impulse paid) ∨ s.clock.running = false ∨ sch.kickOff.toNat ≤ s.clock.value.toNat ∨ e.viewed = true) →
          outcome = .notCancellable) ∧
        (∀ paid, e.kind = .impulse paid → s.clock.running = true → s.clock.value.toNat < sch.kickOff.toNat → e.viewed = false →
          (64 ≤ s.log.entries.length → outcome = .logFull) ∧
          (s.log.entries.length < 64 → outcome = .accepted ∧ seq = s.log.next ∧
            changesOnly [.purse, .log, .fixtures, .orders, .conds, .store] s t ∧
            t.fixture (orderTag a.data) = some { e with kind := .none, viewed := false } ∧
            (∀ u, u ≠ orderTag a.data → t.fixture u = s.fixture u) ∧
            t.purse = (s.refund .viewer (orderTag a.data) paid).purse ∧ t.log = (s.refund .viewer (orderTag a.data) paid).log ∧
            condsOnly [.logNearlyFull] s t ∧
            t.conds.logNearlyFull = nearlyFullAfter (s.log.entries.length + 1) s.conds.logNearlyFull ∧ dirtied true true true s t)))

/-- R102, R115, R165 to R167, R180, Table 13-9: where an order's fields lie; the orders that only read. Each enters REPLYING with the records its kind gives,
composed from the state as it stands, and changes nothing else; a quote's refusal is the purchase's with the stated price taken equal to the computed one, never
PRICE_CHANGED; a FIXTURE_LIST skips no entry in use and its next index is one past the last of 8 returned, else 32; a failed fetch or an unknown kind is
answered BAD_ORDER. -/
def Obligations.ReadingOrdersChangeNothing : Prop :=
  (∀ order, table139 order) ∧
  ∀ (s : State) (slot : Nat) (a : Answer),
    (orderReady s 4 1 slot a → ∃ price refusal,
      exec .quote s = .next (replied s [.reply 4 .accepted slot (orderNumber a.data)
        (.quote (s.fixture (orderTag a.data)) price (s.quoteBlackout (s.fixture (orderTag a.data))) refusal)]) ∧
      refusal ≠ .priceChanged ∧
      ((∀ e, s.fixture (orderTag a.data) = some e → e.standing = .awaiting) → price = 0) ∧
      (∀ e sch ph, s.fixture (orderTag a.data) = some e → e.standing = .scheduled sch ph → price = fixturePrice sch s.now ∧
        (s.quoteBlackout (s.fixture (orderTag a.data)) = true ↔ s.purse.zone ≠ 0 ∧ s.purse.zone ∈ sch.blackout)) ∧
      refusal = (s.buyCheck (orderTag a.data) (some (BitVec.ofNat 16 price))).1 ∧
      (s.clock.running = false → refusal = .noTime) ∧
      (s.clock.running = true → ((∀ e, s.fixture (orderTag a.data) = some e → e.standing = .awaiting) → refusal = .unknownFixture) ∧
        ∀ e sch ph, s.fixture (orderTag a.data) = some e → e.standing = .scheduled sch ph → refusal = table53 s e sch ph price false)) ∧
    (orderReady s 5 1 slot a → ∃ price refusal,
      exec .quotePass s = .next (replied s [.reply 5 .accepted slot (orderNumber a.data)
        (.quotePass (s.pass (orderByte a.data)) price refusal)]) ∧
      refusal ≠ .priceChanged ∧
      ((∀ p, s.pass (orderByte a.data) = some p → p.sale = none) → price = 0) ∧
      (∀ p sale, s.pass (orderByte a.data) = some p → p.sale = some sale → price = passCost s p sale) ∧
      refusal = (s.passCheck (orderByte a.data) (some (BitVec.ofNat 16 price))).1 ∧
      (s.clock.running = false → refusal = .noTime) ∧
      (s.clock.running = true → ((∀ p, s.pass (orderByte a.data) = some p → p.sale = none) → refusal = .unknownPass) ∧
        ∀ p sale, s.pass (orderByte a.data) = some p → p.sale = some sale → refusal = table54 s p sale price false)) ∧
    (orderReady s 6 1 slot a →
      exec .purse s = .next (replied s [.reply 6 .accepted slot (orderNumber a.data)
        (.purse s.purse s.log.entries.length s.log.next s.now s.clock.running)])) ∧
    (orderReady s 7 9 slot a → ∃ es,
      exec .logRead s = .next (replied s
        (es.map (fun e => .logEntry (orderNumber a.data) e) ++
          [.reply 7 .accepted slot (orderNumber a.data) (.logRead es.length s.log.next)])) ∧
      (s.log.entries = [] → es = []) ∧
      (∀ q rest, s.log.entries = q :: rest →
        es = (s.log.entries.drop (if (orderFrom a.data - q.seq).toNat < 2147483648 then (orderFrom a.data - q.seq).toNat else 0)).take
          (min (orderCount a.data).toNat 8))) ∧
    (orderReady s 8 9 slot a → ∃ (sel : List (Nat × FixtureEntry)) (next : Nat),
      exec .fixtureList s = .next (replied s
        (sel.map (fun p => .fixtureEntry (orderNumber a.data) p.1 p.2) ++
          [.reply 8 .accepted slot (orderNumber a.data) (.fixtureList sel.length next)])) ∧
      sel.length ≤ 8 ∧ (sel.map (·.1)).Pairwise (· < ·) ∧
      (∀ p ∈ sel, (orderByte a.data).toNat ≤ p.1 ∧ s.fixtures[p.1]? = some (some p.2)) ∧
      (∀ p ∈ sel, ∀ (i : Nat) (e : FixtureEntry), (orderByte a.data).toNat ≤ i → i ≤ p.1 → s.fixtures[i]? = some (some e) → (i, e) ∈ sel) ∧
      (sel.length < 8 → next = 32 ∧
        ∀ (i : Nat) (e : FixtureEntry), (orderByte a.data).toNat ≤ i → s.fixtures[i]? = some (some e) → (i, e) ∈ sel) ∧
      (sel.length = 8 → ∃ p, sel.getLast? = some p ∧ next = p.1 + 1)) ∧
    (s.orders.st = .fetching slot (some a) → 1 ≤ s.reportRoom →
      (a.err = true → exec .badOrder s = .next (replied s [.reply 0 .badOrder slot 0 .bad])) ∧
      (a.err = false → orderKind a.data = 0 ∨ 8 < (orderKind a.data).toNat →
        exec .badOrder s = .next (replied s
          [.reply (orderKind a.data) .badOrder slot (orderNumber a.data) .bad])))

/-- R161, R168 to R170, R178 to R180, Tables 13-10 to 13-16: the 64 bytes of every report, field by field, with its codes and 0 in every byte that is unassigned
or does not apply; ALERT, which is asserted exactly while a condition is booked or the report ring holds an unconsumed record; and the report writer's
precedence and its one step: the record at the producer's slot, then the new producer word (0 in the bytes whose enables are off, the model's reading, log 19).
A PLACED report goes first; then the order unit's next reply record, after the last of which the unit is IDLE or, with an order waiting (R164), WAITING_ROOM in
the same step (the model's choice, log 23); a condition goes only while the order unit rests, the highest-ranked one, and is unbooked. Without a view or room,
or with a PLACED report pending in the placement unit, a command to write changes nothing (the model's choice, log 3). -/
def Obligations.ReportsAreWrittenInPrecedence : Prop :=
  (∀ r : Report, r.encode = reportBytes r) ∧
  (∀ s : State, (s.reports.view = none → (s.alert = true ↔ ∃ k, (s.conds.get k).booked = true)) ∧
    ∀ v, s.reports.view = some v → viewSound 16 v → (s.alert = true ↔ (∃ k, (s.conds.get k).booked = true) ∨ v.prod ≠ v.cons)) ∧
  (∀ v : BitVec 32, bytes32 v = leBytes 4 v.toNat) ∧
  (∀ s : State, (∀ v, ¬ mayWriteReport s v) →
    exec .placedReportWrite s = .next s ∧ exec .replyRecordWrite s = .next s ∧ exec .conditionWrite s = .next s) ∧
  (∀ s : State, (s.reports.placed = none → exec .placedReportWrite s = .next s) ∧ (s.reports.placed ≠ none → exec .replyRecordWrite s = .next s)) ∧
  ∀ (s : State) (v : RingView), mayWriteReport s v →
    (∀ p, s.reports.placed = some p → exec .placedReportWrite s =
      .next { reportWritten s v (.placed p) with reports := { view := some { v with prod := (v.prod + 1) % v.cap }, placed := none } }) ∧
    (∀ r next rest, s.reports.placed = none → s.orders.st = .replying (r :: next :: rest) →
      exec .replyRecordWrite s = .next { reportWritten s v r with orders := { s.orders with st := .replying (next :: rest) } }) ∧
    (∀ r o, s.reports.placed = none → s.orders.st = .replying [r] → s.orders.view = some o → s.placement.st = .placed →
      exec .replyRecordWrite s = .next { reportWritten s v r with orders := { s.orders with
        st := if o.prod ≠ o.cons ∧ s.restoring = false then .waitingRoom else .idle } }) ∧
    (∀ k, s.reports.placed = none → s.orders.st = .idle ∨ s.orders.st = .waitingRoom → (s.conds.get k).booked = true →
      (∀ k', k'.rank < k.rank → (s.conds.get k').booked = false) →
      ∃ t, exec .conditionWrite s = .next t ∧ t = { reportWritten s v (.condition k (s.conds.get k).count (s.conds.get k).data) with conds := t.conds } ∧
        t.conds.get k = { booked := false, count := 0, data := none } ∧ condsOnly [k] s t) ∧
    ((s.reports.placed ≠ none ∨ (∃ sl an, s.orders.st = .fetching sl an) ∨ (∃ rs, s.orders.st = .replying rs)) →
      exec .conditionWrite s = .next s)

/-! ### The retention store (chapter 12) -/

/-- R173, R174, Table 5-1, Table 6-1: judging each of the three sections, whose fields come beside their bytes (log 12): blank, or else lost exactly when its
mark, its sum or a field it keeps fails, and otherwise good; and the table of what the restore gives the purse and the log. Two good sections that disagree are
reconciled so that the purse law and the numbering hold, and the balance stands; S0 is marked dirty when the reference is set to the balance (log 29). -/
def Obligations.RestoreTableGivesPurseAndLog : Prop :=
  (∀ (r : SectionBytes S0Fields),
    ((∀ b ∈ r.bytes, b = 0xFF) → judgeS0 r = .blank) ∧
    (¬ (∀ b ∈ r.bytes, b = 0xFF) → ¬ sectionClosed r.bytes ∨ ¬ s0InRange r.fields → judgeS0 r = .lost) ∧
    (¬ (∀ b ∈ r.bytes, b = 0xFF) → sectionClosed r.bytes → s0InRange r.fields → judgeS0 r = .good r.fields) ∧
    (judgeS0 r = .good r.fields → sectionClosed r.bytes ∧ s0InRange r.fields)) ∧
  (∀ (r : SectionBytes S1Fields),
    ((∀ b ∈ r.bytes, b = 0xFF) → judgeS1 r = .blank) ∧
    (¬ (∀ b ∈ r.bytes, b = 0xFF) → ¬ sectionClosed r.bytes ∨ ¬ s1InRange r.fields → judgeS1 r = .lost) ∧
    (¬ (∀ b ∈ r.bytes, b = 0xFF) → sectionClosed r.bytes → s1InRange r.fields → judgeS1 r = .good (r.fields.entries.take r.fields.count)) ∧
    (∀ es, judgeS1 r = .good es → es = r.fields.entries.take r.fields.count ∧ sectionClosed r.bytes ∧ s1InRange r.fields)) ∧
  (∀ (r : SectionBytes S2Fields),
    ((∀ b ∈ r.bytes, b = 0xFF) → judgeS2 r = .blank) ∧
    (¬ (∀ b ∈ r.bytes, b = 0xFF) →
      ¬ sectionClosed r.bytes ∨ (∃ x ∈ r.fields.fixtures, x.kind = .none ∧ x.queued = none) → judgeS2 r = .lost) ∧
    (¬ (∀ b ∈ r.bytes, b = 0xFF) → sectionClosed r.bytes →
      (∀ x ∈ r.fields.fixtures, x.kind ≠ .none ∨ x.queued ≠ none) → judgeS2 r = .good r.fields)) ∧
  (∀ f es, restoredCredit (.good f) (.good es) =
    { purse := { purseOf f with reference :=
        if f.balance = f.reference - amounts es (fun e => !isRefund e) + amounts es isRefund then f.reference
        else f.balance + amounts es (fun e => !isRefund e) - amounts es isRefund }
      log := { entries := es, next := match es.getLast? with
        | some e => e.seq + 1
        | none => f.nextSeq }
      reconciled := (restoredCredit (.good f) (.good es)).reconciled
      dirty0 := (restoredCredit (.good f) (.good es)).reconciled, dirty1 := false } ∧
    ((restoredCredit (.good f) (.good es)).reconciled = false ↔
      f.balance = f.reference - amounts es (fun e => !isRefund e) + amounts es isRefund ∧ ∀ e, es.getLast? = some e → f.nextSeq = e.seq + 1)) ∧
  (∀ f j, (∀ es, j ≠ .good es) → restoredCredit (.good f) j =
    { purse := { purseOf f with reference := f.balance }, log := { entries := [], next := f.nextSeq }
      reconciled := false, dirty0 := true, dirty1 := true }) ∧
  (∀ es j, (∀ f, j ≠ .good f) → restoredCredit j (.good es) =
    { purse := { Purse.defaults with reference := amounts es (fun e => !isRefund e) - amounts es isRefund }
      log := { entries := es, next := match es.getLast? with
        | some e => e.seq + 1
        | none => 1 }
      reconciled := false, dirty0 := true, dirty1 := false }) ∧
  (∀ j0 j1, (∀ f, j0 ≠ .good f) → (∀ es, j1 ≠ .good es) → restoredCredit j0 j1 =
    { purse := Purse.defaults, log := { entries := [], next := 1 }, reconciled := false, dirty0 := true, dirty1 := true })

/-- R172 to R175, R161: section reads during the restore, their fields beside their bytes (log 12), each section in one transaction (the model's choice, log
36). S0 and S1 are judged, STORE_LOST is booked for a lost one and the next read is started; the read of S2 ends the restore in one step: IDLE, with an order
waiting WAITING_ROOM (the model's choice, log 23), the pending PLACED report handed over with its values as they stand, and purse and log by the restore table.
A section that was not good is marked dirty, S0 and S1 also where an entry is made, S2 also where it was or its image differs from the records read (log 14).
STORE_LOST is booked for a lost S2, and with S1 for two sections that were reconciled (once: log 28). The tables take the records in the order kept, fixture
records before passes, then the refund queue is served while the log has room, each served entry becoming NONE and each refund made by R97 with its REFUND entry
(balances after: log 31), and REFUND_WAITING is settled; that tags left over book it exactly once, its count rising by 1, is the model's choice (log 28). When
tags were served, LOG_NEARLY_FULL is settled too: that this books it once more, beside the booking of each fresh refund, is the model's choice (log 38). What
each record does: a queued one cancels the entry that holds its tag, or one it creates, as IMPULSE with the kept amount, and its tag joins the queue; any other
is merged, and cancels afresh an IMPULSE entry announced as CANCELLED, or creates an AWAITING entry; a pass record is merged or created, and propagated; without
a place TABLE_FULL is booked. The viewed flag, the preview remaining and the schedule part of a queued record's entry follow logs 25, 26 and 29. -/
def Obligations.SectionReadsRestoreInOrder : Prop :=
  (∀ s : State, s.store.awaitingStop = false →
    (∀ x, s.store.st = .restoring none none →
      exec (.eepromSectionRead (.s0 x)) s = .next { s with
        store := { s.store with st := .restoring (some (judgeS0 x)) none }
        conds := if judgeS0 x = .lost then (s.book .storeLost (.sections ⟨true, false, false⟩)).conds else s.conds
        emitted := s.emitted ++ [.bus (.read 0b1010010 0x0100 1344)] }) ∧
    (∀ x j0, s.store.st = .restoring (some j0) none →
      exec (.eepromSectionRead (.s1 x)) s = .next { s with
        store := { s.store with st := .restoring (some j0) (some (judgeS1 x)) }
        conds := if judgeS1 x = .lost then (s.book .storeLost (.sections ⟨false, true, false⟩)).conds else s.conds
        emitted := s.emitted ++ [.bus (.read 0b1010010 0x0800 2048)] }) ∧
    (∀ x j0 j1, s.store.st = .restoring (some j0) (some j1) →
      ∃ t, exec (.eepromSectionRead (.s2 x)) s = .next t ∧ t.store = { s.store with st := .idle, dirty := t.store.dirty } ∧ restoreEnded s t ∧
        (t.store.dirty.s2 = true ↔ s.store.dirty.s2 = true ∨ ∀ f, judgeS2 x = .good f → t.s2Image ≠ f) ∧
        changesOnly [.purse, .log, .fixtures, .passes, .refunds, .conds, .store, .placement, .reports, .orders] s t ∧
        (∀ lost, lost = (if judgeS2 x = .lost then s.conds.storeLost.book (.sections ⟨false, false, true⟩) else s.conds.storeLost) →
          t.conds.storeLost = if (restoredCredit j0 j1).reconciled = true then lost.book (.sections ⟨false, true, false⟩) else lost) ∧
        ((∀ f, judgeS2 x ≠ .good f) ∨ judgeS2 x = .good { fixtures := [], passes := [] } → s.refunds = [] →
          t.purse = (restoredCredit j0 j1).purse ∧ t.log = (restoredCredit j0 j1).log ∧ t.fixtures = s.fixtures ∧ t.passes = s.passes ∧
          t.store.dirty.s0 = (s.store.dirty.s0 || (restoredCredit j0 j1).dirty0) ∧
          t.store.dirty.s1 = (s.store.dirty.s1 || (restoredCredit j0 j1).dirty1) ∧ condsOnly [.storeLost] s t)) ∧
    (∀ x j0 j1 f, s.store.st = .restoring (some j0) (some j1) → judgeS2 x = .good f →
      ∃ t v u : State, exec (.eepromSectionRead (.s2 x)) s = .next t ∧
        changesOnly [.purse, .log, .conds, .store] s v ∧ condsOnly [.storeLost] s v ∧
        v.purse = (restoredCredit j0 j1).purse ∧ v.log = (restoredCredit j0 j1).log ∧
        dirtied (restoredCredit j0 j1).dirty0 (restoredCredit j0 j1).dirty1 false s v ∧
        (t.store.dirty.s0 = true ↔ v.store.dirty.s0 = true ∨ t.log.next ≠ v.log.next) ∧
        (t.store.dirty.s1 = true ↔ v.store.dirty.s1 = true ∨ t.log.next ≠ v.log.next) ∧
        condsOnly [.refundWaiting, .logNearlyFull] u t ∧
        (∀ m, m = min u.refunds.length (64 - u.log.entries.length) →
          t.conds.logNearlyFull = if m = 0 then u.conds.logNearlyFull else nearlyFullAfter t.log.entries.length u.conds.logNearlyFull) ∧
        (u.refunds = [] → t.conds.refundWaiting = u.conds.refundWaiting) ∧
        u = f.passes.foldl (fun a r => State.restorePass r a) (f.fixtures.foldl (fun a r => State.restoreRecord r a) v) ∧
        t.passes = u.passes ∧ t.refunds = u.refunds.drop (64 - u.log.entries.length) ∧
        t.log.entries.length = u.log.entries.length + min u.refunds.length (64 - u.log.entries.length) ∧
        (u.refunds.Nodup →
          t.purse = refundedAll u (u.refunds.take (64 - u.log.entries.length)) u.purse ∧
          t.log = { entries := u.log.entries ++ refundEntries u u.purse (u.refunds.take (64 - u.log.entries.length))
                    next := u.log.next + BitVec.ofNat 32 (u.refunds.take (64 - u.log.entries.length)).length }) ∧
        (∀ tag, tag ∈ u.refunds.take (64 - u.log.entries.length) →
          t.fixture tag = (u.fixture tag).map (fun e => { e with kind := .none, viewed := false })) ∧
        (∀ tag, tag ∉ u.refunds.take (64 - u.log.entries.length) → t.fixture tag = u.fixture tag) ∧
        (t.refunds ≠ [] → t.conds.refundWaiting = u.conds.refundWaiting.book (.length t.refunds.length)) ∧
        (t.refunds = [] → u.refunds ≠ [] → t.conds.refundWaiting = { booked := false, count := 0, data := none }))) ∧
  (∀ (s : State) (r : FixtureRec) (sch : Schedule), r.queued = some sch →
    (∀ e, s.fixture r.tag = some e →
      changesOnly [.fixtures, .refunds, .store] s (s.restoreRecord r) ∧
      (s.restoreRecord r).fixture r.tag = some { e with
        standing := (match e.standing with
          | .scheduled own _ => cancelledBy own
          | .awaiting => cancelledBy sch)
        kind := .impulse r.paid, viewed := r.viewed } ∧
      (∀ u, u ≠ r.tag → (s.restoreRecord r).fixture u = s.fixture u) ∧
      (s.restoreRecord r).refunds = (if r.tag ∈ s.refunds then s.refunds else s.refunds ++ [r.tag])) ∧
    (s.fixture r.tag = none →
      (noPlaceIn s.fixtures (evictable s) → s.restoreRecord r = s.book .tableFull (.table r.tag .fixtureTable)) ∧
      (∀ i, placeIn s.fixtures (evictable s) i → changesOnly [.fixtures, .refunds, .store] s (s.restoreRecord r) ∧
        (s.restoreRecord r).fixtures = s.fixtures.set i (some { tag := r.tag, standing := cancelledBy sch, kind := .impulse r.paid, viewed := r.viewed
                                                                remaining := sch.allowance.toNat, delivered := false }) ∧
        (s.restoreRecord r).refunds = (if r.tag ∈ s.refunds then s.refunds else s.refunds ++ [r.tag])))) ∧
  (∀ (s : State) (r : FixtureRec), r.queued = none →
    (s.fixture r.tag = none →
      (noPlaceIn s.fixtures (evictable s) → s.restoreRecord r = s.book .tableFull (.table r.tag .fixtureTable)) ∧
      (∀ i, placeIn s.fixtures (evictable s) i → changesOnly [.fixtures, .store] s (s.restoreRecord r) ∧
        (s.restoreRecord r).fixtures = s.fixtures.set i (some { tag := r.tag, standing := .awaiting, kind := keptKind r, viewed := r.viewed
                                                                remaining := 0, delivered := false }))) ∧
    (∀ e, s.fixture r.tag = some e → (∀ u, u ≠ r.tag → (s.restoreRecord r).fixture u = s.fixture u) ∧
      ((∀ sch, e.standing ≠ .scheduled sch .cancelled) ∨ (∀ a, keptKind r ≠ .impulse a) →
        changesOnly [.fixtures, .store] s (s.restoreRecord r) ∧
        (s.restoreRecord r).fixture r.tag = some { e with kind := keptKind r, viewed := r.viewed }) ∧
      (∀ sch a, e.standing = .scheduled sch .cancelled → keptKind r = .impulse a →
        (64 ≤ s.log.entries.length →
          (s.restoreRecord r).fixture r.tag = some { e with kind := .impulse a, viewed := r.viewed } ∧
          (s.restoreRecord r).refunds = s.refunds ++ [r.tag] ∧ (s.restoreRecord r).purse = s.purse ∧ (s.restoreRecord r).log = s.log ∧
          condsOnly [.refundWaiting, .entitlementChanged] s (s.restoreRecord r)) ∧
        (s.log.entries.length < 64 →
          (s.restoreRecord r).fixture r.tag = some { e with kind := .none, viewed := false } ∧ (s.restoreRecord r).refunds = s.refunds ∧
          (s.restoreRecord r).purse = (s.refund .operator r.tag a).purse ∧ (s.restoreRecord r).log = (s.refund .operator r.tag a).log ∧
          condsOnly [.entitlementChanged, .logNearlyFull] s (s.restoreRecord r))))) ∧
  (∀ (s : State) (r : PassRec) (members : List Tag),
    (∀ p, s.pass r.id = some p → members = p.members →
      (s.restorePass r).pass r.id = some { p with owner := r.owner } ∧ ∀ id', id' ≠ r.id → (s.restorePass r).pass id' = s.pass id') ∧
    (s.pass r.id = none → members = r.members →
      (noPlaceIn s.passes (passEvictable s) → s.restorePass r = s.book .tableFull (.table (r.id.setWidth 16) .passTable)) ∧
      (∀ i, placeIn s.passes (passEvictable s) i →
        (s.restorePass r).passes = s.passes.set i (some { id := r.id, members := r.members, sale := none, owner := r.owner }))) ∧
    ((∃ p, s.pass r.id = some p ∧ members = p.members) ∨ (s.pass r.id = none ∧ members = r.members ∧ ∃ i, placeIn s.passes (passEvictable s) i) →
      changesOnly [.fixtures, .passes, .conds, .store] s (s.restorePass r) ∧ condsOnly [.entitlementChanged] s (s.restorePass r) ∧
      (r.owner = .none → (s.restorePass r).fixtures = s.fixtures ∧ (s.restorePass r).conds = s.conds) ∧
      (r.owner ≠ .none → propagationBooked members s (s.restorePass r) ∧ (∀ u, s.fixture u = none → (s.restorePass r).fixture u = none) ∧
        ∀ u e, s.fixture u = some e → ∃ e', (s.restorePass r).fixture u = some e' ∧ propagated r.id members e e')))

/-- R172, R176, Table 12-1: write passes. In IDLE a dirty mark starts a pass; it captures every dirty section in the order S0, S1, S2, clears the marks and
writes the first page; a page write is complete when the bus address that the unit repeats after the page's stop is acknowledged; it is put on the bus in that
step where no cycle has put it there since (log 37). A completed page is followed by the next, by page 0 again to close the section, by the next section, or by
a new pass or IDLE. What each image holds, the bytes of a closed section (where its fields lie in it is a free value, log 12), and each page write's bus
address, word address and bytes: page 0 first with the mark OPEN, last with the mark CLOSED. -/
def Obligations.WritePassesGoPageByPage : Prop :=
  (∀ s : State,
    (∀ image rest, s.store.st = .idle → s.capture = image :: rest →
      exec .writePassStart s = .next { s with
        store := { s.store with st := .writing (image :: rest) 0 false, dirty := ⟨false, false, false⟩ }
        emitted := s.emitted ++ [.bus (pageWriteOf image 0)] }) ∧
    (s.store.st = .idle → s.store.dirty = ⟨false, false, false⟩ → exec .writePassStart s = .next s) ∧
    (s.capture = (if s.store.dirty.s0 then [.s0 s.s0Image] else []) ++ (if s.store.dirty.s1 then [.s1 s.log.entries] else []) ++
      (if s.store.dirty.s2 then [.s2 s.s2Image] else [])) ∧
    (∀ image rest page polling, s.store.awaitingStop = false → s.store.st = .writing (image :: rest) page polling →
      (page < pagesOf image →
        exec .pageWriteComplete s = .next { s with
          store := { s.store with st := .writing (image :: rest) (page + 1) false }
          emitted := s.emitted ++ acknowledging polling ++ [.bus (pageWriteOf image (page + 1))] }) ∧
      (∀ nextImage more, pagesOf image ≤ page → rest = nextImage :: more →
        exec .pageWriteComplete s = .next { s with
          store := { s.store with st := .writing rest 0 false }
          emitted := s.emitted ++ acknowledging polling ++ [.bus (pageWriteOf nextImage 0)] }) ∧
      (pagesOf image ≤ page → rest = [] → s.store.dirty = ⟨false, false, false⟩ →
        exec .pageWriteComplete s = .next { s with store := { s.store with st := .idle }, emitted := s.emitted ++ acknowledging polling }) ∧
      (∀ fresh others, pagesOf image ≤ page → rest = [] → s.capture = fresh :: others →
        exec .pageWriteComplete s = .next { s with
          store := { s.store with st := .writing (fresh :: others) 0 false, dirty := ⟨false, false, false⟩ }
          emitted := s.emitted ++ acknowledging polling ++ [.bus (pageWriteOf fresh 0)] })) ∧
    (s.s0Image = { balance := s.purse.balance, reference := s.purse.reference, spent := s.purse.spent, cap := s.purse.cap
                   overdraft := s.purse.overdraft, zone := s.purse.zone, memberships := s.purse.memberships
                   lastSeq := s.purse.lastSeq, nextSeq := s.log.next }) ∧
    (RefundQueueSound s → ∃ queued others, s.s2Image.fixtures = queued ++ others ∧
      queued.map (·.tag) = s.refunds ∧
      (∀ r ∈ queued, ∃ e sch ph, s.fixture r.tag = some e ∧ e.standing = .scheduled sch ph ∧ recordKeeps r e ∧ r.queued = some sch) ∧
      others.map (·.tag) = (s.fixtures.filterMap id).filterMap (fun e => if e.kind ≠ .none ∧ e.tag ∉ s.refunds then some e.tag else none) ∧
      (∀ r ∈ others, ∃ e, inUse s.fixtures e ∧ recordKeeps r e ∧ r.queued = none)) ∧
    (s.s2Image.passes = ((s.passes.filterMap id).filter (fun p => p.owner != .none)).map (fun p => { id := p.id, owner := p.owner, members := p.members }))) ∧
  (∀ image : SectionImage,
    ((∃ f, image = .s0 f) → pagesOf image = 4) ∧ ((∃ es, image = .s1 es) → pagesOf image = 42) ∧ ((∃ f, image = .s2 f) → pagesOf image = 64) ∧
    (sectionBytes image).length = 32 * pagesOf image ∧ byteAt (sectionBytes image) 0 = 0xA5 ∧ sumBytes (sectionBytes image) = 0 ∧
    ∀ page, page ≤ pagesOf image → ∃ word data, pageWriteOf image page = .write 0b1010010 word data ∧ data.length = 32 ∧
      word.toNat = (match image with
        | .s0 _ => 0x0000
        | .s1 _ => 0x0100
        | .s2 _ => 0x0800) + (if page = pagesOf image then 0 else 32 * page) ∧
      byteAt data 0 = (if page = 0 then 0x5A else if page = pagesOf image then 0xA5 else byteAt (sectionBytes image) (32 * page)) ∧
      ∀ k, 0 < k → k < 32 → byteAt data k = byteAt (sectionBytes image) ((if page = pagesOf image then 0 else 32 * page) + k))

/-- R172, R174, R177: the two-wire bus. Lost arbitration abandons the transaction and changes nothing else; a stop issues the same transaction again (a section
read or a page write whole, each one transaction: log 36; and after the stop of a page the bus address alone, as the model reads the rule: log 34); a memory
that does not acknowledge sends the unit OFFLINE, drops the images and books STORE_LOST with all sections, and ends a restore first: the sections not yet judged
count as lost, those blank or lost are marked dirty, a pending PLACED report is handed over, and a waiting order is taken up in the same step (log 23). -/
def Obligations.BusFailuresAndRetries : Prop :=
  (∀ s : State,
    (∀ j1, s.store.st = .restoring none j1 → s.transaction = some (.read 0b1010010 0x0000 128)) ∧
    (∀ j0, s.store.st = .restoring (some j0) none → s.transaction = some (.read 0b1010010 0x0100 1344)) ∧
    (∀ j0 j1, s.store.st = .restoring (some j0) (some j1) → s.transaction = some (.read 0b1010010 0x0800 2048)) ∧
    (∀ image rest page polling, s.store.st = .writing (image :: rest) page polling →
      s.transaction = some (if polling then .poll 0b1010010 else pageWriteOf image page)) ∧
    (s.store.st = .idle ∨ s.store.st = .offline → s.transaction = none)) ∧
  ∀ (s : State) (tr : BusTransaction), s.transaction = some tr →
    exec .busArbitrationLoss s = .next { s with store := { s.store with awaitingStop := true } } ∧
    (s.store.awaitingStop = true → exec .transactionReissue s = .next { s with
      store := { s.store with awaitingStop := false }, emitted := s.emitted ++ [.bus tr] }) ∧
    (∀ images page polling why, s.store.st = .writing images page polling → (s.store.awaitingStop = false ∧ polling = false) ∨ why = .addressTimeout →
      exec (.eepromNoAcknowledge why) s = .next { s with
        store := { s.store with st := .offline, awaitingStop := false }
        conds := (s.book .storeLost (.sections ⟨true, true, true⟩)).conds }) ∧
    (∀ j0 j1 why, s.store.st = .restoring j0 j1 → s.store.awaitingStop = false ∨ why = .addressTimeout →
      ∃ t, exec (.eepromNoAcknowledge why) s = .next t ∧ t.store = { s.store with st := .offline, awaitingStop := false, dirty := t.store.dirty } ∧
        t.store.dirty.s2 = true ∧ restoreEnded s t ∧
        t.conds.storeLost.booked = true ∧ t.conds.storeLost.data = some (.sections ⟨true, true, true⟩) ∧
        changesOnly [.purse, .log, .fixtures, .passes, .refunds, .conds, .store, .placement, .reports, .orders] s t ∧
        (s.refunds = [] → t.fixtures = s.fixtures ∧ t.passes = s.passes ∧
          t.purse = (restoredCredit (judgedOrLost j0) (judgedOrLost j1)).purse ∧ t.log = (restoredCredit (judgedOrLost j0) (judgedOrLost j1)).log ∧
          t.store.dirty =
            { s0 := s.store.dirty.s0 || (restoredCredit (judgedOrLost j0) (judgedOrLost j1)).dirty0
              s1 := s.store.dirty.s1 || (restoredCredit (judgedOrLost j0) (judgedOrLost j1)).dirty1, s2 := true } ∧
          condsOnly [.storeLost] s t))
end

