-- ==== Sys2Proof/Laws/State.lean ====
section
/-! SUPPORT. One lemma for each field of `State` under each shared update: what the update writes there, or that it leaves the field as it was. -/

namespace Sys2Proof.Machine

/-! ### book -/

@[simp] theorem State.book_pending (s : State) (k : CondKind) (d : CondData) : (s.book k d).pending = s.pending := rfl
@[simp] theorem State.book_emitted (s : State) (k : CondKind) (d : CondData) : (s.book k d).emitted = s.emitted := rfl
@[simp] theorem State.book_unit (s : State) (k : CondKind) (d : CondData) : (s.book k d).unit = s.unit := rfl
@[simp] theorem State.book_path (s : State) (k : CondKind) (d : CondData) : (s.book k d).path = s.path := rfl
@[simp] theorem State.book_slots (s : State) (k : CondKind) (d : CondData) : (s.book k d).slots = s.slots := rfl
@[simp] theorem State.book_keys (s : State) (k : CondKind) (d : CondData) : (s.book k d).keys = s.keys := rfl
@[simp] theorem State.book_engine (s : State) (k : CondKind) (d : CondData) : (s.book k d).engine = s.engine := rfl
@[simp] theorem State.book_clock (s : State) (k : CondKind) (d : CondData) : (s.book k d).clock = s.clock := rfl
@[simp] theorem State.book_fixtures (s : State) (k : CondKind) (d : CondData) : (s.book k d).fixtures = s.fixtures := rfl
@[simp] theorem State.book_refunds (s : State) (k : CondKind) (d : CondData) : (s.book k d).refunds = s.refunds := rfl
@[simp] theorem State.book_passes (s : State) (k : CondKind) (d : CondData) : (s.book k d).passes = s.passes := rfl
@[simp] theorem State.book_purse (s : State) (k : CondKind) (d : CondData) : (s.book k d).purse = s.purse := rfl
@[simp] theorem State.book_log (s : State) (k : CondKind) (d : CondData) : (s.book k d).log = s.log := rfl
@[simp] theorem State.book_placement (s : State) (k : CondKind) (d : CondData) : (s.book k d).placement = s.placement := rfl
@[simp] theorem State.book_orders (s : State) (k : CondKind) (d : CondData) : (s.book k d).orders = s.orders := rfl
@[simp] theorem State.book_reports (s : State) (k : CondKind) (d : CondData) : (s.book k d).reports = s.reports := rfl
@[simp] theorem State.book_conds (s : State) (k : CondKind) (d : CondData) : (s.book k d).conds = s.conds.set k ((s.conds.get k).book d) := rfl
@[simp] theorem State.book_store (s : State) (k : CondKind) (d : CondData) : (s.book k d).store = s.store := rfl

/-! ### unbook -/

@[simp] theorem State.unbook_pending (s : State) (k : CondKind) : (s.unbook k).pending = s.pending := rfl
@[simp] theorem State.unbook_emitted (s : State) (k : CondKind) : (s.unbook k).emitted = s.emitted := rfl
@[simp] theorem State.unbook_unit (s : State) (k : CondKind) : (s.unbook k).unit = s.unit := rfl
@[simp] theorem State.unbook_path (s : State) (k : CondKind) : (s.unbook k).path = s.path := rfl
@[simp] theorem State.unbook_slots (s : State) (k : CondKind) : (s.unbook k).slots = s.slots := rfl
@[simp] theorem State.unbook_keys (s : State) (k : CondKind) : (s.unbook k).keys = s.keys := rfl
@[simp] theorem State.unbook_engine (s : State) (k : CondKind) : (s.unbook k).engine = s.engine := rfl
@[simp] theorem State.unbook_clock (s : State) (k : CondKind) : (s.unbook k).clock = s.clock := rfl
@[simp] theorem State.unbook_fixtures (s : State) (k : CondKind) : (s.unbook k).fixtures = s.fixtures := rfl
@[simp] theorem State.unbook_refunds (s : State) (k : CondKind) : (s.unbook k).refunds = s.refunds := rfl
@[simp] theorem State.unbook_passes (s : State) (k : CondKind) : (s.unbook k).passes = s.passes := rfl
@[simp] theorem State.unbook_purse (s : State) (k : CondKind) : (s.unbook k).purse = s.purse := rfl
@[simp] theorem State.unbook_log (s : State) (k : CondKind) : (s.unbook k).log = s.log := rfl
@[simp] theorem State.unbook_placement (s : State) (k : CondKind) : (s.unbook k).placement = s.placement := rfl
@[simp] theorem State.unbook_orders (s : State) (k : CondKind) : (s.unbook k).orders = s.orders := rfl
@[simp] theorem State.unbook_reports (s : State) (k : CondKind) : (s.unbook k).reports = s.reports := rfl
@[simp] theorem State.unbook_conds (s : State) (k : CondKind) : (s.unbook k).conds = s.conds.set k Cond.none := rfl
@[simp] theorem State.unbook_store (s : State) (k : CondKind) : (s.unbook k).store = s.store := rfl

/-! ### bookEntitlement -/

@[simp] theorem State.bookEntitlement_pending (s : State) (t : Tag) : (s.bookEntitlement t).pending = s.pending := rfl
@[simp] theorem State.bookEntitlement_emitted (s : State) (t : Tag) : (s.bookEntitlement t).emitted = s.emitted := rfl
@[simp] theorem State.bookEntitlement_unit (s : State) (t : Tag) : (s.bookEntitlement t).unit = s.unit := rfl
@[simp] theorem State.bookEntitlement_path (s : State) (t : Tag) : (s.bookEntitlement t).path = s.path := rfl
@[simp] theorem State.bookEntitlement_slots (s : State) (t : Tag) : (s.bookEntitlement t).slots = s.slots := rfl
@[simp] theorem State.bookEntitlement_keys (s : State) (t : Tag) : (s.bookEntitlement t).keys = s.keys := rfl
@[simp] theorem State.bookEntitlement_engine (s : State) (t : Tag) : (s.bookEntitlement t).engine = s.engine := rfl
@[simp] theorem State.bookEntitlement_clock (s : State) (t : Tag) : (s.bookEntitlement t).clock = s.clock := rfl
@[simp] theorem State.bookEntitlement_fixtures (s : State) (t : Tag) : (s.bookEntitlement t).fixtures = s.fixtures := rfl
@[simp] theorem State.bookEntitlement_refunds (s : State) (t : Tag) : (s.bookEntitlement t).refunds = s.refunds := rfl
@[simp] theorem State.bookEntitlement_passes (s : State) (t : Tag) : (s.bookEntitlement t).passes = s.passes := rfl
@[simp] theorem State.bookEntitlement_purse (s : State) (t : Tag) : (s.bookEntitlement t).purse = s.purse := rfl
@[simp] theorem State.bookEntitlement_log (s : State) (t : Tag) : (s.bookEntitlement t).log = s.log := rfl
@[simp] theorem State.bookEntitlement_placement (s : State) (t : Tag) : (s.bookEntitlement t).placement = s.placement := rfl
@[simp] theorem State.bookEntitlement_orders (s : State) (t : Tag) : (s.bookEntitlement t).orders = s.orders := rfl
@[simp] theorem State.bookEntitlement_reports (s : State) (t : Tag) : (s.bookEntitlement t).reports = s.reports := rfl
@[simp] theorem State.bookEntitlement_conds (s : State) (t : Tag) :
    (s.bookEntitlement t).conds = s.conds.set .entitlementChanged (s.conds.entitlementChanged.book (.tag t)) := rfl
@[simp] theorem State.bookEntitlement_store (s : State) (t : Tag) : (s.bookEntitlement t).store = s.store := rfl

/-! ### markS0 -/

@[simp] theorem State.markS0_pending (s : State) (b : Bool) : (s.markS0 b).pending = s.pending := rfl
@[simp] theorem State.markS0_emitted (s : State) (b : Bool) : (s.markS0 b).emitted = s.emitted := rfl
@[simp] theorem State.markS0_unit (s : State) (b : Bool) : (s.markS0 b).unit = s.unit := rfl
@[simp] theorem State.markS0_path (s : State) (b : Bool) : (s.markS0 b).path = s.path := rfl
@[simp] theorem State.markS0_slots (s : State) (b : Bool) : (s.markS0 b).slots = s.slots := rfl
@[simp] theorem State.markS0_keys (s : State) (b : Bool) : (s.markS0 b).keys = s.keys := rfl
@[simp] theorem State.markS0_engine (s : State) (b : Bool) : (s.markS0 b).engine = s.engine := rfl
@[simp] theorem State.markS0_clock (s : State) (b : Bool) : (s.markS0 b).clock = s.clock := rfl
@[simp] theorem State.markS0_fixtures (s : State) (b : Bool) : (s.markS0 b).fixtures = s.fixtures := rfl
@[simp] theorem State.markS0_refunds (s : State) (b : Bool) : (s.markS0 b).refunds = s.refunds := rfl
@[simp] theorem State.markS0_passes (s : State) (b : Bool) : (s.markS0 b).passes = s.passes := rfl
@[simp] theorem State.markS0_purse (s : State) (b : Bool) : (s.markS0 b).purse = s.purse := rfl
@[simp] theorem State.markS0_log (s : State) (b : Bool) : (s.markS0 b).log = s.log := rfl
@[simp] theorem State.markS0_placement (s : State) (b : Bool) : (s.markS0 b).placement = s.placement := rfl
@[simp] theorem State.markS0_orders (s : State) (b : Bool) : (s.markS0 b).orders = s.orders := rfl
@[simp] theorem State.markS0_reports (s : State) (b : Bool) : (s.markS0 b).reports = s.reports := rfl
@[simp] theorem State.markS0_conds (s : State) (b : Bool) : (s.markS0 b).conds = s.conds := rfl
@[simp] theorem State.markS0_store (s : State) (b : Bool) :
    (s.markS0 b).store = { s.store with dirty := { s.store.dirty with s0 := s.store.dirty.s0 || b } } := rfl

/-! ### markS1 -/

@[simp] theorem State.markS1_pending (s : State) (b : Bool) : (s.markS1 b).pending = s.pending := rfl
@[simp] theorem State.markS1_emitted (s : State) (b : Bool) : (s.markS1 b).emitted = s.emitted := rfl
@[simp] theorem State.markS1_unit (s : State) (b : Bool) : (s.markS1 b).unit = s.unit := rfl
@[simp] theorem State.markS1_path (s : State) (b : Bool) : (s.markS1 b).path = s.path := rfl
@[simp] theorem State.markS1_slots (s : State) (b : Bool) : (s.markS1 b).slots = s.slots := rfl
@[simp] theorem State.markS1_keys (s : State) (b : Bool) : (s.markS1 b).keys = s.keys := rfl
@[simp] theorem State.markS1_engine (s : State) (b : Bool) : (s.markS1 b).engine = s.engine := rfl
@[simp] theorem State.markS1_clock (s : State) (b : Bool) : (s.markS1 b).clock = s.clock := rfl
@[simp] theorem State.markS1_fixtures (s : State) (b : Bool) : (s.markS1 b).fixtures = s.fixtures := rfl
@[simp] theorem State.markS1_refunds (s : State) (b : Bool) : (s.markS1 b).refunds = s.refunds := rfl
@[simp] theorem State.markS1_passes (s : State) (b : Bool) : (s.markS1 b).passes = s.passes := rfl
@[simp] theorem State.markS1_purse (s : State) (b : Bool) : (s.markS1 b).purse = s.purse := rfl
@[simp] theorem State.markS1_log (s : State) (b : Bool) : (s.markS1 b).log = s.log := rfl
@[simp] theorem State.markS1_placement (s : State) (b : Bool) : (s.markS1 b).placement = s.placement := rfl
@[simp] theorem State.markS1_orders (s : State) (b : Bool) : (s.markS1 b).orders = s.orders := rfl
@[simp] theorem State.markS1_reports (s : State) (b : Bool) : (s.markS1 b).reports = s.reports := rfl
@[simp] theorem State.markS1_conds (s : State) (b : Bool) : (s.markS1 b).conds = s.conds := rfl
@[simp] theorem State.markS1_store (s : State) (b : Bool) :
    (s.markS1 b).store = { s.store with dirty := { s.store.dirty with s1 := s.store.dirty.s1 || b } } := rfl

/-! ### markS2 -/

@[simp] theorem State.markS2_pending (s : State) (b : Bool) : (s.markS2 b).pending = s.pending := rfl
@[simp] theorem State.markS2_emitted (s : State) (b : Bool) : (s.markS2 b).emitted = s.emitted := rfl
@[simp] theorem State.markS2_unit (s : State) (b : Bool) : (s.markS2 b).unit = s.unit := rfl
@[simp] theorem State.markS2_path (s : State) (b : Bool) : (s.markS2 b).path = s.path := rfl
@[simp] theorem State.markS2_slots (s : State) (b : Bool) : (s.markS2 b).slots = s.slots := rfl
@[simp] theorem State.markS2_keys (s : State) (b : Bool) : (s.markS2 b).keys = s.keys := rfl
@[simp] theorem State.markS2_engine (s : State) (b : Bool) : (s.markS2 b).engine = s.engine := rfl
@[simp] theorem State.markS2_clock (s : State) (b : Bool) : (s.markS2 b).clock = s.clock := rfl
@[simp] theorem State.markS2_fixtures (s : State) (b : Bool) : (s.markS2 b).fixtures = s.fixtures := rfl
@[simp] theorem State.markS2_refunds (s : State) (b : Bool) : (s.markS2 b).refunds = s.refunds := rfl
@[simp] theorem State.markS2_passes (s : State) (b : Bool) : (s.markS2 b).passes = s.passes := rfl
@[simp] theorem State.markS2_purse (s : State) (b : Bool) : (s.markS2 b).purse = s.purse := rfl
@[simp] theorem State.markS2_log (s : State) (b : Bool) : (s.markS2 b).log = s.log := rfl
@[simp] theorem State.markS2_placement (s : State) (b : Bool) : (s.markS2 b).placement = s.placement := rfl
@[simp] theorem State.markS2_orders (s : State) (b : Bool) : (s.markS2 b).orders = s.orders := rfl
@[simp] theorem State.markS2_reports (s : State) (b : Bool) : (s.markS2 b).reports = s.reports := rfl
@[simp] theorem State.markS2_conds (s : State) (b : Bool) : (s.markS2 b).conds = s.conds := rfl
@[simp] theorem State.markS2_store (s : State) (b : Bool) :
    (s.markS2 b).store = { s.store with dirty := { s.store.dirty with s2 := s.store.dirty.s2 || b } } := rfl

/-! ### emit -/

@[simp] theorem State.emit_pending (s : State) (es : List Emission) : (s.emit es).pending = s.pending := rfl
@[simp] theorem State.emit_emitted (s : State) (es : List Emission) : (s.emit es).emitted = s.emitted ++ es := rfl
@[simp] theorem State.emit_unit (s : State) (es : List Emission) : (s.emit es).unit = s.unit := rfl
@[simp] theorem State.emit_path (s : State) (es : List Emission) : (s.emit es).path = s.path := rfl
@[simp] theorem State.emit_slots (s : State) (es : List Emission) : (s.emit es).slots = s.slots := rfl
@[simp] theorem State.emit_keys (s : State) (es : List Emission) : (s.emit es).keys = s.keys := rfl
@[simp] theorem State.emit_engine (s : State) (es : List Emission) : (s.emit es).engine = s.engine := rfl
@[simp] theorem State.emit_clock (s : State) (es : List Emission) : (s.emit es).clock = s.clock := rfl
@[simp] theorem State.emit_fixtures (s : State) (es : List Emission) : (s.emit es).fixtures = s.fixtures := rfl
@[simp] theorem State.emit_refunds (s : State) (es : List Emission) : (s.emit es).refunds = s.refunds := rfl
@[simp] theorem State.emit_passes (s : State) (es : List Emission) : (s.emit es).passes = s.passes := rfl
@[simp] theorem State.emit_purse (s : State) (es : List Emission) : (s.emit es).purse = s.purse := rfl
@[simp] theorem State.emit_log (s : State) (es : List Emission) : (s.emit es).log = s.log := rfl
@[simp] theorem State.emit_placement (s : State) (es : List Emission) : (s.emit es).placement = s.placement := rfl
@[simp] theorem State.emit_orders (s : State) (es : List Emission) : (s.emit es).orders = s.orders := rfl
@[simp] theorem State.emit_reports (s : State) (es : List Emission) : (s.emit es).reports = s.reports := rfl
@[simp] theorem State.emit_conds (s : State) (es : List Emission) : (s.emit es).conds = s.conds := rfl
@[simp] theorem State.emit_store (s : State) (es : List Emission) : (s.emit es).store = s.store := rfl

/-! ### present -/

@[simp] theorem State.present_pending (s : State) (es : List Emission) : (s.present es).pending = s.pending := rfl
@[simp] theorem State.present_emitted (s : State) (es : List Emission) : (s.present es).emitted = s.emitted ++ es := rfl
@[simp] theorem State.present_unit (s : State) (es : List Emission) : (s.present es).unit = s.unit := rfl
@[simp] theorem State.present_path (s : State) (es : List Emission) :
    (s.present es).path = { s.path with own := s.path.own ++ es.filterMap ownOf } := rfl
@[simp] theorem State.present_slots (s : State) (es : List Emission) : (s.present es).slots = s.slots := rfl
@[simp] theorem State.present_keys (s : State) (es : List Emission) : (s.present es).keys = s.keys := rfl
@[simp] theorem State.present_engine (s : State) (es : List Emission) : (s.present es).engine = s.engine := rfl
@[simp] theorem State.present_clock (s : State) (es : List Emission) : (s.present es).clock = s.clock := rfl
@[simp] theorem State.present_fixtures (s : State) (es : List Emission) : (s.present es).fixtures = s.fixtures := rfl
@[simp] theorem State.present_refunds (s : State) (es : List Emission) : (s.present es).refunds = s.refunds := rfl
@[simp] theorem State.present_passes (s : State) (es : List Emission) : (s.present es).passes = s.passes := rfl
@[simp] theorem State.present_purse (s : State) (es : List Emission) : (s.present es).purse = s.purse := rfl
@[simp] theorem State.present_log (s : State) (es : List Emission) : (s.present es).log = s.log := rfl
@[simp] theorem State.present_placement (s : State) (es : List Emission) : (s.present es).placement = s.placement := rfl
@[simp] theorem State.present_orders (s : State) (es : List Emission) : (s.present es).orders = s.orders := rfl
@[simp] theorem State.present_reports (s : State) (es : List Emission) : (s.present es).reports = s.reports := rfl
@[simp] theorem State.present_conds (s : State) (es : List Emission) : (s.present es).conds = s.conds := rfl
@[simp] theorem State.present_store (s : State) (es : List Emission) : (s.present es).store = s.store := rfl

/-! ### popOwn -/

@[simp] theorem State.popOwn_pending (s : State) : (s.popOwn).pending = s.pending := rfl
@[simp] theorem State.popOwn_emitted (s : State) : (s.popOwn).emitted = s.emitted := rfl
@[simp] theorem State.popOwn_unit (s : State) : (s.popOwn).unit = s.unit := rfl
@[simp] theorem State.popOwn_path (s : State) : (s.popOwn).path = { s.path with own := s.path.own.tail } := rfl
@[simp] theorem State.popOwn_slots (s : State) : (s.popOwn).slots = s.slots := rfl
@[simp] theorem State.popOwn_keys (s : State) : (s.popOwn).keys = s.keys := rfl
@[simp] theorem State.popOwn_engine (s : State) : (s.popOwn).engine = s.engine := rfl
@[simp] theorem State.popOwn_clock (s : State) : (s.popOwn).clock = s.clock := rfl
@[simp] theorem State.popOwn_fixtures (s : State) : (s.popOwn).fixtures = s.fixtures := rfl
@[simp] theorem State.popOwn_refunds (s : State) : (s.popOwn).refunds = s.refunds := rfl
@[simp] theorem State.popOwn_passes (s : State) : (s.popOwn).passes = s.passes := rfl
@[simp] theorem State.popOwn_purse (s : State) : (s.popOwn).purse = s.purse := rfl
@[simp] theorem State.popOwn_log (s : State) : (s.popOwn).log = s.log := rfl
@[simp] theorem State.popOwn_placement (s : State) : (s.popOwn).placement = s.placement := rfl
@[simp] theorem State.popOwn_orders (s : State) : (s.popOwn).orders = s.orders := rfl
@[simp] theorem State.popOwn_reports (s : State) : (s.popOwn).reports = s.reports := rfl
@[simp] theorem State.popOwn_conds (s : State) : (s.popOwn).conds = s.conds := rfl
@[simp] theorem State.popOwn_store (s : State) : (s.popOwn).store = s.store := rfl

/-! ### setInflight -/

@[simp] theorem State.setInflight_pending (s : State) (id : Nat) (f : Inflight → Inflight) : (s.setInflight id f).pending = s.pending := rfl
@[simp] theorem State.setInflight_emitted (s : State) (id : Nat) (f : Inflight → Inflight) : (s.setInflight id f).emitted = s.emitted := rfl
@[simp] theorem State.setInflight_unit (s : State) (id : Nat) (f : Inflight → Inflight) : (s.setInflight id f).unit = s.unit := rfl
@[simp] theorem State.setInflight_path (s : State) (id : Nat) (f : Inflight → Inflight) :
    (s.setInflight id f).path = { s.path with inflight := s.path.inflight.map (fun e => if e.id = id then f e else e) } := rfl
@[simp] theorem State.setInflight_slots (s : State) (id : Nat) (f : Inflight → Inflight) : (s.setInflight id f).slots = s.slots := rfl
@[simp] theorem State.setInflight_keys (s : State) (id : Nat) (f : Inflight → Inflight) : (s.setInflight id f).keys = s.keys := rfl
@[simp] theorem State.setInflight_engine (s : State) (id : Nat) (f : Inflight → Inflight) : (s.setInflight id f).engine = s.engine := rfl
@[simp] theorem State.setInflight_clock (s : State) (id : Nat) (f : Inflight → Inflight) : (s.setInflight id f).clock = s.clock := rfl
@[simp] theorem State.setInflight_fixtures (s : State) (id : Nat) (f : Inflight → Inflight) : (s.setInflight id f).fixtures = s.fixtures := rfl
@[simp] theorem State.setInflight_refunds (s : State) (id : Nat) (f : Inflight → Inflight) : (s.setInflight id f).refunds = s.refunds := rfl
@[simp] theorem State.setInflight_passes (s : State) (id : Nat) (f : Inflight → Inflight) : (s.setInflight id f).passes = s.passes := rfl
@[simp] theorem State.setInflight_purse (s : State) (id : Nat) (f : Inflight → Inflight) : (s.setInflight id f).purse = s.purse := rfl
@[simp] theorem State.setInflight_log (s : State) (id : Nat) (f : Inflight → Inflight) : (s.setInflight id f).log = s.log := rfl
@[simp] theorem State.setInflight_placement (s : State) (id : Nat) (f : Inflight → Inflight) : (s.setInflight id f).placement = s.placement := rfl
@[simp] theorem State.setInflight_orders (s : State) (id : Nat) (f : Inflight → Inflight) : (s.setInflight id f).orders = s.orders := rfl
@[simp] theorem State.setInflight_reports (s : State) (id : Nat) (f : Inflight → Inflight) : (s.setInflight id f).reports = s.reports := rfl
@[simp] theorem State.setInflight_conds (s : State) (id : Nat) (f : Inflight → Inflight) : (s.setInflight id f).conds = s.conds := rfl
@[simp] theorem State.setInflight_store (s : State) (id : Nat) (f : Inflight → Inflight) : (s.setInflight id f).store = s.store := rfl

/-! ### drain -/

@[simp] theorem State.drain_pending (s : State) : (s.drain).pending = s.pending := rfl
@[simp] theorem State.drain_emitted (s : State) : (s.drain).emitted = s.emitted ++ (drainList [] s.path.inflight).2 := rfl
@[simp] theorem State.drain_unit (s : State) : (s.drain).unit = s.unit := rfl
@[simp] theorem State.drain_path (s : State) : (s.drain).path = { s.path with inflight := (drainList [] s.path.inflight).1 } := rfl
@[simp] theorem State.drain_slots (s : State) : (s.drain).slots = s.slots := rfl
@[simp] theorem State.drain_keys (s : State) : (s.drain).keys = s.keys := rfl
@[simp] theorem State.drain_engine (s : State) : (s.drain).engine = s.engine := rfl
@[simp] theorem State.drain_clock (s : State) : (s.drain).clock = s.clock := rfl
@[simp] theorem State.drain_fixtures (s : State) : (s.drain).fixtures = s.fixtures := rfl
@[simp] theorem State.drain_refunds (s : State) : (s.drain).refunds = s.refunds := rfl
@[simp] theorem State.drain_passes (s : State) : (s.drain).passes = s.passes := rfl
@[simp] theorem State.drain_purse (s : State) : (s.drain).purse = s.purse := rfl
@[simp] theorem State.drain_log (s : State) : (s.drain).log = s.log := rfl
@[simp] theorem State.drain_placement (s : State) : (s.drain).placement = s.placement := rfl
@[simp] theorem State.drain_orders (s : State) : (s.drain).orders = s.orders := rfl
@[simp] theorem State.drain_reports (s : State) : (s.drain).reports = s.reports := rfl
@[simp] theorem State.drain_conds (s : State) : (s.drain).conds = s.conds := rfl
@[simp] theorem State.drain_store (s : State) : (s.drain).store = s.store := rfl

/-! ### takeOn -/

@[simp] theorem State.takeOn_pending (s : State) (c : Cls) (req : Request) (parts : List Part) (ans : Option Answer) :
    (s.takeOn c req parts ans).pending = s.pending := rfl
@[simp] theorem State.takeOn_emitted (s : State) (c : Cls) (req : Request) (parts : List Part) (ans : Option Answer) :
    (s.takeOn c req parts ans).emitted = s.emitted := rfl
@[simp] theorem State.takeOn_unit (s : State) (c : Cls) (req : Request) (parts : List Part) (ans : Option Answer) :
    (s.takeOn c req parts ans).unit = s.unit := rfl
@[simp] theorem State.takeOn_path (s : State) (c : Cls) (req : Request) (parts : List Part) (ans : Option Answer) :
    (s.takeOn c req parts ans).path = { s.path with
      inflight := s.path.inflight ++ [{ id := s.path.nextId, cls := c, req := req, parts := parts, answer := ans }]
      nextId := s.path.nextId + 1 } := rfl
@[simp] theorem State.takeOn_slots (s : State) (c : Cls) (req : Request) (parts : List Part) (ans : Option Answer) :
    (s.takeOn c req parts ans).slots = s.slots := rfl
@[simp] theorem State.takeOn_keys (s : State) (c : Cls) (req : Request) (parts : List Part) (ans : Option Answer) :
    (s.takeOn c req parts ans).keys = s.keys := rfl
@[simp] theorem State.takeOn_engine (s : State) (c : Cls) (req : Request) (parts : List Part) (ans : Option Answer) :
    (s.takeOn c req parts ans).engine = s.engine := rfl
@[simp] theorem State.takeOn_clock (s : State) (c : Cls) (req : Request) (parts : List Part) (ans : Option Answer) :
    (s.takeOn c req parts ans).clock = s.clock := rfl
@[simp] theorem State.takeOn_fixtures (s : State) (c : Cls) (req : Request) (parts : List Part) (ans : Option Answer) :
    (s.takeOn c req parts ans).fixtures = s.fixtures := rfl
@[simp] theorem State.takeOn_refunds (s : State) (c : Cls) (req : Request) (parts : List Part) (ans : Option Answer) :
    (s.takeOn c req parts ans).refunds = s.refunds := rfl
@[simp] theorem State.takeOn_passes (s : State) (c : Cls) (req : Request) (parts : List Part) (ans : Option Answer) :
    (s.takeOn c req parts ans).passes = s.passes := rfl
@[simp] theorem State.takeOn_purse (s : State) (c : Cls) (req : Request) (parts : List Part) (ans : Option Answer) :
    (s.takeOn c req parts ans).purse = s.purse := rfl
@[simp] theorem State.takeOn_log (s : State) (c : Cls) (req : Request) (parts : List Part) (ans : Option Answer) :
    (s.takeOn c req parts ans).log = s.log := rfl
@[simp] theorem State.takeOn_placement (s : State) (c : Cls) (req : Request) (parts : List Part) (ans : Option Answer) :
    (s.takeOn c req parts ans).placement = s.placement := rfl
@[simp] theorem State.takeOn_orders (s : State) (c : Cls) (req : Request) (parts : List Part) (ans : Option Answer) :
    (s.takeOn c req parts ans).orders = s.orders := rfl
@[simp] theorem State.takeOn_reports (s : State) (c : Cls) (req : Request) (parts : List Part) (ans : Option Answer) :
    (s.takeOn c req parts ans).reports = s.reports := rfl
@[simp] theorem State.takeOn_conds (s : State) (c : Cls) (req : Request) (parts : List Part) (ans : Option Answer) :
    (s.takeOn c req parts ans).conds = s.conds := rfl
@[simp] theorem State.takeOn_store (s : State) (c : Cls) (req : Request) (parts : List Part) (ans : Option Answer) :
    (s.takeOn c req parts ans).store = s.store := rfl

/-! ### latch -/

@[simp] theorem State.latch_pending (s : State) (r n : Nat) (v : Verdict) : (s.latch r n v).pending = s.pending := rfl
@[simp] theorem State.latch_emitted (s : State) (r n : Nat) (v : Verdict) : (s.latch r n v).emitted = s.emitted := rfl
@[simp] theorem State.latch_unit (s : State) (r n : Nat) (v : Verdict) : (s.latch r n v).unit = s.unit := rfl
@[simp] theorem State.latch_path (s : State) (r n : Nat) (v : Verdict) : (s.latch r n v).path = s.path := rfl
@[simp] theorem State.latch_keys (s : State) (r n : Nat) (v : Verdict) : (s.latch r n v).keys = s.keys := rfl
@[simp] theorem State.latch_engine (s : State) (r n : Nat) (v : Verdict) : (s.latch r n v).engine = s.engine := rfl
@[simp] theorem State.latch_clock (s : State) (r n : Nat) (v : Verdict) : (s.latch r n v).clock = s.clock := rfl
@[simp] theorem State.latch_fixtures (s : State) (r n : Nat) (v : Verdict) : (s.latch r n v).fixtures = s.fixtures := rfl
@[simp] theorem State.latch_refunds (s : State) (r n : Nat) (v : Verdict) : (s.latch r n v).refunds = s.refunds := rfl
@[simp] theorem State.latch_passes (s : State) (r n : Nat) (v : Verdict) : (s.latch r n v).passes = s.passes := rfl
@[simp] theorem State.latch_purse (s : State) (r n : Nat) (v : Verdict) : (s.latch r n v).purse = s.purse := rfl
@[simp] theorem State.latch_log (s : State) (r n : Nat) (v : Verdict) : (s.latch r n v).log = s.log := rfl
@[simp] theorem State.latch_placement (s : State) (r n : Nat) (v : Verdict) : (s.latch r n v).placement = s.placement := rfl
@[simp] theorem State.latch_orders (s : State) (r n : Nat) (v : Verdict) : (s.latch r n v).orders = s.orders := rfl
@[simp] theorem State.latch_reports (s : State) (r n : Nat) (v : Verdict) : (s.latch r n v).reports = s.reports := rfl
@[simp] theorem State.latch_conds (s : State) (r n : Nat) (v : Verdict) : (s.latch r n v).conds = s.conds := rfl
@[simp] theorem State.latch_store (s : State) (r n : Nat) (v : Verdict) : (s.latch r n v).store = s.store := rfl

/-! ### trackWrite -/

@[simp] theorem State.trackWrite_pending (s : State) (touched : List (Nat × Nat)) (whole : Option (Nat × Nat)) (cell : List Byte) :
    (s.trackWrite touched whole cell).pending = s.pending := rfl
@[simp] theorem State.trackWrite_emitted (s : State) (touched : List (Nat × Nat)) (whole : Option (Nat × Nat)) (cell : List Byte) :
    (s.trackWrite touched whole cell).emitted = s.emitted := rfl
@[simp] theorem State.trackWrite_unit (s : State) (touched : List (Nat × Nat)) (whole : Option (Nat × Nat)) (cell : List Byte) :
    (s.trackWrite touched whole cell).unit = s.unit := rfl
@[simp] theorem State.trackWrite_path (s : State) (touched : List (Nat × Nat)) (whole : Option (Nat × Nat)) (cell : List Byte) :
    (s.trackWrite touched whole cell).path = { s.path with inflight := s.path.inflight.map (fun e => { e with parts := e.parts.map (Part.stale touched) }) } := rfl
@[simp] theorem State.trackWrite_slots (s : State) (touched : List (Nat × Nat)) (whole : Option (Nat × Nat)) (cell : List Byte) :
    (s.trackWrite touched whole cell).slots = s.slots.map (Slot.afterWrite touched whole cell) := rfl
@[simp] theorem State.trackWrite_keys (s : State) (touched : List (Nat × Nat)) (whole : Option (Nat × Nat)) (cell : List Byte) :
    (s.trackWrite touched whole cell).keys = s.keys := rfl
@[simp] theorem State.trackWrite_engine (s : State) (touched : List (Nat × Nat)) (whole : Option (Nat × Nat)) (cell : List Byte) :
    (s.trackWrite touched whole cell).engine = s.engine := rfl
@[simp] theorem State.trackWrite_clock (s : State) (touched : List (Nat × Nat)) (whole : Option (Nat × Nat)) (cell : List Byte) :
    (s.trackWrite touched whole cell).clock = s.clock := rfl
@[simp] theorem State.trackWrite_fixtures (s : State) (touched : List (Nat × Nat)) (whole : Option (Nat × Nat)) (cell : List Byte) :
    (s.trackWrite touched whole cell).fixtures = s.fixtures := rfl
@[simp] theorem State.trackWrite_refunds (s : State) (touched : List (Nat × Nat)) (whole : Option (Nat × Nat)) (cell : List Byte) :
    (s.trackWrite touched whole cell).refunds = s.refunds := rfl
@[simp] theorem State.trackWrite_passes (s : State) (touched : List (Nat × Nat)) (whole : Option (Nat × Nat)) (cell : List Byte) :
    (s.trackWrite touched whole cell).passes = s.passes := rfl
@[simp] theorem State.trackWrite_purse (s : State) (touched : List (Nat × Nat)) (whole : Option (Nat × Nat)) (cell : List Byte) :
    (s.trackWrite touched whole cell).purse = s.purse := rfl
@[simp] theorem State.trackWrite_log (s : State) (touched : List (Nat × Nat)) (whole : Option (Nat × Nat)) (cell : List Byte) :
    (s.trackWrite touched whole cell).log = s.log := rfl
@[simp] theorem State.trackWrite_placement (s : State) (touched : List (Nat × Nat)) (whole : Option (Nat × Nat)) (cell : List Byte) :
    (s.trackWrite touched whole cell).placement = s.placement := rfl
@[simp] theorem State.trackWrite_orders (s : State) (touched : List (Nat × Nat)) (whole : Option (Nat × Nat)) (cell : List Byte) :
    (s.trackWrite touched whole cell).orders = s.orders := rfl
@[simp] theorem State.trackWrite_reports (s : State) (touched : List (Nat × Nat)) (whole : Option (Nat × Nat)) (cell : List Byte) :
    (s.trackWrite touched whole cell).reports = s.reports := rfl
@[simp] theorem State.trackWrite_conds (s : State) (touched : List (Nat × Nat)) (whole : Option (Nat × Nat)) (cell : List Byte) :
    (s.trackWrite touched whole cell).conds = s.conds := rfl
@[simp] theorem State.trackWrite_store (s : State) (touched : List (Nat × Nat)) (whole : Option (Nat × Nat)) (cell : List Byte) :
    (s.trackWrite touched whole cell).store = s.store := rfl

/-! ### updateKey -/

@[simp] theorem State.updateKey_pending (s : State) (svc : Service) (f : KeyEntry → Option KeyEntry) : (s.updateKey svc f).pending = s.pending := rfl
@[simp] theorem State.updateKey_emitted (s : State) (svc : Service) (f : KeyEntry → Option KeyEntry) : (s.updateKey svc f).emitted = s.emitted := rfl
@[simp] theorem State.updateKey_unit (s : State) (svc : Service) (f : KeyEntry → Option KeyEntry) : (s.updateKey svc f).unit = s.unit := rfl
@[simp] theorem State.updateKey_path (s : State) (svc : Service) (f : KeyEntry → Option KeyEntry) : (s.updateKey svc f).path = s.path := rfl
@[simp] theorem State.updateKey_slots (s : State) (svc : Service) (f : KeyEntry → Option KeyEntry) : (s.updateKey svc f).slots = s.slots := rfl
@[simp] theorem State.updateKey_keys (s : State) (svc : Service) (f : KeyEntry → Option KeyEntry) :
    (s.updateKey svc f).keys = tableUpdate s.keys (fun e => e.service == svc) f := rfl
@[simp] theorem State.updateKey_engine (s : State) (svc : Service) (f : KeyEntry → Option KeyEntry) : (s.updateKey svc f).engine = s.engine := rfl
@[simp] theorem State.updateKey_clock (s : State) (svc : Service) (f : KeyEntry → Option KeyEntry) : (s.updateKey svc f).clock = s.clock := rfl
@[simp] theorem State.updateKey_fixtures (s : State) (svc : Service) (f : KeyEntry → Option KeyEntry) :
    (s.updateKey svc f).fixtures = s.fixtures := rfl
@[simp] theorem State.updateKey_refunds (s : State) (svc : Service) (f : KeyEntry → Option KeyEntry) : (s.updateKey svc f).refunds = s.refunds := rfl
@[simp] theorem State.updateKey_passes (s : State) (svc : Service) (f : KeyEntry → Option KeyEntry) : (s.updateKey svc f).passes = s.passes := rfl
@[simp] theorem State.updateKey_purse (s : State) (svc : Service) (f : KeyEntry → Option KeyEntry) : (s.updateKey svc f).purse = s.purse := rfl
@[simp] theorem State.updateKey_log (s : State) (svc : Service) (f : KeyEntry → Option KeyEntry) : (s.updateKey svc f).log = s.log := rfl
@[simp] theorem State.updateKey_placement (s : State) (svc : Service) (f : KeyEntry → Option KeyEntry) :
    (s.updateKey svc f).placement = s.placement := rfl
@[simp] theorem State.updateKey_orders (s : State) (svc : Service) (f : KeyEntry → Option KeyEntry) : (s.updateKey svc f).orders = s.orders := rfl
@[simp] theorem State.updateKey_reports (s : State) (svc : Service) (f : KeyEntry → Option KeyEntry) : (s.updateKey svc f).reports = s.reports := rfl
@[simp] theorem State.updateKey_conds (s : State) (svc : Service) (f : KeyEntry → Option KeyEntry) : (s.updateKey svc f).conds = s.conds := rfl
@[simp] theorem State.updateKey_store (s : State) (svc : Service) (f : KeyEntry → Option KeyEntry) : (s.updateKey svc f).store = s.store := rfl

/-! ### enqueue -/

@[simp] theorem State.enqueue_pending (s : State) (c : QCell) : (s.enqueue c).pending = s.pending := rfl
@[simp] theorem State.enqueue_emitted (s : State) (c : QCell) : (s.enqueue c).emitted = s.emitted := rfl
@[simp] theorem State.enqueue_unit (s : State) (c : QCell) : (s.enqueue c).unit = s.unit := rfl
@[simp] theorem State.enqueue_path (s : State) (c : QCell) : (s.enqueue c).path = s.path := rfl
@[simp] theorem State.enqueue_slots (s : State) (c : QCell) : (s.enqueue c).slots = s.slots := rfl
@[simp] theorem State.enqueue_keys (s : State) (c : QCell) : (s.enqueue c).keys = s.keys := rfl
@[simp] theorem State.enqueue_clock (s : State) (c : QCell) : (s.enqueue c).clock = s.clock := rfl
@[simp] theorem State.enqueue_fixtures (s : State) (c : QCell) : (s.enqueue c).fixtures = s.fixtures := rfl
@[simp] theorem State.enqueue_refunds (s : State) (c : QCell) : (s.enqueue c).refunds = s.refunds := rfl
@[simp] theorem State.enqueue_passes (s : State) (c : QCell) : (s.enqueue c).passes = s.passes := rfl
@[simp] theorem State.enqueue_purse (s : State) (c : QCell) : (s.enqueue c).purse = s.purse := rfl
@[simp] theorem State.enqueue_log (s : State) (c : QCell) : (s.enqueue c).log = s.log := rfl
@[simp] theorem State.enqueue_placement (s : State) (c : QCell) : (s.enqueue c).placement = s.placement := rfl
@[simp] theorem State.enqueue_orders (s : State) (c : QCell) : (s.enqueue c).orders = s.orders := rfl
@[simp] theorem State.enqueue_reports (s : State) (c : QCell) : (s.enqueue c).reports = s.reports := rfl
@[simp] theorem State.enqueue_conds (s : State) (c : QCell) : (s.enqueue c).conds = s.conds := rfl
@[simp] theorem State.enqueue_store (s : State) (c : QCell) : (s.enqueue c).store = s.store := rfl

/-! ### popCell -/

@[simp] theorem State.popCell_pending (s : State) : (s.popCell).pending = s.pending := rfl
@[simp] theorem State.popCell_emitted (s : State) : (s.popCell).emitted = s.emitted := rfl
@[simp] theorem State.popCell_unit (s : State) : (s.popCell).unit = s.unit := rfl
@[simp] theorem State.popCell_path (s : State) : (s.popCell).path = s.path := rfl
@[simp] theorem State.popCell_slots (s : State) : (s.popCell).slots = s.slots := rfl
@[simp] theorem State.popCell_keys (s : State) : (s.popCell).keys = s.keys := rfl
@[simp] theorem State.popCell_engine (s : State) :
    (s.popCell).engine = { queue := s.engine.queue.tail, headKey := s.headKeyFor s.engine.queue.tail } := rfl
@[simp] theorem State.popCell_clock (s : State) : (s.popCell).clock = s.clock := rfl
@[simp] theorem State.popCell_fixtures (s : State) : (s.popCell).fixtures = s.fixtures := rfl
@[simp] theorem State.popCell_refunds (s : State) : (s.popCell).refunds = s.refunds := rfl
@[simp] theorem State.popCell_passes (s : State) : (s.popCell).passes = s.passes := rfl
@[simp] theorem State.popCell_purse (s : State) : (s.popCell).purse = s.purse := rfl
@[simp] theorem State.popCell_log (s : State) : (s.popCell).log = s.log := rfl
@[simp] theorem State.popCell_placement (s : State) : (s.popCell).placement = s.placement := rfl
@[simp] theorem State.popCell_orders (s : State) : (s.popCell).orders = s.orders := rfl
@[simp] theorem State.popCell_reports (s : State) : (s.popCell).reports = s.reports := rfl
@[simp] theorem State.popCell_conds (s : State) : (s.popCell).conds = s.conds := rfl
@[simp] theorem State.popCell_store (s : State) : (s.popCell).store = s.store := rfl

/-! ### setFixtures -/

@[simp] theorem State.setFixtures_pending (s : State) (t : List (Option FixtureEntry)) : (s.setFixtures t).pending = s.pending := rfl
@[simp] theorem State.setFixtures_emitted (s : State) (t : List (Option FixtureEntry)) : (s.setFixtures t).emitted = s.emitted := rfl
@[simp] theorem State.setFixtures_unit (s : State) (t : List (Option FixtureEntry)) : (s.setFixtures t).unit = s.unit := rfl
@[simp] theorem State.setFixtures_path (s : State) (t : List (Option FixtureEntry)) : (s.setFixtures t).path = s.path := rfl
@[simp] theorem State.setFixtures_slots (s : State) (t : List (Option FixtureEntry)) : (s.setFixtures t).slots = s.slots := rfl
@[simp] theorem State.setFixtures_keys (s : State) (t : List (Option FixtureEntry)) : (s.setFixtures t).keys = s.keys := rfl
@[simp] theorem State.setFixtures_engine (s : State) (t : List (Option FixtureEntry)) : (s.setFixtures t).engine = s.engine := rfl
@[simp] theorem State.setFixtures_clock (s : State) (t : List (Option FixtureEntry)) : (s.setFixtures t).clock = s.clock := rfl
@[simp] theorem State.setFixtures_fixtures (s : State) (t : List (Option FixtureEntry)) : (s.setFixtures t).fixtures = t := rfl
@[simp] theorem State.setFixtures_refunds (s : State) (t : List (Option FixtureEntry)) : (s.setFixtures t).refunds = s.refunds := rfl
@[simp] theorem State.setFixtures_passes (s : State) (t : List (Option FixtureEntry)) : (s.setFixtures t).passes = s.passes := rfl
@[simp] theorem State.setFixtures_purse (s : State) (t : List (Option FixtureEntry)) : (s.setFixtures t).purse = s.purse := rfl
@[simp] theorem State.setFixtures_log (s : State) (t : List (Option FixtureEntry)) : (s.setFixtures t).log = s.log := rfl
@[simp] theorem State.setFixtures_placement (s : State) (t : List (Option FixtureEntry)) : (s.setFixtures t).placement = s.placement := rfl
@[simp] theorem State.setFixtures_orders (s : State) (t : List (Option FixtureEntry)) : (s.setFixtures t).orders = s.orders := rfl
@[simp] theorem State.setFixtures_reports (s : State) (t : List (Option FixtureEntry)) : (s.setFixtures t).reports = s.reports := rfl
@[simp] theorem State.setFixtures_conds (s : State) (t : List (Option FixtureEntry)) : (s.setFixtures t).conds = s.conds := rfl

/-! ### updateFixture -/

@[simp] theorem State.updateFixture_pending (s : State) (t : Tag) (f : FixtureEntry → FixtureEntry) : (s.updateFixture t f).pending = s.pending := rfl
@[simp] theorem State.updateFixture_emitted (s : State) (t : Tag) (f : FixtureEntry → FixtureEntry) : (s.updateFixture t f).emitted = s.emitted := rfl
@[simp] theorem State.updateFixture_unit (s : State) (t : Tag) (f : FixtureEntry → FixtureEntry) : (s.updateFixture t f).unit = s.unit := rfl
@[simp] theorem State.updateFixture_path (s : State) (t : Tag) (f : FixtureEntry → FixtureEntry) : (s.updateFixture t f).path = s.path := rfl
@[simp] theorem State.updateFixture_slots (s : State) (t : Tag) (f : FixtureEntry → FixtureEntry) : (s.updateFixture t f).slots = s.slots := rfl
@[simp] theorem State.updateFixture_keys (s : State) (t : Tag) (f : FixtureEntry → FixtureEntry) : (s.updateFixture t f).keys = s.keys := rfl
@[simp] theorem State.updateFixture_engine (s : State) (t : Tag) (f : FixtureEntry → FixtureEntry) : (s.updateFixture t f).engine = s.engine := rfl
@[simp] theorem State.updateFixture_clock (s : State) (t : Tag) (f : FixtureEntry → FixtureEntry) : (s.updateFixture t f).clock = s.clock := rfl
@[simp] theorem State.updateFixture_fixtures (s : State) (t : Tag) (f : FixtureEntry → FixtureEntry) :
    (s.updateFixture t f).fixtures = tableUpdate s.fixtures (fun e => e.tag == t) (fun e => some (f e)) := rfl
@[simp] theorem State.updateFixture_refunds (s : State) (t : Tag) (f : FixtureEntry → FixtureEntry) : (s.updateFixture t f).refunds = s.refunds := rfl
@[simp] theorem State.updateFixture_passes (s : State) (t : Tag) (f : FixtureEntry → FixtureEntry) : (s.updateFixture t f).passes = s.passes := rfl
@[simp] theorem State.updateFixture_purse (s : State) (t : Tag) (f : FixtureEntry → FixtureEntry) : (s.updateFixture t f).purse = s.purse := rfl
@[simp] theorem State.updateFixture_log (s : State) (t : Tag) (f : FixtureEntry → FixtureEntry) : (s.updateFixture t f).log = s.log := rfl
@[simp] theorem State.updateFixture_placement (s : State) (t : Tag) (f : FixtureEntry → FixtureEntry) :
    (s.updateFixture t f).placement = s.placement := rfl
@[simp] theorem State.updateFixture_orders (s : State) (t : Tag) (f : FixtureEntry → FixtureEntry) : (s.updateFixture t f).orders = s.orders := rfl
@[simp] theorem State.updateFixture_reports (s : State) (t : Tag) (f : FixtureEntry → FixtureEntry) : (s.updateFixture t f).reports = s.reports := rfl
@[simp] theorem State.updateFixture_conds (s : State) (t : Tag) (f : FixtureEntry → FixtureEntry) : (s.updateFixture t f).conds = s.conds := rfl

/-! ### removeFixtures -/

@[simp] theorem State.removeFixtures_pending (s : State) (p : FixtureEntry → Bool) : (s.removeFixtures p).pending = s.pending := rfl
@[simp] theorem State.removeFixtures_emitted (s : State) (p : FixtureEntry → Bool) : (s.removeFixtures p).emitted = s.emitted := rfl
@[simp] theorem State.removeFixtures_unit (s : State) (p : FixtureEntry → Bool) : (s.removeFixtures p).unit = s.unit := rfl
@[simp] theorem State.removeFixtures_path (s : State) (p : FixtureEntry → Bool) : (s.removeFixtures p).path = s.path := rfl
@[simp] theorem State.removeFixtures_slots (s : State) (p : FixtureEntry → Bool) : (s.removeFixtures p).slots = s.slots := rfl
@[simp] theorem State.removeFixtures_keys (s : State) (p : FixtureEntry → Bool) : (s.removeFixtures p).keys = s.keys := rfl
@[simp] theorem State.removeFixtures_engine (s : State) (p : FixtureEntry → Bool) : (s.removeFixtures p).engine = s.engine := rfl
@[simp] theorem State.removeFixtures_clock (s : State) (p : FixtureEntry → Bool) : (s.removeFixtures p).clock = s.clock := rfl
@[simp] theorem State.removeFixtures_fixtures (s : State) (p : FixtureEntry → Bool) :
    (s.removeFixtures p).fixtures = tableUpdate s.fixtures p (fun _ => none) := rfl
@[simp] theorem State.removeFixtures_refunds (s : State) (p : FixtureEntry → Bool) : (s.removeFixtures p).refunds = s.refunds := rfl
@[simp] theorem State.removeFixtures_passes (s : State) (p : FixtureEntry → Bool) : (s.removeFixtures p).passes = s.passes := rfl
@[simp] theorem State.removeFixtures_purse (s : State) (p : FixtureEntry → Bool) : (s.removeFixtures p).purse = s.purse := rfl
@[simp] theorem State.removeFixtures_log (s : State) (p : FixtureEntry → Bool) : (s.removeFixtures p).log = s.log := rfl
@[simp] theorem State.removeFixtures_placement (s : State) (p : FixtureEntry → Bool) : (s.removeFixtures p).placement = s.placement := rfl
@[simp] theorem State.removeFixtures_orders (s : State) (p : FixtureEntry → Bool) : (s.removeFixtures p).orders = s.orders := rfl
@[simp] theorem State.removeFixtures_reports (s : State) (p : FixtureEntry → Bool) : (s.removeFixtures p).reports = s.reports := rfl
@[simp] theorem State.removeFixtures_conds (s : State) (p : FixtureEntry → Bool) : (s.removeFixtures p).conds = s.conds := rfl

/-! ### setRefunds -/

@[simp] theorem State.setRefunds_pending (s : State) (q : List Tag) : (s.setRefunds q).pending = s.pending := rfl
@[simp] theorem State.setRefunds_emitted (s : State) (q : List Tag) : (s.setRefunds q).emitted = s.emitted := rfl
@[simp] theorem State.setRefunds_unit (s : State) (q : List Tag) : (s.setRefunds q).unit = s.unit := rfl
@[simp] theorem State.setRefunds_path (s : State) (q : List Tag) : (s.setRefunds q).path = s.path := rfl
@[simp] theorem State.setRefunds_slots (s : State) (q : List Tag) : (s.setRefunds q).slots = s.slots := rfl
@[simp] theorem State.setRefunds_keys (s : State) (q : List Tag) : (s.setRefunds q).keys = s.keys := rfl
@[simp] theorem State.setRefunds_engine (s : State) (q : List Tag) : (s.setRefunds q).engine = s.engine := rfl
@[simp] theorem State.setRefunds_clock (s : State) (q : List Tag) : (s.setRefunds q).clock = s.clock := rfl
@[simp] theorem State.setRefunds_fixtures (s : State) (q : List Tag) : (s.setRefunds q).fixtures = s.fixtures := rfl
@[simp] theorem State.setRefunds_refunds (s : State) (q : List Tag) : (s.setRefunds q).refunds = q := rfl
@[simp] theorem State.setRefunds_passes (s : State) (q : List Tag) : (s.setRefunds q).passes = s.passes := rfl
@[simp] theorem State.setRefunds_purse (s : State) (q : List Tag) : (s.setRefunds q).purse = s.purse := rfl
@[simp] theorem State.setRefunds_log (s : State) (q : List Tag) : (s.setRefunds q).log = s.log := rfl
@[simp] theorem State.setRefunds_placement (s : State) (q : List Tag) : (s.setRefunds q).placement = s.placement := rfl
@[simp] theorem State.setRefunds_orders (s : State) (q : List Tag) : (s.setRefunds q).orders = s.orders := rfl
@[simp] theorem State.setRefunds_reports (s : State) (q : List Tag) : (s.setRefunds q).reports = s.reports := rfl
@[simp] theorem State.setRefunds_conds (s : State) (q : List Tag) : (s.setRefunds q).conds = s.conds := rfl

/-! ### setPasses -/

@[simp] theorem State.setPasses_pending (s : State) (t : List (Option PassEntry)) : (s.setPasses t).pending = s.pending := rfl
@[simp] theorem State.setPasses_emitted (s : State) (t : List (Option PassEntry)) : (s.setPasses t).emitted = s.emitted := rfl
@[simp] theorem State.setPasses_unit (s : State) (t : List (Option PassEntry)) : (s.setPasses t).unit = s.unit := rfl
@[simp] theorem State.setPasses_path (s : State) (t : List (Option PassEntry)) : (s.setPasses t).path = s.path := rfl
@[simp] theorem State.setPasses_slots (s : State) (t : List (Option PassEntry)) : (s.setPasses t).slots = s.slots := rfl
@[simp] theorem State.setPasses_keys (s : State) (t : List (Option PassEntry)) : (s.setPasses t).keys = s.keys := rfl
@[simp] theorem State.setPasses_engine (s : State) (t : List (Option PassEntry)) : (s.setPasses t).engine = s.engine := rfl
@[simp] theorem State.setPasses_clock (s : State) (t : List (Option PassEntry)) : (s.setPasses t).clock = s.clock := rfl
@[simp] theorem State.setPasses_fixtures (s : State) (t : List (Option PassEntry)) : (s.setPasses t).fixtures = s.fixtures := rfl
@[simp] theorem State.setPasses_refunds (s : State) (t : List (Option PassEntry)) : (s.setPasses t).refunds = s.refunds := rfl
@[simp] theorem State.setPasses_passes (s : State) (t : List (Option PassEntry)) : (s.setPasses t).passes = t := rfl
@[simp] theorem State.setPasses_purse (s : State) (t : List (Option PassEntry)) : (s.setPasses t).purse = s.purse := rfl
@[simp] theorem State.setPasses_log (s : State) (t : List (Option PassEntry)) : (s.setPasses t).log = s.log := rfl
@[simp] theorem State.setPasses_placement (s : State) (t : List (Option PassEntry)) : (s.setPasses t).placement = s.placement := rfl
@[simp] theorem State.setPasses_orders (s : State) (t : List (Option PassEntry)) : (s.setPasses t).orders = s.orders := rfl
@[simp] theorem State.setPasses_reports (s : State) (t : List (Option PassEntry)) : (s.setPasses t).reports = s.reports := rfl
@[simp] theorem State.setPasses_conds (s : State) (t : List (Option PassEntry)) : (s.setPasses t).conds = s.conds := rfl

/-! ### updatePass -/

@[simp] theorem State.updatePass_pending (s : State) (id : PassId) (f : PassEntry → PassEntry) : (s.updatePass id f).pending = s.pending := rfl
@[simp] theorem State.updatePass_emitted (s : State) (id : PassId) (f : PassEntry → PassEntry) : (s.updatePass id f).emitted = s.emitted := rfl
@[simp] theorem State.updatePass_unit (s : State) (id : PassId) (f : PassEntry → PassEntry) : (s.updatePass id f).unit = s.unit := rfl
@[simp] theorem State.updatePass_path (s : State) (id : PassId) (f : PassEntry → PassEntry) : (s.updatePass id f).path = s.path := rfl
@[simp] theorem State.updatePass_slots (s : State) (id : PassId) (f : PassEntry → PassEntry) : (s.updatePass id f).slots = s.slots := rfl
@[simp] theorem State.updatePass_keys (s : State) (id : PassId) (f : PassEntry → PassEntry) : (s.updatePass id f).keys = s.keys := rfl
@[simp] theorem State.updatePass_engine (s : State) (id : PassId) (f : PassEntry → PassEntry) : (s.updatePass id f).engine = s.engine := rfl
@[simp] theorem State.updatePass_clock (s : State) (id : PassId) (f : PassEntry → PassEntry) : (s.updatePass id f).clock = s.clock := rfl
@[simp] theorem State.updatePass_fixtures (s : State) (id : PassId) (f : PassEntry → PassEntry) : (s.updatePass id f).fixtures = s.fixtures := rfl
@[simp] theorem State.updatePass_refunds (s : State) (id : PassId) (f : PassEntry → PassEntry) : (s.updatePass id f).refunds = s.refunds := rfl
@[simp] theorem State.updatePass_passes (s : State) (id : PassId) (f : PassEntry → PassEntry) :
    (s.updatePass id f).passes = tableUpdate s.passes (fun p => p.id == id) (fun p => some (f p)) := rfl
@[simp] theorem State.updatePass_purse (s : State) (id : PassId) (f : PassEntry → PassEntry) : (s.updatePass id f).purse = s.purse := rfl
@[simp] theorem State.updatePass_log (s : State) (id : PassId) (f : PassEntry → PassEntry) : (s.updatePass id f).log = s.log := rfl
@[simp] theorem State.updatePass_placement (s : State) (id : PassId) (f : PassEntry → PassEntry) : (s.updatePass id f).placement = s.placement := rfl
@[simp] theorem State.updatePass_orders (s : State) (id : PassId) (f : PassEntry → PassEntry) : (s.updatePass id f).orders = s.orders := rfl
@[simp] theorem State.updatePass_reports (s : State) (id : PassId) (f : PassEntry → PassEntry) : (s.updatePass id f).reports = s.reports := rfl
@[simp] theorem State.updatePass_conds (s : State) (id : PassId) (f : PassEntry → PassEntry) : (s.updatePass id f).conds = s.conds := rfl

/-! ### setPurse -/

@[simp] theorem State.setPurse_pending (s : State) (p : Purse) : (s.setPurse p).pending = s.pending := rfl
@[simp] theorem State.setPurse_emitted (s : State) (p : Purse) : (s.setPurse p).emitted = s.emitted := rfl
@[simp] theorem State.setPurse_unit (s : State) (p : Purse) : (s.setPurse p).unit = s.unit := rfl
@[simp] theorem State.setPurse_path (s : State) (p : Purse) : (s.setPurse p).path = s.path := rfl
@[simp] theorem State.setPurse_slots (s : State) (p : Purse) : (s.setPurse p).slots = s.slots := rfl
@[simp] theorem State.setPurse_keys (s : State) (p : Purse) : (s.setPurse p).keys = s.keys := rfl
@[simp] theorem State.setPurse_engine (s : State) (p : Purse) : (s.setPurse p).engine = s.engine := rfl
@[simp] theorem State.setPurse_clock (s : State) (p : Purse) : (s.setPurse p).clock = s.clock := rfl
@[simp] theorem State.setPurse_fixtures (s : State) (p : Purse) : (s.setPurse p).fixtures = s.fixtures := rfl
@[simp] theorem State.setPurse_refunds (s : State) (p : Purse) : (s.setPurse p).refunds = s.refunds := rfl
@[simp] theorem State.setPurse_passes (s : State) (p : Purse) : (s.setPurse p).passes = s.passes := rfl
@[simp] theorem State.setPurse_purse (s : State) (p : Purse) : (s.setPurse p).purse = p := rfl
@[simp] theorem State.setPurse_log (s : State) (p : Purse) : (s.setPurse p).log = s.log := rfl
@[simp] theorem State.setPurse_placement (s : State) (p : Purse) : (s.setPurse p).placement = s.placement := rfl
@[simp] theorem State.setPurse_orders (s : State) (p : Purse) : (s.setPurse p).orders = s.orders := rfl
@[simp] theorem State.setPurse_reports (s : State) (p : Purse) : (s.setPurse p).reports = s.reports := rfl
@[simp] theorem State.setPurse_conds (s : State) (p : Purse) : (s.setPurse p).conds = s.conds := rfl

/-! ### addEntry -/

@[simp] theorem State.addEntry_pending (s : State) (kind : LogKind) (ident : BitVec 16) (amount : Credit) :
    (s.addEntry kind ident amount).pending = s.pending := rfl
@[simp] theorem State.addEntry_emitted (s : State) (kind : LogKind) (ident : BitVec 16) (amount : Credit) :
    (s.addEntry kind ident amount).emitted = s.emitted := rfl
@[simp] theorem State.addEntry_unit (s : State) (kind : LogKind) (ident : BitVec 16) (amount : Credit) :
    (s.addEntry kind ident amount).unit = s.unit := rfl
@[simp] theorem State.addEntry_path (s : State) (kind : LogKind) (ident : BitVec 16) (amount : Credit) :
    (s.addEntry kind ident amount).path = s.path := rfl
@[simp] theorem State.addEntry_slots (s : State) (kind : LogKind) (ident : BitVec 16) (amount : Credit) :
    (s.addEntry kind ident amount).slots = s.slots := rfl
@[simp] theorem State.addEntry_keys (s : State) (kind : LogKind) (ident : BitVec 16) (amount : Credit) :
    (s.addEntry kind ident amount).keys = s.keys := rfl
@[simp] theorem State.addEntry_engine (s : State) (kind : LogKind) (ident : BitVec 16) (amount : Credit) :
    (s.addEntry kind ident amount).engine = s.engine := rfl
@[simp] theorem State.addEntry_clock (s : State) (kind : LogKind) (ident : BitVec 16) (amount : Credit) :
    (s.addEntry kind ident amount).clock = s.clock := rfl
@[simp] theorem State.addEntry_fixtures (s : State) (kind : LogKind) (ident : BitVec 16) (amount : Credit) :
    (s.addEntry kind ident amount).fixtures = s.fixtures := rfl
@[simp] theorem State.addEntry_refunds (s : State) (kind : LogKind) (ident : BitVec 16) (amount : Credit) :
    (s.addEntry kind ident amount).refunds = s.refunds := rfl
@[simp] theorem State.addEntry_passes (s : State) (kind : LogKind) (ident : BitVec 16) (amount : Credit) :
    (s.addEntry kind ident amount).passes = s.passes := rfl
@[simp] theorem State.addEntry_purse (s : State) (kind : LogKind) (ident : BitVec 16) (amount : Credit) :
    (s.addEntry kind ident amount).purse = s.purse := rfl
@[simp] theorem State.addEntry_log (s : State) (kind : LogKind) (ident : BitVec 16) (amount : Credit) :
    (s.addEntry kind ident amount).log = ⟨s.log.entries ++ [{ seq := s.log.next, kind := kind, ident := ident, amount := amount, clock := s.now, balanceAfter := s.purse.balance }], s.log.next + 1⟩ := rfl
@[simp] theorem State.addEntry_placement (s : State) (kind : LogKind) (ident : BitVec 16) (amount : Credit) :
    (s.addEntry kind ident amount).placement = s.placement := rfl
@[simp] theorem State.addEntry_orders (s : State) (kind : LogKind) (ident : BitVec 16) (amount : Credit) :
    (s.addEntry kind ident amount).orders = s.orders := rfl
@[simp] theorem State.addEntry_reports (s : State) (kind : LogKind) (ident : BitVec 16) (amount : Credit) :
    (s.addEntry kind ident amount).reports = s.reports := rfl
@[simp] theorem State.addEntry_conds (s : State) (kind : LogKind) (ident : BitVec 16) (amount : Credit) :
    (s.addEntry kind ident amount).conds = s.conds := rfl

/-! ### refund -/

@[simp] theorem State.refund_pending (s : State) (cause : Cause) (t : Tag) (a : Credit) : (s.refund cause t a).pending = s.pending := rfl
@[simp] theorem State.refund_emitted (s : State) (cause : Cause) (t : Tag) (a : Credit) : (s.refund cause t a).emitted = s.emitted := rfl
@[simp] theorem State.refund_unit (s : State) (cause : Cause) (t : Tag) (a : Credit) : (s.refund cause t a).unit = s.unit := rfl
@[simp] theorem State.refund_path (s : State) (cause : Cause) (t : Tag) (a : Credit) : (s.refund cause t a).path = s.path := rfl
@[simp] theorem State.refund_slots (s : State) (cause : Cause) (t : Tag) (a : Credit) : (s.refund cause t a).slots = s.slots := rfl
@[simp] theorem State.refund_keys (s : State) (cause : Cause) (t : Tag) (a : Credit) : (s.refund cause t a).keys = s.keys := rfl
@[simp] theorem State.refund_engine (s : State) (cause : Cause) (t : Tag) (a : Credit) : (s.refund cause t a).engine = s.engine := rfl
@[simp] theorem State.refund_clock (s : State) (cause : Cause) (t : Tag) (a : Credit) : (s.refund cause t a).clock = s.clock := rfl
@[simp] theorem State.refund_fixtures (s : State) (cause : Cause) (t : Tag) (a : Credit) : (s.refund cause t a).fixtures = s.fixtures := rfl
@[simp] theorem State.refund_refunds (s : State) (cause : Cause) (t : Tag) (a : Credit) : (s.refund cause t a).refunds = s.refunds := rfl
@[simp] theorem State.refund_passes (s : State) (cause : Cause) (t : Tag) (a : Credit) : (s.refund cause t a).passes = s.passes := rfl
@[simp] theorem State.refund_purse (s : State) (cause : Cause) (t : Tag) (a : Credit) : (s.refund cause t a).purse = s.purse.refunded a := rfl
@[simp] theorem State.refund_log (s : State) (cause : Cause) (t : Tag) (a : Credit) :
    (s.refund cause t a).log = ⟨s.log.entries ++ [{ seq := s.log.next, kind := .refund cause, ident := t, amount := a, clock := s.now, balanceAfter := (s.purse.refunded a).balance }], s.log.next + 1⟩ := rfl
@[simp] theorem State.refund_placement (s : State) (cause : Cause) (t : Tag) (a : Credit) : (s.refund cause t a).placement = s.placement := rfl
@[simp] theorem State.refund_orders (s : State) (cause : Cause) (t : Tag) (a : Credit) : (s.refund cause t a).orders = s.orders := rfl
@[simp] theorem State.refund_reports (s : State) (cause : Cause) (t : Tag) (a : Credit) : (s.refund cause t a).reports = s.reports := rfl
@[simp] theorem State.refund_conds (s : State) (cause : Cause) (t : Tag) (a : Credit) : (s.refund cause t a).conds = s.conds := rfl

/-! ### serveTag -/

@[simp] theorem State.serveTag_pending (s : State) (t : Tag) (rest : List Tag) : (s.serveTag t rest).pending = s.pending := by simp [State.serveTag]
@[simp] theorem State.serveTag_emitted (s : State) (t : Tag) (rest : List Tag) : (s.serveTag t rest).emitted = s.emitted := by simp [State.serveTag]
@[simp] theorem State.serveTag_unit (s : State) (t : Tag) (rest : List Tag) : (s.serveTag t rest).unit = s.unit := by simp [State.serveTag]
@[simp] theorem State.serveTag_path (s : State) (t : Tag) (rest : List Tag) : (s.serveTag t rest).path = s.path := by simp [State.serveTag]
@[simp] theorem State.serveTag_slots (s : State) (t : Tag) (rest : List Tag) : (s.serveTag t rest).slots = s.slots := by simp [State.serveTag]
@[simp] theorem State.serveTag_keys (s : State) (t : Tag) (rest : List Tag) : (s.serveTag t rest).keys = s.keys := by simp [State.serveTag]
@[simp] theorem State.serveTag_engine (s : State) (t : Tag) (rest : List Tag) : (s.serveTag t rest).engine = s.engine := by simp [State.serveTag]
@[simp] theorem State.serveTag_clock (s : State) (t : Tag) (rest : List Tag) : (s.serveTag t rest).clock = s.clock := by simp [State.serveTag]
@[simp] theorem State.serveTag_fixtures (s : State) (t : Tag) (rest : List Tag) :
    (s.serveTag t rest).fixtures = tableUpdate s.fixtures (fun e => e.tag == t) (fun e => some { e with kind := .none, viewed := false }) := by simp [State.serveTag]
@[simp] theorem State.serveTag_refunds (s : State) (t : Tag) (rest : List Tag) : (s.serveTag t rest).refunds = rest := by simp [State.serveTag]
@[simp] theorem State.serveTag_passes (s : State) (t : Tag) (rest : List Tag) : (s.serveTag t rest).passes = s.passes := by simp [State.serveTag]
@[simp] theorem State.serveTag_placement (s : State) (t : Tag) (rest : List Tag) : (s.serveTag t rest).placement = s.placement := by simp [State.serveTag]
@[simp] theorem State.serveTag_orders (s : State) (t : Tag) (rest : List Tag) : (s.serveTag t rest).orders = s.orders := by simp [State.serveTag]
@[simp] theorem State.serveTag_reports (s : State) (t : Tag) (rest : List Tag) : (s.serveTag t rest).reports = s.reports := by simp [State.serveTag]
@[simp] theorem State.serveTag_conds (s : State) (t : Tag) (rest : List Tag) : (s.serveTag t rest).conds = s.conds := by simp [State.serveTag]

/-! ### removeEntries -/

@[simp] theorem State.removeEntries_pending (s : State) (k : Nat) : (s.removeEntries k).pending = s.pending := rfl
@[simp] theorem State.removeEntries_emitted (s : State) (k : Nat) : (s.removeEntries k).emitted = s.emitted := rfl
@[simp] theorem State.removeEntries_unit (s : State) (k : Nat) : (s.removeEntries k).unit = s.unit := rfl
@[simp] theorem State.removeEntries_path (s : State) (k : Nat) : (s.removeEntries k).path = s.path := rfl
@[simp] theorem State.removeEntries_slots (s : State) (k : Nat) : (s.removeEntries k).slots = s.slots := rfl
@[simp] theorem State.removeEntries_keys (s : State) (k : Nat) : (s.removeEntries k).keys = s.keys := rfl
@[simp] theorem State.removeEntries_engine (s : State) (k : Nat) : (s.removeEntries k).engine = s.engine := rfl
@[simp] theorem State.removeEntries_clock (s : State) (k : Nat) : (s.removeEntries k).clock = s.clock := rfl
@[simp] theorem State.removeEntries_fixtures (s : State) (k : Nat) : (s.removeEntries k).fixtures = s.fixtures := rfl
@[simp] theorem State.removeEntries_refunds (s : State) (k : Nat) : (s.removeEntries k).refunds = s.refunds := rfl
@[simp] theorem State.removeEntries_passes (s : State) (k : Nat) : (s.removeEntries k).passes = s.passes := rfl
@[simp] theorem State.removeEntries_purse (s : State) (k : Nat) :
    (s.removeEntries k).purse = { s.purse with reference := s.purse.reference + foldSum (s.log.entries.take k) } := rfl
@[simp] theorem State.removeEntries_log (s : State) (k : Nat) : (s.removeEntries k).log = { s.log with entries := s.log.entries.drop k } := rfl
@[simp] theorem State.removeEntries_placement (s : State) (k : Nat) : (s.removeEntries k).placement = s.placement := rfl
@[simp] theorem State.removeEntries_orders (s : State) (k : Nat) : (s.removeEntries k).orders = s.orders := rfl
@[simp] theorem State.removeEntries_reports (s : State) (k : Nat) : (s.removeEntries k).reports = s.reports := rfl
@[simp] theorem State.removeEntries_conds (s : State) (k : Nat) : (s.removeEntries k).conds = s.conds := rfl

/-! ### setRun -/

@[simp] theorem State.setRun_pending (s : State) (r : Option ArmingRun) : (s.setRun r).pending = s.pending := rfl
@[simp] theorem State.setRun_emitted (s : State) (r : Option ArmingRun) : (s.setRun r).emitted = s.emitted := rfl
@[simp] theorem State.setRun_unit (s : State) (r : Option ArmingRun) : (s.setRun r).unit = s.unit := rfl
@[simp] theorem State.setRun_path (s : State) (r : Option ArmingRun) : (s.setRun r).path = s.path := rfl
@[simp] theorem State.setRun_slots (s : State) (r : Option ArmingRun) : (s.setRun r).slots = s.slots := rfl
@[simp] theorem State.setRun_keys (s : State) (r : Option ArmingRun) : (s.setRun r).keys = s.keys := rfl
@[simp] theorem State.setRun_engine (s : State) (r : Option ArmingRun) : (s.setRun r).engine = s.engine := rfl
@[simp] theorem State.setRun_clock (s : State) (r : Option ArmingRun) : (s.setRun r).clock = s.clock := rfl
@[simp] theorem State.setRun_fixtures (s : State) (r : Option ArmingRun) : (s.setRun r).fixtures = s.fixtures := rfl
@[simp] theorem State.setRun_refunds (s : State) (r : Option ArmingRun) : (s.setRun r).refunds = s.refunds := rfl
@[simp] theorem State.setRun_passes (s : State) (r : Option ArmingRun) : (s.setRun r).passes = s.passes := rfl
@[simp] theorem State.setRun_purse (s : State) (r : Option ArmingRun) : (s.setRun r).purse = s.purse := rfl
@[simp] theorem State.setRun_log (s : State) (r : Option ArmingRun) : (s.setRun r).log = s.log := rfl
@[simp] theorem State.setRun_placement (s : State) (r : Option ArmingRun) : (s.setRun r).placement = { s.placement with run := r } := rfl
@[simp] theorem State.setRun_orders (s : State) (r : Option ArmingRun) : (s.setRun r).orders = s.orders := rfl
@[simp] theorem State.setRun_reports (s : State) (r : Option ArmingRun) : (s.setRun r).reports = s.reports := rfl
@[simp] theorem State.setRun_conds (s : State) (r : Option ArmingRun) : (s.setRun r).conds = s.conds := rfl
@[simp] theorem State.setRun_store (s : State) (r : Option ArmingRun) : (s.setRun r).store = s.store := rfl

/-! ### setStore -/

@[simp] theorem State.setStore_pending (s : State) (st : RetentionState) : (s.setStore st).pending = s.pending := rfl
@[simp] theorem State.setStore_emitted (s : State) (st : RetentionState) : (s.setStore st).emitted = s.emitted := rfl
@[simp] theorem State.setStore_unit (s : State) (st : RetentionState) : (s.setStore st).unit = s.unit := rfl
@[simp] theorem State.setStore_path (s : State) (st : RetentionState) : (s.setStore st).path = s.path := rfl
@[simp] theorem State.setStore_slots (s : State) (st : RetentionState) : (s.setStore st).slots = s.slots := rfl
@[simp] theorem State.setStore_keys (s : State) (st : RetentionState) : (s.setStore st).keys = s.keys := rfl
@[simp] theorem State.setStore_engine (s : State) (st : RetentionState) : (s.setStore st).engine = s.engine := rfl
@[simp] theorem State.setStore_clock (s : State) (st : RetentionState) : (s.setStore st).clock = s.clock := rfl
@[simp] theorem State.setStore_fixtures (s : State) (st : RetentionState) : (s.setStore st).fixtures = s.fixtures := rfl
@[simp] theorem State.setStore_refunds (s : State) (st : RetentionState) : (s.setStore st).refunds = s.refunds := rfl
@[simp] theorem State.setStore_passes (s : State) (st : RetentionState) : (s.setStore st).passes = s.passes := rfl
@[simp] theorem State.setStore_purse (s : State) (st : RetentionState) : (s.setStore st).purse = s.purse := rfl
@[simp] theorem State.setStore_log (s : State) (st : RetentionState) : (s.setStore st).log = s.log := rfl
@[simp] theorem State.setStore_placement (s : State) (st : RetentionState) : (s.setStore st).placement = s.placement := rfl
@[simp] theorem State.setStore_orders (s : State) (st : RetentionState) : (s.setStore st).orders = s.orders := rfl
@[simp] theorem State.setStore_reports (s : State) (st : RetentionState) : (s.setStore st).reports = s.reports := rfl
@[simp] theorem State.setStore_conds (s : State) (st : RetentionState) : (s.setStore st).conds = s.conds := rfl
@[simp] theorem State.setStore_store (s : State) (st : RetentionState) : (s.setStore st).store = { s.store with st := st } := rfl

/-! ### settleS2 -/

@[simp] theorem State.settleS2_pending (s : State) (b : Bool) (j : Judged S2Fields) : (s.settleS2 b j).pending = s.pending := rfl
@[simp] theorem State.settleS2_emitted (s : State) (b : Bool) (j : Judged S2Fields) : (s.settleS2 b j).emitted = s.emitted := rfl
@[simp] theorem State.settleS2_unit (s : State) (b : Bool) (j : Judged S2Fields) : (s.settleS2 b j).unit = s.unit := rfl
@[simp] theorem State.settleS2_path (s : State) (b : Bool) (j : Judged S2Fields) : (s.settleS2 b j).path = s.path := rfl
@[simp] theorem State.settleS2_slots (s : State) (b : Bool) (j : Judged S2Fields) : (s.settleS2 b j).slots = s.slots := rfl
@[simp] theorem State.settleS2_keys (s : State) (b : Bool) (j : Judged S2Fields) : (s.settleS2 b j).keys = s.keys := rfl
@[simp] theorem State.settleS2_engine (s : State) (b : Bool) (j : Judged S2Fields) : (s.settleS2 b j).engine = s.engine := rfl
@[simp] theorem State.settleS2_clock (s : State) (b : Bool) (j : Judged S2Fields) : (s.settleS2 b j).clock = s.clock := rfl
@[simp] theorem State.settleS2_fixtures (s : State) (b : Bool) (j : Judged S2Fields) : (s.settleS2 b j).fixtures = s.fixtures := rfl
@[simp] theorem State.settleS2_refunds (s : State) (b : Bool) (j : Judged S2Fields) : (s.settleS2 b j).refunds = s.refunds := rfl
@[simp] theorem State.settleS2_passes (s : State) (b : Bool) (j : Judged S2Fields) : (s.settleS2 b j).passes = s.passes := rfl
@[simp] theorem State.settleS2_purse (s : State) (b : Bool) (j : Judged S2Fields) : (s.settleS2 b j).purse = s.purse := rfl
@[simp] theorem State.settleS2_log (s : State) (b : Bool) (j : Judged S2Fields) : (s.settleS2 b j).log = s.log := rfl
@[simp] theorem State.settleS2_placement (s : State) (b : Bool) (j : Judged S2Fields) : (s.settleS2 b j).placement = s.placement := rfl
@[simp] theorem State.settleS2_orders (s : State) (b : Bool) (j : Judged S2Fields) : (s.settleS2 b j).orders = s.orders := rfl
@[simp] theorem State.settleS2_reports (s : State) (b : Bool) (j : Judged S2Fields) : (s.settleS2 b j).reports = s.reports := rfl
@[simp] theorem State.settleS2_conds (s : State) (b : Bool) (j : Judged S2Fields) : (s.settleS2 b j).conds = s.conds := rfl

/-! ### takeCredit -/

@[simp] theorem State.takeCredit_pending (s : State) (c : RestoredCredit) : (s.takeCredit c).pending = s.pending := rfl
@[simp] theorem State.takeCredit_emitted (s : State) (c : RestoredCredit) : (s.takeCredit c).emitted = s.emitted := rfl
@[simp] theorem State.takeCredit_unit (s : State) (c : RestoredCredit) : (s.takeCredit c).unit = s.unit := rfl
@[simp] theorem State.takeCredit_path (s : State) (c : RestoredCredit) : (s.takeCredit c).path = s.path := rfl
@[simp] theorem State.takeCredit_slots (s : State) (c : RestoredCredit) : (s.takeCredit c).slots = s.slots := rfl
@[simp] theorem State.takeCredit_keys (s : State) (c : RestoredCredit) : (s.takeCredit c).keys = s.keys := rfl
@[simp] theorem State.takeCredit_engine (s : State) (c : RestoredCredit) : (s.takeCredit c).engine = s.engine := rfl
@[simp] theorem State.takeCredit_clock (s : State) (c : RestoredCredit) : (s.takeCredit c).clock = s.clock := rfl
@[simp] theorem State.takeCredit_fixtures (s : State) (c : RestoredCredit) : (s.takeCredit c).fixtures = s.fixtures := rfl
@[simp] theorem State.takeCredit_refunds (s : State) (c : RestoredCredit) : (s.takeCredit c).refunds = s.refunds := rfl
@[simp] theorem State.takeCredit_passes (s : State) (c : RestoredCredit) : (s.takeCredit c).passes = s.passes := rfl
@[simp] theorem State.takeCredit_purse (s : State) (c : RestoredCredit) : (s.takeCredit c).purse = c.purse := rfl
@[simp] theorem State.takeCredit_log (s : State) (c : RestoredCredit) : (s.takeCredit c).log = c.log := rfl
@[simp] theorem State.takeCredit_placement (s : State) (c : RestoredCredit) : (s.takeCredit c).placement = s.placement := rfl
@[simp] theorem State.takeCredit_orders (s : State) (c : RestoredCredit) : (s.takeCredit c).orders = s.orders := rfl
@[simp] theorem State.takeCredit_reports (s : State) (c : RestoredCredit) : (s.takeCredit c).reports = s.reports := rfl
@[simp] theorem State.takeCredit_conds (s : State) (c : RestoredCredit) : (s.takeCredit c).conds = s.conds := rfl

/-! ### meterPreview -/

@[simp] theorem State.meterPreview_pending (s : State) : (s.meterPreview).pending = s.pending := rfl
@[simp] theorem State.meterPreview_emitted (s : State) : (s.meterPreview).emitted = s.emitted := rfl
@[simp] theorem State.meterPreview_unit (s : State) : (s.meterPreview).unit = s.unit := rfl
@[simp] theorem State.meterPreview_path (s : State) : (s.meterPreview).path = s.path := rfl
@[simp] theorem State.meterPreview_slots (s : State) : (s.meterPreview).slots = s.slots := rfl
@[simp] theorem State.meterPreview_keys (s : State) : (s.meterPreview).keys = s.keys := rfl
@[simp] theorem State.meterPreview_engine (s : State) : (s.meterPreview).engine = s.engine := rfl
@[simp] theorem State.meterPreview_clock (s : State) : (s.meterPreview).clock = s.clock := rfl
@[simp] theorem State.meterPreview_fixtures (s : State) : (s.meterPreview).fixtures = s.fixtures.map (Option.map FixtureEntry.meter) := rfl
@[simp] theorem State.meterPreview_refunds (s : State) : (s.meterPreview).refunds = s.refunds := rfl
@[simp] theorem State.meterPreview_passes (s : State) : (s.meterPreview).passes = s.passes := rfl
@[simp] theorem State.meterPreview_purse (s : State) : (s.meterPreview).purse = s.purse := rfl
@[simp] theorem State.meterPreview_log (s : State) : (s.meterPreview).log = s.log := rfl
@[simp] theorem State.meterPreview_placement (s : State) : (s.meterPreview).placement = s.placement := rfl
@[simp] theorem State.meterPreview_orders (s : State) : (s.meterPreview).orders = s.orders := rfl
@[simp] theorem State.meterPreview_reports (s : State) : (s.meterPreview).reports = s.reports := rfl
@[simp] theorem State.meterPreview_conds (s : State) : (s.meterPreview).conds = s.conds := rfl
@[simp] theorem State.meterPreview_store (s : State) : (s.meterPreview).store = s.store := rfl

/-! ### advancePhases -/

@[simp] theorem State.advancePhases_pending (s : State) (c : Seconds) : (s.advancePhases c).pending = s.pending := rfl
@[simp] theorem State.advancePhases_emitted (s : State) (c : Seconds) : (s.advancePhases c).emitted = s.emitted := rfl
@[simp] theorem State.advancePhases_unit (s : State) (c : Seconds) : (s.advancePhases c).unit = s.unit := rfl
@[simp] theorem State.advancePhases_path (s : State) (c : Seconds) : (s.advancePhases c).path = s.path := rfl
@[simp] theorem State.advancePhases_slots (s : State) (c : Seconds) : (s.advancePhases c).slots = s.slots := rfl
@[simp] theorem State.advancePhases_keys (s : State) (c : Seconds) : (s.advancePhases c).keys = s.keys := rfl
@[simp] theorem State.advancePhases_engine (s : State) (c : Seconds) : (s.advancePhases c).engine = s.engine := rfl
@[simp] theorem State.advancePhases_clock (s : State) (c : Seconds) : (s.advancePhases c).clock = s.clock := rfl
@[simp] theorem State.advancePhases_fixtures (s : State) (c : Seconds) :
    (s.advancePhases c).fixtures = s.fixtures.map (Option.map (FixtureEntry.advance c)) := rfl
@[simp] theorem State.advancePhases_refunds (s : State) (c : Seconds) : (s.advancePhases c).refunds = s.refunds := rfl
@[simp] theorem State.advancePhases_passes (s : State) (c : Seconds) : (s.advancePhases c).passes = s.passes := rfl
@[simp] theorem State.advancePhases_purse (s : State) (c : Seconds) : (s.advancePhases c).purse = s.purse := rfl
@[simp] theorem State.advancePhases_log (s : State) (c : Seconds) : (s.advancePhases c).log = s.log := rfl
@[simp] theorem State.advancePhases_placement (s : State) (c : Seconds) : (s.advancePhases c).placement = s.placement := rfl
@[simp] theorem State.advancePhases_orders (s : State) (c : Seconds) : (s.advancePhases c).orders = s.orders := rfl
@[simp] theorem State.advancePhases_reports (s : State) (c : Seconds) : (s.advancePhases c).reports = s.reports := rfl
@[simp] theorem State.advancePhases_conds (s : State) (c : Seconds) : (s.advancePhases c).conds = s.conds := rfl
@[simp] theorem State.advancePhases_store (s : State) (c : Seconds) : (s.advancePhases c).store = s.store := rfl

end Sys2Proof.Machine
end

