-- ==== Sys2Proof/Laws/Frames.lean ====
section
/-! SUPPORT. Frames: how they compose, and for each shared operation the blocks it may change. -/

namespace Sys2Proof.Machine

open Sys2Proof.Safety

/-! ### Composition -/

theorem sameBlock_refl (b : Block) (s : State) : sameBlock b s s := by cases b <;> rfl

theorem sameBlock_trans {b : Block} {s t u : State} (h : sameBlock b s t) (h' : sameBlock b t u) : sameBlock b s u := by
  cases b <;> exact Eq.trans h' h

theorem changesOnly_refl (bs : List Block) (s : State) : changesOnly bs s s := fun b _ => sameBlock_refl b s

theorem changesOnly_trans {bs : List Block} {s t u : State} (h : changesOnly bs s t) (h' : changesOnly bs t u) : changesOnly bs s u :=
  fun b hb => sameBlock_trans (h b hb) (h' b hb)

theorem changesOnly_mono {bs cs : List Block} {s t : State} (h : changesOnly bs s t) (hs : ∀ b ∈ bs, b ∈ cs) : changesOnly cs s t :=
  fun b hb => h b (fun hm => hb (hs b hm))

/-- A frame for a case split that ends in the state itself on one side. -/
theorem changesOnly_ite {bs : List Block} {s t u : State} {c : Prop} [Decidable c] (h : c → changesOnly bs s t)
    (h' : ¬ c → changesOnly bs s u) : changesOnly bs s (if c then t else u) := by
  split
  · exact h ‹_›
  · exact h' ‹_›

theorem condsOnly_refl (ks : List CondKind) (s : State) : condsOnly ks s s := fun _ _ => rfl

theorem condsOnly_trans {ks : List CondKind} {s t u : State} (h : condsOnly ks s t) (h' : condsOnly ks t u) : condsOnly ks s u :=
  fun k hk => (h' k hk).trans (h k hk)

theorem condsOnly_of_eq {ks : List CondKind} {s t : State} (h : t.conds = s.conds) : condsOnly ks s t := fun k _ => by rw [h]

/-! ### Conditions -/

theorem Conditions.get_set_same (c : Conditions) (k : CondKind) (v : Cond) : (c.set k v).get k = v := by cases k <;> rfl

theorem Conditions.get_set_other (c : Conditions) {k k' : CondKind} (v : Cond) (h : k' ≠ k) : (c.set k v).get k' = c.get k' := by
  cases k <;> cases k' <;> first | rfl | exact absurd rfl h

/-- R169: a booking changes its own condition alone, and no other block. -/
theorem State.book_spec (s : State) (k : CondKind) (d : CondData) :
    changesOnly [.conds] s (s.book k d) ∧ (s.book k d).conds.get k = (s.conds.get k).book d ∧ condsOnly [k] s (s.book k d) := by
  refine ⟨?_, Conditions.get_set_same _ _ _, fun k' hk => Conditions.get_set_other _ _ (by simpa using hk)⟩
  intro b hb; cases b <;> first | rfl | simp at hb

/-- R169: an unbooking clears its own condition alone. -/
theorem State.unbook_spec (s : State) (k : CondKind) :
    changesOnly [.conds] s (s.unbook k) ∧ (s.unbook k).conds.get k = Cond.none ∧ condsOnly [k] s (s.unbook k) := by
  refine ⟨?_, Conditions.get_set_same _ _ _, fun k' hk => Conditions.get_set_other _ _ (by simpa using hk)⟩
  intro b hb; cases b <;> first | rfl | simp at hb

/-- R169: the count of a condition never exceeds 65,535 after a booking. -/
theorem Cond.book_count_le (c : Cond) (d : CondData) : (c.book d).count ≤ 65535 := Nat.min_le_right _ _

theorem State.bookNearlyFull_frame (s : State) : changesOnly [.conds] s s.bookNearlyFull :=
  changesOnly_ite (fun _ => (s.book_spec _ _).1) (fun _ => changesOnly_refl _ _)

/-- R108: LOG_NEARLY_FULL alone is booked, and only with 56 entries or more. -/
theorem State.bookNearlyFull_conds (s : State) :
    condsOnly [.logNearlyFull] s s.bookNearlyFull ∧
      s.bookNearlyFull.conds.logNearlyFull = nearlyFullAfter s.logCount s.conds.logNearlyFull := by
  unfold State.bookNearlyFull nearlyFullAfter
  split
  · exact ⟨(s.book_spec _ _).2.2, rfl⟩
  · exact ⟨condsOnly_refl _ _, rfl⟩

/-! ### Setters -/

theorem State.setFixtures_frame (s : State) (t : List (Option FixtureEntry)) : changesOnly [.fixtures, .store] s (s.setFixtures t) := by
  intro b hb; cases b <;> first | rfl | simp at hb

theorem State.updateFixture_frame (s : State) (t : Tag) (f : FixtureEntry → FixtureEntry) :
    changesOnly [.fixtures, .store] s (s.updateFixture t f) := s.setFixtures_frame _

theorem State.removeFixtures_frame (s : State) (p : FixtureEntry → Bool) : changesOnly [.fixtures, .store] s (s.removeFixtures p) :=
  s.setFixtures_frame _

theorem State.createFixture_frame {s t : State} {e : FixtureEntry} (h : s.createFixture e = some t) :
    changesOnly [.fixtures, .store] s t := by
  unfold State.createFixture at h
  cases hp : s.fixturePlace with
  | none => simp [hp] at h
  | some i => simp [hp] at h; subst h; exact s.setFixtures_frame _

theorem State.setRefunds_frame (s : State) (q : List Tag) : changesOnly [.refunds, .store] s (s.setRefunds q) := by
  intro b hb; cases b <;> first | rfl | simp at hb

theorem State.setPasses_frame (s : State) (t : List (Option PassEntry)) : changesOnly [.passes, .store] s (s.setPasses t) := by
  intro b hb; cases b <;> first | rfl | simp at hb

theorem State.updatePass_frame (s : State) (id : PassId) (f : PassEntry → PassEntry) : changesOnly [.passes, .store] s (s.updatePass id f) :=
  s.setPasses_frame _

theorem State.createPass_frame {s t : State} {p : PassEntry} (h : s.createPass p = some t) : changesOnly [.passes, .store] s t := by
  unfold State.createPass at h
  cases hp : allocate s.passes (PassEntry.evictKey s.now) with
  | none => simp [hp] at h
  | some i => simp [hp] at h; subst h; exact s.setPasses_frame _

theorem State.setPurse_frame (s : State) (p : Purse) : changesOnly [.purse, .store] s (s.setPurse p) := by
  intro b hb; cases b <;> first | rfl | simp at hb

/-- R97: a refund touches purse, log and dirty marks alone. -/
theorem State.refund_frame (s : State) (cause : Cause) (t : Tag) (a : Credit) :
    changesOnly [.purse, .log, .store] s (s.refund cause t a) := by
  intro b hb; cases b <;> first | rfl | simp at hb

/-- R75, R99, R112: serving one tag. -/
theorem State.serveTag_frame (s : State) (t : Tag) (rest : List Tag) :
    changesOnly [.purse, .log, .fixtures, .refunds, .store] s (s.serveTag t rest) := by
  intro b hb; cases b <;> first | (simp [sameBlock]; done) | simp at hb

/-- R112: serving the refund queue. -/
theorem serveFrom_frame (q : List Tag) (s : State) : changesOnly [.purse, .log, .fixtures, .refunds, .store] s (serveFrom q s) := by
  induction q generalizing s with
  | nil => exact changesOnly_refl _ _
  | cons t rest ih =>
    unfold serveFrom
    exact changesOnly_ite (fun _ => changesOnly_refl _ _) (fun _ => changesOnly_trans (s.serveTag_frame t rest) (ih _))

theorem State.settleQueue_frame (s : State) (before : List Tag) : changesOnly [.conds] s (s.settleQueue before) := by
  unfold State.settleQueue
  refine changesOnly_trans (t := if before ≠ [] ∧ s.refunds = [] then s.unbook .refundWaiting
    else if 0 < before.length - s.refunds.length then s.book .refundWaiting (.length s.refunds.length) else s) ?_ ?_
  · exact changesOnly_ite (fun _ => (s.unbook_spec _).1)
      (fun _ => changesOnly_ite (fun _ => (s.book_spec _ _).1) (fun _ => changesOnly_refl _ _))
  · exact changesOnly_ite (fun _ => State.bookNearlyFull_frame _) (fun _ => changesOnly_refl _ _)

/-! ### The memory port -/

theorem State.present_frame (s : State) (es : List Emission) : changesOnly [.emitted, .path] s (s.present es) := by
  intro b hb; cases b <;> first | rfl | simp at hb

theorem State.drain_frame (s : State) : changesOnly [.emitted, .path] s s.drain := by
  intro b hb; cases b <;> first | rfl | simp at hb

theorem shuffleFrom_perm (n : Nat) (es : List Emission) :
    ∀ (k : Nat) (acc : List Emission), (shuffleFrom n k acc es).Perm (acc ++ es) := by
  induction es with
  | nil => intro k acc; simp [shuffleFrom]
  | cons e es ih =>
    intro k acc
    unfold shuffleFrom
    refine (ih _ _).trans ?_
    have hp : (acc.insertIdx (Config.portPlace n k % (acc.length + 1)) e).Perm (e :: acc) :=
      List.perm_insertIdx e acc (Nat.le_of_lt_succ (Nat.mod_lt _ (Nat.succ_pos _)))
    exact (hp.append_right es).trans List.perm_middle.symm

/-- R150: requests presented together are taken in some order, each exactly once. -/
theorem shuffle_perm (n : Nat) (es : List Emission) : (shuffle n es).Perm es := by simpa [shuffle] using shuffleFrom_perm n es 0 []

/-- R150: presenting together puts the requests on the port, each once, and leaves region map, class lists and every other block alone. -/
theorem State.presentTogether_spec (s : State) (es : List Emission) :
    ∃ issued, issued.Perm es ∧ (s.presentTogether es).emitted = s.emitted ++ issued ∧
      (s.presentTogether es).path.own = s.path.own ++ issued.filterMap ownOf ∧
      (s.presentTogether es).path.regions = s.path.regions ∧ (s.presentTogether es).path.inflight = s.path.inflight ∧
      (s.presentTogether es).path.nextId = s.path.nextId ∧ changesOnly [.emitted, .path] s (s.presentTogether es) := by
  match es with
  | [] => exact ⟨[], .refl _, by simp [State.presentTogether], by simp [State.presentTogether], rfl, rfl, rfl, changesOnly_refl _ _⟩
  | [e] => exact ⟨[e], .refl _, rfl, rfl, rfl, rfl, rfl, State.present_frame _ _⟩
  | e :: f :: es =>
    refine ⟨shuffle s.path.choices (e :: f :: es), shuffle_perm _ _, rfl, rfl, rfl, rfl, rfl, ?_⟩
    intro b hb; cases b <;> first | rfl | simp at hb

/-! ### Key bank, verdict chain and slots -/

theorem State.updateKey_frame (s : State) (svc : Service) (f : KeyEntry → Option KeyEntry) : changesOnly [.keys] s (s.updateKey svc f) := by
  intro b hb; cases b <;> first | rfl | simp at hb

theorem State.applyOrigin_frame (s : State) (o : Origin) (t : Tag) : changesOnly [.fixtures, .store] s (s.applyOrigin o t) := by
  cases o
  · exact changesOnly_refl _ _
  · exact s.updateFixture_frame _ _
  · exact s.updateFixture_frame _ _

/-- R41, R45: the key check changes the key bank's last-use second and the flag or mark of its origin alone. -/
theorem State.checkKey_frame (s : State) (o : Origin) (h : Header) : changesOnly [.keys, .fixtures, .store] s (s.checkKey o h).2 := by
  unfold State.checkKey
  split
  · exact changesOnly_trans (changesOnly_mono (s.updateKey_frame _ _) (by simp))
      (changesOnly_mono (State.applyOrigin_frame _ _ _) (by simp))
  · exact changesOnly_refl _ _
  · exact changesOnly_refl _ _

/-- R45: so does the verdict chain. -/
theorem State.runChain_frame (s : State) (h : Header) : changesOnly [.keys, .fixtures, .store] s (s.runChain h).2 := by
  unfold State.runChain
  split
  · exact changesOnly_refl _ _
  · exact s.checkKey_frame _ _

theorem State.latch_frame (s : State) (r n : Nat) (v : Verdict) : changesOnly [.slots] s (s.latch r n v) := by
  intro b hb; cases b <;> first | rfl | simp at hb

theorem settlePart_frame (p : Part) (s : State) : changesOnly [.slots, .keys, .fixtures, .store] s (settlePart p s).2 := by
  unfold settlePart
  split
  · exact changesOnly_refl _ _
  · split
    · exact changesOnly_trans (changesOnly_mono (s.runChain_frame _) (by simp)) (changesOnly_mono (State.latch_frame _ _ _ _) (by simp))
    · exact changesOnly_refl _ _
    · exact changesOnly_refl _ _
  · exact changesOnly_refl _ _

/-- R13, R23: settling the parts of a read latches slots and runs chains; it leaves the memory path and every other block alone. -/
theorem settleParts_frame (ps : List Part) (s : State) : changesOnly [.slots, .keys, .fixtures, .store] s (settleParts ps s).2 := by
  induction ps generalizing s with
  | nil => exact changesOnly_refl _ _
  | cons p ps ih => exact changesOnly_trans (settlePart_frame p s) (ih _)

/-! ### Passes, fixtures and cells -/

theorem State.propagateTag_frame (s : State) (id : PassId) (t : Tag) : changesOnly [.fixtures, .conds, .store] s (s.propagateTag id t) := by
  unfold State.propagateTag
  split
  · refine changesOnly_ite (fun _ => ?_) (fun _ => changesOnly_refl _ _)
    exact changesOnly_trans (changesOnly_mono (s.updateFixture_frame _ _) (by simp)) (changesOnly_mono (State.book_spec _ _ _).1 (by simp))
  · exact changesOnly_refl _ _

/-- R82: the fold over the members changes fixture entries, their section's mark and ENTITLEMENT_CHANGED alone. -/
theorem State.propagateAll_frame (s : State) (id : PassId) (tags : List Tag) :
    changesOnly [.fixtures, .conds, .store] s (s.propagateAll id tags) := by
  unfold State.propagateAll
  induction tags generalizing s with
  | nil => exact changesOnly_refl _ _
  | cons t ts ih => exact changesOnly_trans (s.propagateTag_frame id t) (ih _)

/-- R169: settling which booking was the last changes the data of ENTITLEMENT_CHANGED alone; it stays booked, with its count. -/
theorem State.settleLatest_spec (before : State) (tags : List Tag) (s : State) :
    changesOnly [.conds] s (State.settleLatest before tags s) ∧ condsOnly [.entitlementChanged] s (State.settleLatest before tags s) ∧
      (State.settleLatest before tags s).conds.entitlementChanged.booked = s.conds.entitlementChanged.booked ∧
      (State.settleLatest before tags s).conds.entitlementChanged.count = s.conds.entitlementChanged.count := by
  unfold State.settleLatest
  split
  · refine ⟨?_, ?_, rfl, rfl⟩
    · intro b hb; cases b <;> first | rfl | simp at hb
    · intro k hk; cases k <;> first | rfl | simp at hk
  · exact ⟨changesOnly_refl _ _, fun _ _ => rfl, rfl, rfl⟩

/-- R169: of several tags booked in one step the condition keeps one of them. -/
theorem State.settleLatest_data (before : State) (tags : List Tag) (s : State) (h : 2 ≤ tags.length) :
    ∃ u ∈ tags, (State.settleLatest before tags s).conds.entitlementChanged.data = some (.tag u) := by
  match tags, h with
  | t :: t' :: ts, _ =>
    have hlt : Config.latestOf ((t :: t' :: ts).map before.tagPlace) % (t :: t' :: ts).length < (t :: t' :: ts).length :=
      Nat.mod_lt _ (by simp)
    refine ⟨_, List.getElem_mem hlt, ?_⟩
    show some (CondData.tag (List.getD _ _ _)) = _
    rw [List.getD_eq_getElem?_getD, List.getElem?_eq_getElem hlt]; rfl

/-- R82: propagation changes fixture entries, their section's mark and ENTITLEMENT_CHANGED alone. -/
theorem State.propagate_frame (s : State) (id : PassId) (tags : List Tag) : changesOnly [.fixtures, .conds, .store] s (s.propagate id tags) :=
  changesOnly_trans (s.propagateAll_frame id tags) (changesOnly_mono (State.settleLatest_spec s _ (s.propagateAll id tags)).1 (by simp))

/-- R74: what entering CANCELLED can change. -/
theorem State.cancelEffect_frame (s : State) (t : Tag) :
    changesOnly [.purse, .log, .fixtures, .refunds, .conds, .store] s (s.cancelEffect t) := by
  unfold State.cancelEffect
  split
  · split
    · split
      · exact changesOnly_trans (changesOnly_mono (s.setRefunds_frame _) (by simp))
          (changesOnly_trans (changesOnly_mono (State.book_spec _ _ _).1 (by simp)) (changesOnly_mono (State.book_spec _ _ _).1 (by simp)))
      · exact changesOnly_trans (changesOnly_mono (s.refund_frame _ _ _) (by simp))
          (changesOnly_trans (changesOnly_mono (State.updateFixture_frame _ _ _) (by simp))
            (changesOnly_trans (changesOnly_mono (State.bookNearlyFull_frame _) (by simp)) (changesOnly_mono (State.book_spec _ _ _).1 (by simp))))
    · exact changesOnly_refl _ _
  · exact changesOnly_refl _ _

theorem State.enqueue_frame (s : State) (c : QCell) : changesOnly [.engine] s (s.enqueue c) := by
  intro b hb; cases b <;> first | rfl | simp at hb

theorem State.popCell_frame (s : State) : changesOnly [.engine] s s.popCell := by
  intro b hb; cases b <;> first | rfl | simp at hb

theorem State.queueOrDrop_frame (s : State) (k : CtrlKind) (cell : List Byte) : changesOnly [.engine, .conds] s (s.queueOrDrop k cell) :=
  changesOnly_ite (fun _ => changesOnly_mono (s.book_spec _ _).1 (by simp)) (fun _ => changesOnly_mono (s.enqueue_frame _) (by simp))

/-- R7, R119 to R122: a cell handed over can change the message queue, the key bank and the conditions alone. -/
theorem State.handOver_frame (s : State) (cell : List Byte) : changesOnly [.engine, .keys, .conds] s (s.handOver cell) := by
  have hbook : ∀ k d, changesOnly [.engine, .keys, .conds] s (s.book k d) := fun k d => changesOnly_mono (s.book_spec k d).1 (by simp)
  have hq : ∀ k, changesOnly [.engine, .keys, .conds] s (s.queueOrDrop k cell) :=
    fun k => changesOnly_mono (s.queueOrDrop_frame k cell) (by simp)
  unfold State.handOver
  split
  · refine changesOnly_ite (fun _ => hbook _ _) (fun _ => ?_)
    split
    · unfold State.takeKeyCell
      split
      · exact changesOnly_refl _ _
      · simp only []
        split
        · refine changesOnly_ite (fun _ => changesOnly_refl _ _) (fun _ => changesOnly_ite (fun _ => hbook _ _) (fun _ => ?_))
          exact changesOnly_trans (changesOnly_mono (s.updateKey_frame _ _) (by simp)) (changesOnly_mono (State.enqueue_frame _ _) (by simp))
        · split
          · exact hbook _ _
          · refine changesOnly_ite (fun _ => hbook _ _) (fun _ => ?_)
            intro b hb; cases b <;> first | rfl | simp at hb
    · unfold State.takeGrantCell
      exact changesOnly_ite (fun _ => hbook _ _) (fun _ => changesOnly_ite (fun _ => changesOnly_refl _ _)
        (fun _ => changesOnly_ite (fun _ => hbook _ _) (fun _ => hq _)))
    · exact hq _
    · exact hq _
    · exact hq _
  · exact changesOnly_refl _ _

/-! ### Reports, orders and placement -/

theorem State.writeReport_frame (s : State) (r : Report) : changesOnly [.emitted, .path, .reports] s (s.writeReport r) := by
  unfold State.writeReport
  split
  · intro b hb; cases b <;> first | rfl | simp at hb
  · exact changesOnly_refl _ _

theorem State.wake_frame (s : State) : changesOnly [.orders] s s.wake := by
  unfold State.wake
  split
  · refine changesOnly_ite (fun _ => ?_) (fun _ => changesOnly_refl _ _)
    intro b hb; cases b <;> first | rfl | simp at hb
  · exact changesOnly_refl _ _

/-- R155, R156: the arming watch changes the placement unit, and presents what an eighth write calls for. -/
theorem State.armWatch_frame (s : State) (r : Request) : changesOnly [.placement, .emitted, .path] s (s.armWatch r) := by
  have hrun : ∀ k, changesOnly [.placement, .emitted, .path] s (s.setRun k) := by
    intro k b hb; cases b <;> first | rfl | simp at hb
  unfold State.armWatch
  split
  · exact changesOnly_refl _ _
  · split
    · exact hrun _
    · refine changesOnly_ite (fun _ => ?_) (fun _ => hrun _)
      split
      · refine changesOnly_ite (fun _ => changesOnly_ite (fun _ => ?_) (fun _ => hrun _)) (fun _ => hrun _)
        unfold State.completeArming
        split <;> (intro b hb; cases b <;> first | rfl | simp at hb)
      · exact hrun _

theorem State.handPlaced_frame (s : State) : changesOnly [.placement, .reports] s s.handPlaced := by
  unfold State.handPlaced
  split
  · intro b hb; cases b <;> first | rfl | simp at hb
  · exact changesOnly_refl _ _

end Sys2Proof.Machine
end

