-- ==== Sys2Proof/Laws/Tables.lean ====
section
/-! SUPPORT. The tables with free and used entries: lookup after an update, where a new entry goes, and the drain of the class lists. -/

namespace Sys2Proof.Machine

open Sys2Proof.Safety

/-! ### Lookup -/

theorem tableFind_some {α : Type} {t : List (Option α)} {p : α → Bool} {e : α} (h : tableFind t p = some e) :
    some e ∈ t ∧ p e = true := by
  obtain ⟨l, o, ho⟩ := List.exists_of_findSome?_eq_some h
  cases l with
  | none => simp at ho
  | some a =>
    by_cases hp : p a = true
    · simp [Option.filter, hp] at ho; subst ho; exact ⟨o, hp⟩
    · simp [Option.filter, hp] at ho

theorem tableFind_none {α : Type} {t : List (Option α)} {p : α → Bool} (h : tableFind t p = none) :
    ∀ e, some e ∈ t → p e = false := by
  intro e he
  have := (List.findSome?_eq_none_iff.mp h) _ he
  by_cases hp : p e = true
  · simp [Option.filter, hp] at this
  · simpa using hp

/-- Where an update changes the entries that `p` picks out, a lookup by `p` finds the changed entry, when the change keeps `p`. -/
theorem tableFind_update_same {α : Type} (t : List (Option α)) (p : α → Bool) (f : α → α) (hf : ∀ e, p e = true → p (f e) = true) :
    tableFind (tableUpdate t p (fun e => some (f e))) p = (tableFind t p).map f := by
  induction t with
  | nil => rfl
  | cons o os ih =>
    cases o with
    | none => simpa [tableFind, tableUpdate] using ih
    | some a =>
      by_cases hp : p a = true
      · simp [tableFind, tableUpdate, hp, hf a hp, Option.filter]
      · simpa [tableFind, tableUpdate, hp, Option.filter] using ih

/-- A lookup by `q` is not disturbed by an update of entries that `q` does not pick out. -/
theorem tableFind_update_other {α : Type} (t : List (Option α)) (p q : α → Bool) (f : α → α)
    (hq : ∀ e, p e = true → q e = false ∧ q (f e) = false) :
    tableFind (tableUpdate t p (fun e => some (f e))) q = tableFind t q := by
  induction t with
  | nil => rfl
  | cons o os ih =>
    cases o with
    | none => simpa [tableFind, tableUpdate] using ih
    | some a =>
      by_cases hp : p a = true
      · simpa [tableFind, tableUpdate, hp, (hq a hp).1, (hq a hp).2, Option.filter] using ih
      · by_cases hqa : q a = true
        · simp [tableFind, tableUpdate, hp, hqa, Option.filter]
        · simpa [tableFind, tableUpdate, hp, hqa, Option.filter] using ih

/-- A removal by `p` leaves a lookup by `q` of entries that `p` does not pick out. -/
theorem tableFind_remove_other {α : Type} (t : List (Option α)) (p q : α → Bool) (hq : ∀ e, p e = true → q e = false) :
    tableFind (tableUpdate t p (fun _ => none)) q = tableFind t q := by
  induction t with
  | nil => rfl
  | cons o os ih =>
    cases o with
    | none => simpa [tableFind, tableUpdate] using ih
    | some a =>
      by_cases hp : p a = true
      · simpa [tableFind, tableUpdate, hp, hq a hp, Option.filter] using ih
      · by_cases hqa : q a = true
        · simp [tableFind, tableUpdate, hp, hqa, Option.filter]
        · simpa [tableFind, tableUpdate, hp, hqa, Option.filter] using ih

theorem tableFind_remove_same {α : Type} (t : List (Option α)) (p : α → Bool) : tableFind (tableUpdate t p (fun _ => none)) p = none := by
  induction t with
  | nil => rfl
  | cons o os ih =>
    cases o with
    | none => simpa [tableFind, tableUpdate] using ih
    | some a =>
      by_cases hp : p a = true
      · simpa [tableFind, tableUpdate, hp, Option.filter] using ih
      · simpa [tableFind, tableUpdate, hp, Option.filter] using ih

theorem tableUpdate_length {α : Type} (t : List (Option α)) (p : α → Bool) (f : α → Option α) : (tableUpdate t p f).length = t.length := by
  simp [tableUpdate]

theorem State.fixture_tag {s : State} {t : Tag} {e : FixtureEntry} (h : s.fixture t = some e) : e.tag = t := by
  simpa using (tableFind_some h).2

theorem State.pass_id {s : State} {id : PassId} {p : PassEntry} (h : s.pass id = some p) : p.id = id := by
  simpa using (tableFind_some h).2

/-- A change of the entry of a tag, for a change that keeps the tag: what its lookup gives, and that every other tag's stands. -/
theorem State.updateFixture_spec (s : State) (t : Tag) (f : FixtureEntry → FixtureEntry) (hf : ∀ e, (f e).tag = e.tag) :
    (s.updateFixture t f).fixture t = (s.fixture t).map f ∧ ∀ u, u ≠ t → (s.updateFixture t f).fixture u = s.fixture u := by
  refine ⟨tableFind_update_same _ _ _ (fun e he => by simpa [hf e] using he), fun u hu => tableFind_update_other _ _ _ _ (fun e he => ?_)⟩
  have : e.tag = t := by simpa using he
  simp [hf e, this, Ne.symm hu]

/-- A change of the pass of an identifier, for a change that keeps the identifier. -/
theorem State.updatePass_spec (s : State) (id : PassId) (f : PassEntry → PassEntry) (hf : ∀ p, (f p).id = p.id) :
    (s.updatePass id f).pass id = (s.pass id).map f ∧ ∀ j, j ≠ id → (s.updatePass id f).pass j = s.pass j := by
  refine ⟨tableFind_update_same _ _ _ (fun e he => by simpa [hf e] using he), fun u hu => tableFind_update_other _ _ _ _ (fun e he => ?_)⟩
  have : e.id = id := by simpa using he
  simp [hf e, this, Ne.symm hu]

/-- A change of the key bank entry of a service, for a change that keeps the service. -/
theorem State.updateKey_spec (s : State) (svc : Service) (f : KeyEntry → KeyEntry) (hf : ∀ e, (f e).service = e.service) :
    (s.updateKey svc (fun e => some (f e))).keyEntry svc = (s.keyEntry svc).map f ∧
      ∀ v, v ≠ svc → (s.updateKey svc (fun e => some (f e))).keyEntry v = s.keyEntry v := by
  refine ⟨tableFind_update_same _ _ _ (fun e he => by simpa [hf e] using he), fun u hu => tableFind_update_other _ _ _ _ (fun e he => ?_)⟩
  have : e.service = svc := by simpa using he
  simp [hf e, this, Ne.symm hu]

/-! ### Where a new entry goes (R33, R34, R64, R71, R81) -/

theorem freeIndex_none {α : Type} {t : List (Option α)} : freeIndex t = none ↔ ∀ o ∈ t, o ≠ none := by
  simp only [freeIndex, List.findIdx?_eq_none_iff]
  exact ⟨fun h o ho hn => by simpa [hn] using h o ho, fun h o ho => by cases o with
    | none => exact absurd rfl (h _ ho)
    | some _ => rfl⟩

theorem freeIndex_some {α : Type} {t : List (Option α)} {i : Nat} :
    freeIndex t = some i ↔ t[i]? = some none ∧ ∀ j, j < i → t[j]? ≠ some none := by
  unfold freeIndex
  rw [List.findIdx?_eq_some_iff_getElem]
  constructor
  · rintro ⟨hi, hp, hlt⟩
    refine ⟨by rw [List.getElem?_eq_getElem hi]; simpa [Option.isNone_iff_eq_none] using hp, fun j hj => ?_⟩
    have hjl : j < t.length := Nat.lt_trans hj hi
    rw [List.getElem?_eq_getElem hjl]
    have := hlt j hj
    intro hc
    rw [Option.some.inj hc] at this
    simp at this
  · rintro ⟨h, hlt⟩
    obtain ⟨hi, hv⟩ := List.getElem?_eq_some_iff.mp h
    refine ⟨hi, by rw [hv]; rfl, fun j hj hn => hlt j hj ?_⟩
    have hjl : j < t.length := Nat.lt_trans hj hi
    rw [List.getElem?_eq_getElem hjl]
    exact congrArg some (Option.isNone_iff_eq_none.mp hn)

/-- What the scan for the least key keeps: its result is the best so far or an entry of the rest, and beats every keyed entry of the rest. -/
theorem leastFrom_spec {α : Type} (key : α → Option Nat) (t : List (Option α)) :
    ∀ (i : Nat) (best : Option (Nat × Nat)),
      (leastFrom key t i best = none ↔ best = none ∧ ∀ o ∈ t, o.bind key = none) ∧
      ∀ k m, leastFrom key t i best = some (k, m) →
        (best = some (k, m) ∨ ∃ j o, m = i + j ∧ t[j]? = some o ∧ o.bind key = some k) ∧
        (∀ b, best = some b → k ≤ b.1 ∧ (k = b.1 → best = some (k, m))) ∧
        (∀ j o k', t[j]? = some o → o.bind key = some k' → k < k' ∨ (k = k' ∧ (best = some (k, m) ∨ m ≤ i + j))) := by
  induction t with
  | nil =>
    intro i best
    refine ⟨by simp [leastFrom], fun k m h => ?_⟩
    simp only [leastFrom] at h
    refine ⟨.inl h, fun b hb => ?_, fun j o k' ho => by simp at ho⟩
    rw [h] at hb; cases hb; exact ⟨Nat.le_refl _, fun _ => h⟩
  | cons o os ih =>
    intro i best
    simp only [leastFrom]
    cases hk : o.bind key with
    | none =>
      simp only []
      obtain ⟨hn, hs⟩ := ih (i + 1) best
      refine ⟨by rw [hn]; simp only [List.forall_mem_cons, hk, true_and], fun k m h => ?_⟩
      obtain ⟨h1, h2, h3⟩ := hs k m h
      refine ⟨?_, h2, ?_⟩
      · rcases h1 with h1 | ⟨j, o', hm, ho', hb⟩
        · exact .inl h1
        · exact .inr ⟨j + 1, o', by omega, by simpa using ho', hb⟩
      · intro j o' k' ho' hb
        cases j with
        | zero => simp only [List.getElem?_cons_zero, Option.some.injEq] at ho'; subst ho'; rw [hk] at hb; cases hb
        | succ j =>
          rcases h3 j o' k' (by simpa using ho') hb with h | ⟨h, h'⟩
          · exact .inl h
          · exact .inr ⟨h, h'.imp id (fun h => by omega)⟩
    | some k0 =>
      cases best with
      | none =>
        simp only []
        obtain ⟨hn, hs⟩ := ih (i + 1) (some (k0, i))
        refine ⟨by rw [hn]; simp only [List.forall_mem_cons, hk]; simp, fun k m h => ?_⟩
        obtain ⟨h1, h2, h3⟩ := hs k m h
        obtain ⟨h2a, h2b⟩ := h2 _ rfl
        refine ⟨.inr ?_, (fun b hb => nomatch hb), ?_⟩
        · rcases h1 with h1 | ⟨j, o', hm, ho', hb⟩
          · cases h1; exact ⟨0, o, rfl, rfl, hk⟩
          · exact ⟨j + 1, o', by omega, by simpa using ho', hb⟩
        · intro j o' k' ho' hb
          cases j with
          | zero =>
            simp only [List.getElem?_cons_zero, Option.some.injEq] at ho'; subst ho'; rw [hk] at hb; cases hb
            rcases Nat.lt_or_eq_of_le h2a with h | h
            · exact .inl h
            · have := h2b h; cases this; exact .inr ⟨rfl, .inr (Nat.le_refl _)⟩
          | succ j =>
            rcases h3 j o' k' (by simpa using ho') hb with h | ⟨h, h'⟩
            · exact .inl h
            · refine .inr ⟨h, .inr ?_⟩
              rcases h' with h' | h'
              · cases h'; omega
              · omega
      | some b =>
        simp only []
        by_cases hlt : k0 < b.1
        · simp only [hlt, if_true]
          obtain ⟨hn, hs⟩ := ih (i + 1) (some (k0, i))
          refine ⟨by simp [hn], fun k m h => ?_⟩
          obtain ⟨h1, h2, h3⟩ := hs k m h
          obtain ⟨h2a, h2b⟩ := h2 _ rfl
          refine ⟨.inr ?_, fun b' hb' => ?_, ?_⟩
          · rcases h1 with h1 | ⟨j, o', hm, ho', hb⟩
            · cases h1; exact ⟨0, o, rfl, rfl, hk⟩
            · exact ⟨j + 1, o', by omega, by simpa using ho', hb⟩
          · cases hb'; exact ⟨by simp only [] at h2a; omega, fun he => by simp only [] at h2a; omega⟩
          · intro j o' k' ho' hb
            cases j with
            | zero =>
              simp only [List.getElem?_cons_zero, Option.some.injEq] at ho'; subst ho'; rw [hk] at hb; cases hb
              rcases Nat.lt_or_eq_of_le h2a with h | h
              · exact .inl h
              · have := h2b h; cases this; exact .inr ⟨rfl, .inr (Nat.le_refl _)⟩
            | succ j =>
              rcases h3 j o' k' (by simpa using ho') hb with h | ⟨h, h'⟩
              · exact .inl h
              · refine .inr ⟨h, .inr ?_⟩
                rcases h' with h' | h'
                · cases h'; omega
                · omega
        · simp only [hlt, if_false]
          obtain ⟨hn, hs⟩ := ih (i + 1) (some b)
          refine ⟨by simp [hn], fun k m h => ?_⟩
          obtain ⟨h1, h2, h3⟩ := hs k m h
          obtain ⟨h2a, h2b⟩ := h2 _ rfl
          refine ⟨?_, h2, ?_⟩
          · rcases h1 with h1 | ⟨j, o', hm, ho', hb⟩
            · exact .inl h1
            · exact .inr ⟨j + 1, o', by omega, by simpa using ho', hb⟩
          · intro j o' k' ho' hb
            cases j with
            | zero =>
              simp only [List.getElem?_cons_zero, Option.some.injEq] at ho'; subst ho'; rw [hk] at hb; cases hb
              by_cases he : k = b.1
              · rcases Nat.lt_or_eq_of_le (Nat.le_of_not_lt hlt) with h | h
                · exact .inl (by omega)
                · exact .inr ⟨by omega, .inl (h2b he)⟩
              · exact .inl (by omega)
            | succ j =>
              rcases h3 j o' k' (by simpa using ho') hb with h | ⟨h, h'⟩
              · exact .inl h
              · exact .inr ⟨h, h'.imp id (fun h => by omega)⟩

/-- No place can be had exactly when every entry is in use and none has an eviction key. -/
theorem allocate_none {α : Type} {t : List (Option α)} {key : α → Option Nat} :
    allocate t key = none ↔ ∀ o ∈ t, ∃ e, o = some e ∧ key e = none := by
  unfold allocate leastIndex
  cases hf : freeIndex t with
  | some i =>
    simp only [false_iff, reduceCtorEq]
    obtain ⟨h, _⟩ := freeIndex_some.mp hf
    intro hall
    obtain ⟨e, he, _⟩ := hall none (List.mem_of_getElem? h)
    cases he
  | none =>
    simp only [Option.map_eq_none_iff, (leastFrom_spec key t 0 none).1, true_and]
    have hn := freeIndex_none.mp hf
    constructor
    · intro h o ho
      cases o with
      | none => exact absurd rfl (hn _ ho)
      | some e => exact ⟨e, rfl, by simpa using h _ ho⟩
    · intro h o ho
      obtain ⟨e, rfl, he⟩ := h o ho
      simpa using he

/-- The place given is the lowest-indexed free entry, or, when none is free, the keyed entry of least key, of equals the lowest-indexed. -/
theorem allocate_some {α : Type} {t : List (Option α)} {key : α → Option Nat} {i : Nat} (h : allocate t key = some i) :
    (t[i]? = some none ∧ ∀ j, j < i → t[j]? ≠ some none) ∨
      ((∀ o ∈ t, o ≠ none) ∧ ∃ e k, t[i]? = some (some e) ∧ key e = some k ∧
        ∀ (j : Nat) (f : α) (k' : Nat), t[j]? = some (some f) → key f = some k' → k < k' ∨ (k = k' ∧ i ≤ j)) := by
  unfold allocate leastIndex at h
  cases hf : freeIndex t with
  | some m => rw [hf] at h; cases h; exact .inl (freeIndex_some.mp hf)
  | none =>
    rw [hf] at h
    simp only [Option.map_eq_some_iff] at h
    obtain ⟨⟨k, m⟩, hl, rfl⟩ := h
    obtain ⟨h1, _, h3⟩ := (leastFrom_spec key t 0 none).2 k m hl
    refine .inr ⟨freeIndex_none.mp hf, ?_⟩
    rcases h1 with h1 | ⟨j, o, hm, ho, hb⟩
    · cases h1
    · cases o with
      | none => cases hb
      | some e =>
        refine ⟨e, k, by simpa [hm] using ho, by simpa using hb, fun j' f k' hj hk => ?_⟩
        rcases h3 j' (some f) k' hj (by simpa using hk) with h | ⟨h, h'⟩
        · exact .inl h
        · exact .inr ⟨h, by rcases h' with h' | h'; cases h'; simpa using h'⟩

end Sys2Proof.Machine
end

