-- ==== Sys2Proof/Laws/Credit.lean ====
section
/-! SUPPORT. The purse law and the log's numbering under the shared operations on purse and log. -/

namespace Sys2Proof.Machine

open Sys2Proof.Safety

/-! ### Folds (R88, R111) -/

theorem foldSum_append (as bs : List LogEntry) : foldSum (as ++ bs) = foldSum as + foldSum bs := by simp [foldSum]

theorem foldSum_take_drop (k : Nat) (es : List LogEntry) : foldSum (es.take k) + foldSum (es.drop k) = foldSum es := by
  rw [← foldSum_append, List.take_append_drop]

/-- The sum of the folds is refunds less purchases. -/
theorem foldSum_eq_amounts (es : List LogEntry) : foldSum es = amounts es isRefund - amounts es (fun e => !isRefund e) := by
  induction es with
  | nil => rfl
  | cons e es ih =>
    have hc : foldSum (e :: es) = entryFold e + foldSum es := by simp [foldSum]
    rw [hc, ih]
    cases hk : e.kind <;> simp [amounts, isRefund, entryFold, hk] <;> omega

/-- The purse law in one sum. -/
theorem purseLaw_iff (s : State) : purseLaw s ↔ s.purse.balance = s.purse.reference + foldSum s.log.entries := by
  rw [foldSum_eq_amounts]; unfold purseLaw; constructor <;> intro h <;> omega

/-- R97: what is credited is at most the amount, and never lifts the balance above its upper bound. -/
theorem credited_spec (balance : Int) (a : Credit) : credited balance a ≤ a.toNat ∧ balance + credited balance a ≤ 16777215 := by
  unfold credited creditMax; omega

/-- R97, R88: a refund keeps the purse law. -/
theorem State.refund_purseLaw (s : State) (cause : Cause) (t : Tag) (a : Credit) (h : purseLaw s) : purseLaw (s.refund cause t a) := by
  rw [purseLaw_iff] at h ⊢
  have hp : (s.purse.refunded a).balance = s.purse.balance + credited s.purse.balance a := rfl
  have hr : (s.purse.refunded a).reference = s.purse.reference - ((a.toNat : Int) - credited s.purse.balance a) := rfl
  simp only [State.refund_purse, State.refund_log, hp, hr, foldSum_append, h]
  simp [foldSum, entryFold]; omega

/-- R111, R88: the removal of acknowledged entries keeps the purse law. -/
theorem State.removeEntries_purseLaw (s : State) (k : Nat) (h : purseLaw s) : purseLaw (s.removeEntries k) := by
  rw [purseLaw_iff] at h ⊢
  have := foldSum_take_drop k s.log.entries
  simp only [State.removeEntries_purse, State.removeEntries_log]
  omega

/-! ### Numbering (R105, R107) -/

theorem consecutive_append (es : List LogEntry) (x : LogEntry) (h : consecutive es)
    (hx : ∀ e, es.getLast? = some e → x.seq = e.seq + 1) : consecutive (es ++ [x]) := by
  induction es with
  | nil => trivial
  | cons a rest ih =>
    cases rest with
    | nil => exact ⟨hx a rfl, trivial⟩
    | cons b rest => exact ⟨h.1, ih h.2 (fun e he => hx e (by simpa [List.getLast?_cons_cons] using he))⟩

theorem consecutive_drop (k : Nat) : ∀ es : List LogEntry, consecutive es → consecutive (es.drop k) := by
  induction k with
  | zero => intro es h; exact h
  | succ k ih =>
    intro es h
    match es with
    | [] => exact h
    | [a] => cases k <;> exact trivial
    | a :: b :: rest => exact ih _ h.2

theorem risesByOne_iff : ∀ es : List LogEntry, risesByOne es = true ↔ consecutive es
  | [] => by simp [risesByOne, consecutive]
  | [_] => by simp [risesByOne, consecutive]
  | a :: b :: rest => by simp [risesByOne, consecutive, risesByOne_iff (b :: rest)]

/-! ### The refund queue (R75, R112) -/

/-- Serving one tag makes one REFUND entry of cause OPERATOR, takes the entry's kind away, and leaves every other fixture (R75, R99). -/
theorem State.serveTag_spec (s : State) (t : Tag) (rest : List Tag) (e : FixtureEntry) (he : s.fixture t = some e) :
    (s.serveTag t rest).log.entries = s.log.entries ++ [newEntryOf s (.refund .operator) t e.paid (s.purse.refunded e.paid).balance] ∧
      (s.serveTag t rest).log.next = s.log.next + 1 ∧ (s.serveTag t rest).purse = s.purse.refunded e.paid ∧
      (s.serveTag t rest).fixture t = some { e with kind := .none, viewed := false } ∧
      ∀ u, u ≠ t → (s.serveTag t rest).fixture u = s.fixture u := by
  have hspec := (s.refund .operator t e.paid).updateFixture_spec t (fun e => { e with kind := .none, viewed := false }) (fun _ => rfl)
  have hrw : s.serveTag t rest = State.setRefunds rest
      (State.updateFixture t (fun e => { e with kind := .none, viewed := false }) (s.refund .operator t e.paid)) := by
    simp [State.serveTag, he]
  have hfx : ∀ u, (s.refund .operator t e.paid).fixture u = s.fixture u := fun u => rfl
  have hst : ∀ u, (s.serveTag t rest).fixture u =
      (State.updateFixture t (fun e => { e with kind := .none, viewed := false }) (s.refund .operator t e.paid)).fixture u := by
    intro u; rw [hrw]; simp [State.fixture]
  refine ⟨by rw [hrw]; simp [newEntryOf], by rw [hrw]; simp, by rw [hrw]; simp, ?_, fun u hu => ?_⟩
  · rw [hst, hspec.1, hfx, he]; rfl
  · rw [hst, hspec.2 u hu, hfx]

/-- R112: with the log full nothing is served; otherwise the head is served and the rest follows. -/
theorem serveFrom_full (q : List Tag) (s : State) (h : 64 ≤ s.log.entries.length) : serveFrom q s = s := by
  cases q <;> simp [serveFrom, State.logFull, State.logCount, h]

theorem serveFrom_room (t : Tag) (rest : List Tag) (s : State) (h : s.log.entries.length < 64) :
    serveFrom (t :: rest) s = serveFrom rest (s.serveTag t rest) := by
  simp [serveFrom, State.logFull, State.logCount, Nat.not_le.mpr h]

end Sys2Proof.Machine
end

