-- ==== Sys2Proof/Laws/Path.lean ====
section
/-! SUPPORT. What the shared operations on requests, slots, class lists and propagation can do. -/

namespace Sys2Proof.Machine

open Sys2Proof.Safety

/-! ### Requests taken and requests presented (R144, R150, R151) -/

/-- R144: every command that carries a read takes the one step on it. -/
theorem exec_carriesRead {r : ReadReq} {cmd : Instr} (h : carriesRead r cmd) (s : State) : exec cmd s = .next (s.takeRequest (.read r)) := by
  rcases h with rfl | rfl | rfl <;> rfl

/-- R144: every command that carries a write takes the one step on it. -/
theorem exec_carriesWrite {w : WriteReq} {cmd : Instr} (h : carriesWrite w cmd) (s : State) : exec cmd s = .next (s.takeRequest (.write w)) := by
  rcases h with rfl | rfl | rfl | rfl | rfl | rfl <;> rfl

theorem presentedAs_refl (s : State) : presentedAs [] s s := by simp [presentedAs]

theorem presentedAs_trans {as bs : List Emission} {s t u : State} (h : presentedAs as s t) (h' : presentedAs bs t u) : presentedAs (as ++ bs) s u :=
  ⟨by rw [h'.1, h.1, List.append_assoc], by rw [h'.2, h.2, List.filterMap_append, List.append_assoc]⟩

theorem State.present_presentedAs (s : State) (es : List Emission) : presentedAs es s (s.present es) := ⟨rfl, rfl⟩

/-- R150: requests presented together are presented in some order. -/
theorem State.presentTogether_presentedAs (s : State) (es : List Emission) :
    ∃ issued, issued.Perm es ∧ presentedAs issued s (s.presentTogether es) := by
  unfold State.presentTogether
  split
  · exact ⟨[], .refl _, presentedAs_refl s⟩
  · exact ⟨_, .refl _, State.present_presentedAs s _⟩
  · exact ⟨_, shuffle_perm _ _, rfl, rfl⟩

/-! ### The class lists (R145) -/

/-- The emission returns an answer of this class. -/
def answerOf (c : Cls) : Emission → Bool
  | .answer _ c' _ => c' == c
  | _ => false

/-- The drain, class by class: a blocked class keeps all its requests; of another, ready ones leave from its oldest end, in order, up to the first that is not ready. -/
theorem drainList_spec (c : Cls) (es : List Inflight) :
    ∀ blocked : List Cls, ∃ done : List Inflight,
      es.filter (fun e => e.cls == c) = done ++ (drainList blocked es).1.filter (fun e => e.cls == c) ∧
      (∀ e ∈ done, e.ready = true) ∧ (c ∈ blocked → done = []) ∧
      (c ∉ blocked → ∀ e, ((drainList blocked es).1.filter (fun e => e.cls == c)).head? = some e → e.ready = false) ∧
      (drainList blocked es).2.filter (answerOf c) = done.map (fun e => .answer e.id c e.final) := by
  induction es with
  | nil => intro blocked; exact ⟨[], by simp [drainList]⟩
  | cons e es ih =>
    intro blocked
    unfold drainList
    by_cases hb : (blocked.contains e.cls || !e.ready) = true
    · simp only [hb, if_true]
      obtain ⟨done, h1, h2, h3, h4, h5⟩ := ih (e.cls :: blocked)
      by_cases hc : e.cls = c
      · have hd : done = [] := h3 (by simp [hc])
        subst hd
        refine ⟨[], by simpa [List.filter_cons, hc] using h1, by simp, fun _ => rfl, fun hn x hx => ?_, h5⟩
        simp only [List.filter_cons, hc, beq_self_eq_true, if_true, List.head?_cons, Option.some.injEq] at hx
        subst hx
        simpa [hc, hn] using hb
      · have hcb : (e.cls == c) = false := by simpa using hc
        refine ⟨done, by simpa [List.filter_cons, hcb] using h1, h2, fun hm => h3 (List.mem_cons_of_mem _ hm), fun hn x hx => ?_, h5⟩
        have hx' := hx
        simp only [List.filter_cons, hcb] at hx'
        exact h4 (by simp [hn, Ne.symm hc]) x (by simpa using hx')
    · simp only [hb, if_false, Bool.false_eq_true]
      have hr : e.ready = true := by
        cases h : e.ready with
        | true => rfl
        | false => simp [h] at hb
      have hnb : e.cls ∉ blocked := by intro hm; simp [hm] at hb
      obtain ⟨done, h1, h2, h3, h4, h5⟩ := ih blocked
      by_cases hc : e.cls = c
      · refine ⟨e :: done, by simp [hc, h1], ?_, fun hm => absurd (hc ▸ hm) hnb, h4, ?_⟩
        · intro x hx
          rcases List.mem_cons.mp hx with rfl | hx
          · exact hr
          · exact h2 x hx
        · simp [answerOf, hc, h5]
      · have hcb : (e.cls == c) = false := by simpa using hc
        exact ⟨done, by simpa [List.filter_cons, hcb] using h1, h2, h3, h4, by simpa [List.filter_cons, answerOf, hcb] using h5⟩

/-- What stays is a sublist of what was there. -/
theorem drainList_sublist (es : List Inflight) : ∀ blocked : List Cls, (drainList blocked es).1.Sublist es := by
  induction es with
  | nil => intro blocked; exact List.Sublist.refl _
  | cons e es ih =>
    intro blocked
    unfold drainList
    split
    · exact (ih _).cons_cons e
    · exact (ih _).cons e

/-- A request that is not ready stays. -/
theorem drainList_keeps_unready (es : List Inflight) : ∀ blocked : List Cls, ∀ e ∈ es, e.ready = false → e ∈ (drainList blocked es).1 := by
  induction es with
  | nil => intro blocked e he; cases he
  | cons e es ih =>
    intro blocked x hx hr
    unfold drainList
    split
    · rcases List.mem_cons.mp hx with rfl | hx
      · exact List.mem_cons_self
      · exact List.mem_cons_of_mem _ (ih _ x hx hr)
    · rename_i hb
      rcases List.mem_cons.mp hx with rfl | hx
      · exact absurd (by simp [hr]) hb
      · exact ih _ x hx hr

/-- R145: when no request of an unblocked class can leave, nothing does. -/
theorem drainList_idle (es : List Inflight) : ∀ blocked : List Cls,
    (∀ c, c ∉ blocked → ∀ e, (es.filter (fun e => e.cls == c)).head? = some e → e.ready = false) → drainList blocked es = (es, []) := by
  induction es with
  | nil => intro blocked _; rfl
  | cons e es ih =>
    intro blocked h
    unfold drainList
    have hb : (blocked.contains e.cls || !e.ready) = true := by
      by_cases hm : e.cls ∈ blocked
      · simp [hm]
      · have := h e.cls hm e (by simp)
        simp [this]
    have := ih (e.cls :: blocked) (fun c hc x hx => h c (fun hm => hc (List.mem_cons_of_mem _ hm)) x (by
      have hne : (e.cls == c) = false := by
        have : c ≠ e.cls := fun he => hc (he ▸ List.mem_cons_self)
        simpa using Ne.symm this
      simpa [List.filter_cons, hne] using hx))
    simp only [hb, if_true, this]

/-- R145: a state that keeps back no ready answer is left as it stands. -/
theorem State.drain_of_noReady (s : State) (h : NoReadyOldest s) : s.drain = s := by
  have := drainList_idle s.path.inflight [] (fun c _ e he => h c e he)
  simp [State.drain, this]

/-! ### Serial numbers of requests (R144) -/

/-- A request taken gets a number that no request in flight has. -/
theorem State.takeOn_numbered (s : State) (c : Cls) (req : Request) (parts : List Part) (answer : Option Answer) (h : RequestsNumbered s) :
    RequestsNumbered (s.takeOn c req parts answer) := by
  have hn : ∀ e ∈ s.path.inflight, e.id ≠ s.path.nextId := fun e he => Nat.ne_of_lt (h.2 e he)
  refine ⟨?_, fun e he => ?_⟩
  · simp only [State.takeOn, List.map_append, List.map_cons, List.map_nil, List.nodup_append]
    refine ⟨h.1, by simp, fun a ha b hb => ?_⟩
    obtain ⟨e, he, rfl⟩ := List.mem_map.mp ha
    rw [List.mem_singleton.mp hb]
    exact hn e he
  · rcases List.mem_append.mp he with he | he
    · exact Nat.lt_succ_of_lt (h.2 e he)
    · rw [List.mem_singleton.mp he]; exact Nat.lt_succ_self _

/-- The requests that stay keep their numbers. -/
theorem State.drain_numbered (s : State) (h : RequestsNumbered s) : RequestsNumbered s.drain :=
  ⟨h.1.sublist ((drainList_sublist _ _).map _), fun e he => h.2 e ((drainList_sublist _ _).subset he)⟩

/-! ### Slots -/

theorem find_map_slot (l : List Slot) (g : Slot → Slot) (hg : ∀ x, (g x).region = x.region ∧ (g x).number = x.number) (r n : Nat) :
    ((l.map g).find? (fun x => x.region == r && x.number == n)) = (l.find? (fun x => x.region == r && x.number == n)).map g := by
  induction l with
  | nil => rfl
  | cons x xs ih => simp only [List.map_cons, List.find?_cons, (hg x).1, (hg x).2]; split <;> simp_all

/-- A latch changes the verdict of its own slot alone, and only when that slot holds a program cell (R13). -/
theorem State.latch_slotAt (s : State) (r n r' n' : Nat) (v : Verdict) :
    (s.latch r n v).slotAt r' n' =
      if r' = r ∧ n' = n then (s.slotAt r' n').map (fun st => match st with
        | .program h _ => .program h v
        | st => st)
      else s.slotAt r' n' := by
  unfold State.slotAt State.latch
  simp only []
  rw [find_map_slot _ _ (by intro x; split <;> (try split) <;> exact ⟨rfl, rfl⟩)]
  cases hf : s.slots.find? (fun x => x.region == r' && x.number == n') with
  | none => simp
  | some x =>
    have hx := List.find?_some hf
    simp only [Bool.and_eq_true, beq_iff_eq] at hx
    simp only [Option.map_some, hx.1, hx.2]
    by_cases h : r' = r ∧ n' = n
    · simp only [h, and_self, if_true]; split <;> simp_all
    · simp only [h, if_false]

/-- A write as the tracker sees it: the slot it covers whole holds the new cell, another slot it touches is BROKEN, and every other stands (R5, R6). -/
theorem State.trackWrite_slotAt (s : State) (touched : List (Nat × Nat)) (whole : Option (Nat × Nat)) (cell : List Byte) (r n : Nat) :
    (s.trackWrite touched whole cell).slotAt r n = (s.slotAt r n).map (fun st =>
      if whole = some (r, n) then startCell cell else if (r, n) ∈ touched then .broken else st) := by
  unfold State.slotAt State.trackWrite
  simp only []
  rw [find_map_slot _ _ (by intro x; unfold Slot.afterWrite; split <;> (try split) <;> exact ⟨rfl, rfl⟩)]
  cases hf : s.slots.find? (fun x => x.region == r && x.number == n) with
  | none => simp
  | some x =>
    have hx := List.find?_some hf
    simp only [Bool.and_eq_true, beq_iff_eq] at hx
    simp only [Option.map_some, Slot.afterWrite, hx.1, hx.2, List.contains_iff_mem]
    split
    · rfl
    · split <;> rfl

/-! ### Propagation of a pass (R82) -/

theorem FixtureEntry.onOffer_iff (e : FixtureEntry) : e.onOffer = true ↔ onOfferNow e := by
  unfold FixtureEntry.onOffer onOfferNow
  cases e.standing with
  | awaiting => simp
  | scheduled sch ph =>
    cases ph <;> simp only [Standing.scheduled.injEq, Bool.false_eq_true, true_iff, false_iff]
    all_goals first
      | exact ⟨sch, _, ⟨rfl, rfl⟩, by simp⟩
      | (rintro ⟨_, _, ⟨_, rfl⟩, h⟩; simp at h)

/-- One tag: the entry that holds it becomes PASS when it is a NONE entry on offer; every other entry stands. -/
theorem State.propagateTag_fixture (s : State) (id : PassId) (t u : Tag) :
    (s.propagateTag id t).fixture u = (s.fixture u).map (fun e =>
      if u = t ∧ t ≠ 0 ∧ e.kind = .none ∧ e.onOffer = true then { e with kind := .pass id } else e) := by
  unfold State.propagateTag
  cases hf : s.fixture t with
  | none =>
    by_cases hu : u = t
    · subst hu; simp [hf]
    · cases s.fixture u <;> simp [hu]
  | some e =>
    simp only []
    by_cases hc : t ≠ 0 ∧ e.kind = .none ∧ e.onOffer = true
    · simp only [hc, and_true, if_true, ne_eq, not_false_eq_true]
      have hspec := s.updateFixture_spec t (fun e => { e with kind := .pass id }) (fun _ => rfl)
      have heq : ∀ w, (State.bookEntitlement t (s.updateFixture t (fun e => { e with kind := .pass id }))).fixture w =
          (s.updateFixture t (fun e => { e with kind := .pass id })).fixture w := fun w => rfl
      rw [heq]
      by_cases hu : u = t
      · subst hu; rw [hspec.1, hf]; simp [hc]
      · rw [hspec.2 u hu]; cases s.fixture u <;> simp [hu]
    · simp only [hc, if_false]
      by_cases hu : u = t
      · subst hu; rw [hf]; simp only [Option.map_some, true_and, hc, if_false]
      · cases s.fixture u <;> simp [hu]

/-- R82, R169: one tag books ENTITLEMENT_CHANGED when its entry is reached, and no condition otherwise. -/
theorem State.propagateTag_conds (s : State) (id : PassId) (t : Tag) :
    (s.propagateTag id t).conds = if s.reaches t = true then (s.book .entitlementChanged (.tag t)).conds else s.conds := by
  unfold State.propagateTag State.reaches
  cases h : s.fixture t with
  | none => simp
  | some e =>
    have hb : (t != 0 && e.kind == .none && e.onOffer) = true ↔ t ≠ 0 ∧ e.kind = .none ∧ e.onOffer = true := by simp [and_assoc]
    by_cases hr : t ≠ 0 ∧ e.kind = .none ∧ e.onOffer = true
    · simp only [if_pos hr, if_pos (hb.mpr hr)]; rfl
    · simp only [if_neg hr, if_neg (hr ∘ hb.mp)]

/-- The fold over the list: the NONE entries on offer among its members become PASS, and every other entry stands (R82). -/
theorem State.propagateAll_fixture (id : PassId) (tags : List Tag) : ∀ (s : State) (u : Tag),
    (s.propagateAll id tags).fixture u = (s.fixture u).map (fun e =>
      if u ∈ tags ∧ u ≠ 0 ∧ e.kind = .none ∧ e.onOffer = true then { e with kind := .pass id } else e) := by
  induction tags with
  | nil => intro s u; cases h : s.fixture u <;> simp [State.propagateAll, h]
  | cons t ts ih =>
    intro s u
    have : s.propagateAll id (t :: ts) = (s.propagateTag id t).propagateAll id ts := rfl
    rw [this, ih, s.propagateTag_fixture id t u]
    cases s.fixture u with
    | none => rfl
    | some e =>
      simp only [Option.map_some]
      by_cases hu : u = t
      · subst hu
        by_cases hc : u ≠ 0 ∧ e.kind = .none ∧ e.onOffer = true
        · have h1 : u = u ∧ u ≠ 0 ∧ e.kind = .none ∧ e.onOffer = true := ⟨rfl, hc⟩
          have h2 : u ∈ u :: ts ∧ u ≠ 0 ∧ e.kind = .none ∧ e.onOffer = true := ⟨List.mem_cons_self, hc⟩
          rw [if_pos h1, if_pos h2, if_neg (by simp)]
        · have h2 : ¬ (u = u ∧ u ≠ 0 ∧ e.kind = .none ∧ e.onOffer = true) := fun h => hc h.2
          rw [if_neg h2, if_neg (fun h => hc h.2), if_neg (fun h => hc h.2)]
      · simp [hu]

/-- Settling which booking was the last changes no fixture entry. -/
theorem State.settleLatest_fixture (before : State) (tags : List Tag) (s : State) (u : Tag) :
    (State.settleLatest before tags s).fixture u = s.fixture u := by
  unfold State.settleLatest
  split <;> rfl

/-- Propagation: the NONE entries on offer among the members become PASS, and every other entry stands (R82). -/
theorem State.propagate_fixture (id : PassId) (tags : List Tag) (s : State) (u : Tag) :
    (s.propagate id tags).fixture u = (s.fixture u).map (fun e =>
      if u ∈ tags ∧ u ≠ 0 ∧ e.kind = .none ∧ e.onOffer = true then { e with kind := .pass id } else e) :=
  (State.settleLatest_fixture _ _ _ u).trans (State.propagateAll_fixture id tags s u)

end Sys2Proof.Machine
end

