-- ==== Sys2Proof/Laws/Records.lean ====
section
/-! SUPPORT. The fields of records as numbers and as bytes (R178): the model's little-endian words against the statements' sums and lists. -/

namespace Sys2Proof.Machine

open Sys2Proof.Safety

/-! ### Reading a field -/

/-- A two-byte field is the number in its two bytes. -/
theorem le16_toNat (bs : List Byte) (i : Nat) : (le16 bs i).toNat = leAt bs i 2 := by
  rw [le16, BitVec.toNat_append, ← Nat.shiftLeft_add_eq_or_of_lt (byteAt bs i).isLt, Nat.shiftLeft_eq]
  simp only [leAt]
  omega

/-- A four-byte field is the number in its four bytes. -/
theorem le32_toNat (bs : List Byte) (i : Nat) : (le32 bs i).toNat = leAt bs i 4 := by
  rw [le32, BitVec.toNat_append, ← Nat.shiftLeft_add_eq_or_of_lt (le16 bs i).isLt, Nat.shiftLeft_eq, le16_toNat, le16_toNat]
  simp only [leAt, Nat.add_assoc, Nat.reduceAdd]
  omega

/-! ### Writing a field -/

@[simp] theorem leBytes_length (n v : Nat) : (leBytes n v).length = n := by
  induction n generalizing v with
  | zero => rfl
  | succ n ih => simp [leBytes, ih]

@[simp] theorem signedBytes_length (z : Int) : (signedBytes z).length = 4 := leBytes_length _ _

@[simp] theorem unassigned_length (n : Nat) : (unassigned n).length = n := List.length_replicate

/-- A two-byte field is written lowest byte first. -/
theorem bytes16_eq_leBytes (v : BitVec 16) : bytes16 v = leBytes 2 v.toNat := by
  simp [bytes16, leBytes, ← BitVec.toNat_inj, Nat.shiftRight_eq_div_pow]

/-- A four-byte field is written lowest byte first. -/
theorem bytes32_eq_leBytes (v : BitVec 32) : bytes32 v = leBytes 4 v.toNat := by
  simp [bytes32, leBytes, ← BitVec.toNat_inj, Nat.shiftRight_eq_div_pow, Nat.div_div_eq_div_mul]

/-- A signed field is written in two's complement. -/
theorem bytesInt_eq_signedBytes (z : Int) : bytesInt z = signedBytes z := by
  rw [bytesInt, bytes32_eq_leBytes, BitVec.toNat_ofInt, signedBytes]
  rfl

end Sys2Proof.Machine
end

