-- ==== Sys2Proof/Laws/Store.lean ====
section
/-! SUPPORT. The retention unit's shared operations: what judging answers, the parts of a page write, and what one cycle does. -/

namespace Sys2Proof.Machine

theorem allFF_iff {α : Type} (r : SectionBytes α) : SectionBytes.allFF r = true ↔ ∀ b ∈ r.bytes, b = 0xFF#8 := by
  simp [SectionBytes.allFF]

theorem torn_iff {α : Type} (r : SectionBytes α) : SectionBytes.torn r = true ↔ byteAt r.bytes 0 ≠ 0xA5#8 ∨ sumBytes r.bytes ≠ 0 := by
  simp [SectionBytes.torn]

/-- Judging has three outcomes: blank, lost for torn bytes or unsound fields, or good with the value. -/
theorem judge_cases {α β : Type} (r : SectionBytes α) (sound : Bool) (value : β) :
    (SectionBytes.allFF r = true ∧ judge r sound value = .blank) ∨
      (SectionBytes.allFF r = false ∧ (SectionBytes.torn r = true ∨ sound = false) ∧ judge r sound value = .lost) ∨
      (SectionBytes.allFF r = false ∧ SectionBytes.torn r = false ∧ sound = true ∧ judge r sound value = .good value) := by
  unfold judge
  cases SectionBytes.allFF r <;> cases SectionBytes.torn r <;> cases sound <;> simp

theorem pagesOf_pos (i : SectionImage) : 0 < pagesOf i := by cases i <;> simp [pagesOf]

/-- A page write names the section's word address and page; its data are the page's bytes, with the mark OPEN in the first write alone. -/
theorem pageWriteOf_cases (i : SectionImage) (page : Nat) :
    ∃ data, pageWriteOf i page =
        .write eepromAddress (sectionAddress (SectionImage.name i) + BitVec.ofNat 16 (32 * (page % pagesOf i))) data ∧
      (page ≠ 0 → data = ((sectionBytes i).drop (32 * (page % pagesOf i))).take 32) ∧
      (page = 0 → data = ((sectionBytes i).take 32).set 0 0x5A#8) := by
  refine ⟨_, rfl, fun h => by simp [h], fun h => by subst h; simp⟩

/-- A write pass starts with the first captured section, or leaves the unit IDLE. -/
theorem startPass_cases (s : State) :
    (s.capture = [] ∧ s.startPass = s.setStore .idle) ∨
      ∃ image rest, s.capture = image :: rest ∧
        s.startPass = State.bus (pageWriteOf image 0)
          { s with store := { s.store with st := .writing (image :: rest) 0 false, dirty := ⟨false, false, false⟩ } } := by
  unfold State.startPass
  cases h : s.capture with
  | nil => exact .inl ⟨rfl, rfl⟩
  | cons image rest => exact .inr ⟨image, rest, rfl, rfl⟩

@[simp] theorem pollAcknowledged_true (s : State) : s.pollAcknowledged true = s := rfl
@[simp] theorem pollAcknowledged_false (s : State) : s.pollAcknowledged false = s.bus addressPoll := rfl

/-- One cycle leaves the part as it is, or, while a page write is under way, counts a turn and may put the bus address on the bus; nothing else changes. -/
theorem busCycle_cases (s : State) :
    s.busCycle = s ∨
      ∃ image rest page polling, s.store.awaitingStop = false ∧ s.store.st = .writing (image :: rest) page polling ∧
        ((Config.pollAt s.store.turns = false ∧ s.busCycle = { s with store := { s.store with turns := s.store.turns + 1 } }) ∨
          (Config.pollAt s.store.turns = true ∧ s.busCycle = { s with
            store := { s.store with st := .writing (image :: rest) page true, turns := s.store.turns + 1 }
            emitted := s.emitted ++ [.bus addressPoll] })) := by
  unfold State.busCycle
  split
  · rename_i image rest page polling ha hst
    refine .inr ⟨image, rest, page, polling, ha, hst, ?_⟩
    cases Config.pollAt s.store.turns
    · exact .inl ⟨rfl, rfl⟩
    · exact .inr ⟨rfl, rfl⟩
  · exact .inl rfl

end Sys2Proof.Machine
end

