-- ==== Sys2Proof/Tests/Slice0.lean ====
section
/-! SUPPORT. Tests: ill-formed commands that WellFormed refuses, the spec's worked examples, and for every statement with hypotheses a concrete state that meets them. -/

namespace Sys2Proof.Tests

open Sys2Proof.Machine Sys2Proof.Safety

set_option Elab.async false

/-! ### Helpers -/

/-- The state after a command. -/
def after (c : Instr) (s : State) : State :=
  match exec c s with
  | .next t => t
  | _ => s

/-- `n` zero bytes. -/
def zeros (n : Nat) : List Byte := List.replicate n 0

/-- A write of whole bytes. -/
def wr (c : Cls) (a : Addr) (data : List Byte) : WriteReq := { addr := a, cls := c, data := data, enables := List.replicate data.length true }

/-- A 16-byte write with its first four bytes enabled alone. -/
def wr4 (c : Cls) (a : Addr) (v : Nat) : WriteReq :=
  { addr := a, cls := c, data := bytes32 (BitVec.ofNat 32 v) ++ zeros 12, enables := List.replicate 4 true ++ List.replicate 12 false }

/-- A read. -/
def rd (c : Cls) (a : Addr) (n : Nat) : ReadReq := { addr := a, len := n, cls := c }

/-- The key of Table 2-2: A = 1, B = 2. -/
def key12 : Key := 0x0000000200000001

/-- A decoder number 7 after a restore that found nothing, its clock RUNNING at 1,000. -/
def blank : State :=
  { State.reset with
    emitted := []
    unit := ⟨7, key12⟩
    clock := ⟨true, 1000, 0⟩
    store := ⟨.idle, ⟨false, false, false⟩, false, 0⟩ }

/-- The map of section 9.8, with a cell ring and the slate before it. -/
def map98 : List Region :=
  [⟨.cellRing, 0x02, 0x0C, 0x09000000, 2048⟩, ⟨.slate, 0x01, 0x00, 0x08FFF000, 1024⟩, ⟨.cellRing, 0x02, 0x00, 0x0A000000, 2048⟩,
    ⟨.orderRing, 0x01, 0x00, 0x08000000, 1152⟩, ⟨.reportRing, 0x01, 0x00, 0x08001000, 1152⟩, ⟨.shielded, 0x01, 0x00, 0x08100000, 4096⟩]

/-- The decoder PLACED on that map, with the slots of its first cell ring that a test names. -/
def placedAt (slots : List Slot) : State :=
  { blank with
    path := { regions := map98, inflight := [], own := [], nextId := 0, choices := 0 }
    slots := slots
    placement := ⟨.placed, none, 1, false⟩
    orders := ⟨.idle, some ⟨0x08000000, 16, 0, 0⟩⟩
    reports := ⟨some ⟨0x08001000, 16, 0, 0⟩, none⟩ }

/-- The decoder PLACED, with one EMPTY slot. -/
def placed : State := placedAt [⟨0, 0, .empty⟩]

/-- A schedule like fixture 7,200's of section 5.10. -/
def sch510 : Schedule :=
  { service := 20, saleOpen := 400000, kickOff := 500000, finish := 510000, base := 1200, floor := 450, stepLen := 900, stepCut := 150,
    allowance := 60, blackout := [14, 31], cancelled := false }

/-- A fixture entry. -/
def fx (t : Tag) (ph : Phase) (k : Kind) : FixtureEntry :=
  { tag := t, standing := .scheduled { sch510 with cancelled := ph == .cancelled } ph, kind := k, viewed := false, remaining := 60, delivered := false }

/-- An AWAITING fixture entry. -/
def fxAwaiting (t : Tag) (k : Kind) : FixtureEntry :=
  { tag := t, standing := .awaiting, kind := k, viewed := false, remaining := 0, delivered := false }

/-- A fixture table that begins with these entries. -/
def fixturesOf (es : List FixtureEntry) : List (Option FixtureEntry) := es.map some ++ List.replicate (32 - es.length) none

/-- A pass table that begins with these entries. -/
def passesOf (ps : List PassEntry) : List (Option PassEntry) := ps.map some ++ List.replicate (4 - ps.length) none

/-- A log entry. -/
def le (seq : Seq) (k : LogKind) (ident : BitVec 16) (amount : Credit) : LogEntry :=
  { seq := seq, kind := k, ident := ident, amount := amount, clock := 0, balanceAfter := 0 }

/-- A cell: kind, flags, service, tag, period, sequence, and the payload's first bytes. -/
def cell (kind flags : Byte) (svc : BitVec 16) (t : Tag) (n : Period) (seq : Seq) (payload : List Byte) : List Byte :=
  [kind, flags] ++ bytes16 svc ++ bytes16 t ++ bytes16 n ++ bytes32 seq ++ zeros 4 ++ payload ++ zeros (112 - payload.length)

/-- The same with the last payload byte closing the checksum. -/
def summed (c : List Byte) : List Byte := c.set 127 (0 - sumBytes ((c.drop 16).take 112))

/-- A grant for unit 7. -/
def grant (kind : Byte) (seq : Seq) (operands : List Byte) : List Byte :=
  cell 3 0 0 0 0 0 ([0, kind] ++ bytes32 7 ++ bytes32 seq ++ operands)

/-- A grant for group 4. -/
def groupGrant (kind : Byte) (operands : List Byte) : List Byte :=
  cell 3 0 0 0 0 0 ([1, kind] ++ bytes16 4 ++ zeros 2 ++ bytes32 0 ++ operands)

/-- The state with one cell in the message queue. -/
def queued (k : CtrlKind) (c : List Byte) (s : State) : State := { s with engine := { queue := [⟨k, c⟩], headKey := none } }

/-- The state with an order fetched without error. -/
def fetched (o : List Byte) (s : State) : State := { s with orders := { s.orders with st := .fetching 2 (some ⟨o, false⟩) } }

/-- An order: kind, number, operands. -/
def order (kind : Byte) (number : BitVec 32) (operands : List Byte) : List Byte :=
  [kind, 0, 0, 0] ++ bytes32 number ++ operands ++ zeros (56 - operands.length)

/-- A request in flight. -/
def flight (id : Nat) (c : Cls) (parts : List Part) (a : Option Answer) : Inflight :=
  { id := id, cls := c, req := .read (rd c 0 16), parts := parts, answer := a }

theorem no_ready {s : State} (h : s.path.inflight = []) : NoReadyOldest s := by
  intro c e he; simp [State.classList, h] at he

/-! ### WellFormed refuses -/

theorem test_wf_read_length : (Instr.upstreamRead (rd .cpu 0 8)).wf = false := by decide
theorem test_wf_read_long : (Instr.upstreamRead (rd .cpu 0 144)).wf = false := by decide
theorem test_wf_read_alignment : (Instr.gatedRead (rd .video 8 16)).wf = false := by decide
theorem test_wf_write_enables :
    (Instr.upstreamWrite { addr := 0, cls := .cpu, data := zeros 16, enables := [true] }).wf = false := by decide
theorem test_wf_write_length : (Instr.wholeCellWrite (wr .cpu 0 (zeros 20))).wf = false := by decide
theorem test_wf_arming : (Instr.armingWrite (.read (rd .cpu 4 16))).wf = false := by decide
theorem test_wf_answer : (Instr.forwardedAnswer 0 ⟨zeros 7, false⟩).wf = false := by decide
theorem test_wf_head : (Instr.placementHeadReadAnswer ⟨zeros 32, false⟩).wf = false := by decide
theorem test_wf_descriptors : (Instr.placementDescriptorReadAnswer ⟨zeros 16, false⟩).wf = false := by decide
theorem test_wf_order : (Instr.orderFetchAnswer ⟨zeros 16, false⟩).wf = false := by decide
theorem test_wf_timer : (Instr.holdTimerExpiry 12 0).wf = false := by decide
theorem test_wf_timer_slot : (Instr.holdTimerExpiry 0 2048).wf = false := by decide

/-- `n` bytes of a section: a mark, zeros, and the checksum that closes their sum. -/
def sectionOf (mark : Byte) (n : Nat) : List Byte := mark :: zeros (n - 2) ++ [0 - mark]

/-- Section S0 as these bytes, with these memberships. -/
def s0Read (bytes : List Byte) (ms : List Membership) : SectionBytes S0Fields :=
  { bytes := bytes
    fields := { balance := 500, reference := 700, spent := 0, cap := 0, overdraft := 0, zone := 0, memberships := ms, lastSeq := 0, nextSeq := 9 } }

/-- A closed section S1 with a count and entries. -/
def s1Read (count : Nat) (es : List LogEntry) : SectionBytes S1Fields :=
  { bytes := sectionOf 0xA5 1344, fields := { count := count, kindsOk := true, entries := es } }

/-- A closed section S2 with records. -/
def s2Read (fs : List FixtureRec) (ps : List PassRec) : SectionBytes S2Fields :=
  { bytes := sectionOf 0xA5 2048, fields := { fixtures := fs, passes := ps } }

theorem test_wf_s0_length : (Instr.eepromSectionRead (.s0 (s0Read (sectionOf 0xA5 127) (List.replicate 4 ⟨0, 0⟩)))).wf = false := by decide +kernel
theorem test_wf_s1_length : (Instr.eepromSectionRead (.s1 { s1Read 0 [] with bytes := sectionOf 0xA5 1312 })).wf = false := by decide +kernel
theorem test_wf_s2_length : (Instr.eepromSectionRead (.s2 { s2Read [] [] with bytes := sectionOf 0xA5 2047 })).wf = false := by decide +kernel
theorem test_wf_s0_memberships : (Instr.eepromSectionRead (.s0 (s0Read (sectionOf 0xA5 128) []))).wf = false := by decide +kernel
theorem test_wf_s1_count : (Instr.eepromSectionRead (.s1 (s1Read 2 []))).wf = false := by decide +kernel
theorem test_wf_s2_repeated :
    (Instr.eepromSectionRead (.s2 (s2Read [⟨1, .granted, 0, 0, false, none⟩, ⟨1, .granted, 0, 0, false, none⟩] []))).wf = false := by decide +kernel
theorem test_wf_s2_tag_zero : (Instr.eepromSectionRead (.s2 (s2Read [⟨0, .granted, 0, 0, false, none⟩] []))).wf = false := by decide +kernel
theorem test_wf_s2_zones :
    (Instr.eepromSectionRead (.s2 (s2Read [⟨1, .impulse, 0, 0, false, some { sch510 with blackout := List.replicate 17 1 }⟩] []))).wf = false := by
  decide +kernel
theorem test_wf_s2_fixtures :
    (Instr.eepromSectionRead (.s2 (s2Read ((List.range 33).map (fun i => ⟨BitVec.ofNat 16 (i + 1), .granted, 0, 0, false, none⟩)) []))).wf = false := by
  decide +kernel
theorem test_wf_s2_passes :
    (Instr.eepromSectionRead (.s2 (s2Read [] ((List.range 5).map (fun i => ⟨BitVec.ofNat 8 (i + 1), .granted, []⟩))))).wf = false := by decide +kernel
theorem test_wf_s2_pass_repeated : (Instr.eepromSectionRead (.s2 (s2Read [] [⟨1, .granted, []⟩, ⟨1, .none, []⟩]))).wf = false := by decide +kernel
theorem test_wf_s2_pass_zero : (Instr.eepromSectionRead (.s2 (s2Read [] [⟨0, .granted, []⟩]))).wf = false := by decide +kernel
theorem test_wf_s2_members : (Instr.eepromSectionRead (.s2 (s2Read [] [⟨1, .granted, List.replicate 17 1⟩]))).wf = false := by decide +kernel

/-! ### The scrambler: sections 2.2 and 2.3 -/

theorem test_keystream_table_2_2 :
    keystream key12 0 0 = 0x00000003 ∧ keystream key12 0 1 = 0x00000040 ∧ keystream key12 0 2 = 0x0021B200 := by decide
theorem test_unwrap_worked : unwrap key12 0 0x11223347 0x556677C8 = 0x5566778811223344 := by decide
theorem test_descramble_worked :
    (List.range 4).map (fun p => descramble 0x5566778811223344 0x00012D40 p (byteAt [0x8D, 0x69, 0x45, 0x44] p)) = [0x01, 0x00, 0x00, 0x00] := by
  decide

/-! ### Prices: section 5.10 -/

theorem test_price_late_join : fixturePrice sch510 502300 = 900 := by decide
theorem test_price_step_boundary : fixturePrice sch510 502600 = 900 ∧ fixturePrice sch510 502700 = 750 := by decide
theorem test_price_floor : fixturePrice sch510 507300 = 450 := by decide
theorem test_price_before_kick_off : fixturePrice sch510 499999 = 1200 := by decide

/-! ### Records: section 13.6 -/

theorem test_reply_worked :
    (Report.reply 1 .accepted 2 4410 (.purchase 900 305 (-700))).encode =
      [2, 1, 0, 2, 0x3A, 0x11, 0, 0, 0x84, 3, 0, 0, 0x31, 1, 0, 0, 0x44, 0xFD, 0xFF, 0xFF] ++ zeros 44 := by decide +kernel

/-- The same record laid out by the tables of sections 13.4 and 13.5. -/
theorem test_reply_laid_out :
    reportBytes (.reply 1 .accepted 2 4410 (.purchase 900 305 (-700))) =
      [2, 1, 0, 2, 0x3A, 0x11, 0, 0, 0x84, 3, 0, 0, 0x31, 1, 0, 0, 0x44, 0xFD, 0xFF, 0xFF] ++ zeros 44 := by decide +kernel

/-! ### Clock and queue of commands -/

theorem witness_EmptyQueueIsOneClockCycle :
    blank.pending = [] ∧ (blank.clock.running = true ∧ blank.clock.sub + 1 < 24576000) ∧
      State.reset.pending = [] ∧ State.reset.clock.running = false ∧
      ({ blank with clock := ⟨true, 5, 24575999⟩ } : State).pending = [] ∧ 24576000 ≤ ({ blank with clock := ⟨true, 5, 24575999⟩ } : State).clock.sub + 1 := by
  decide

/-- The decoder writing these images. -/
def writingStore (images : List SectionImage) (page : Nat) (polling : Bool := false) : State :=
  { blank with store := ⟨.writing images page polling, ⟨false, false, true⟩, false, 0⟩ }

theorem witness_EmptyQueueIsOneClockCycle_on_the_bus :
    (writingStore [.s1 []] 3).pending = [] ∧ pageUnderWay (writingStore [.s1 []] 3) ∧ pageUnderWay (writingStore [.s1 []] 3 true) ∧ ¬ pageUnderWay blank :=
  ⟨rfl, ⟨_, _, _, _, rfl, rfl⟩, ⟨_, _, _, _, rfl, rfl⟩, fun ⟨_, _, _, _, h, _⟩ => nomatch h⟩

/-- R172: in the cycles that the free value names, a page write that has begun reaches its stop and the bus address is put on the bus; in the others it is not. -/
theorem test_cycle_polls (h : Config.pollAt 0 = true) :
    (writingStore [.s1 []] 3).busCycle.emitted = [.bus (.poll 0b1010010)] ∧ (writingStore [.s1 []] 3).busCycle.store.st = .writing [.s1 []] 3 true := by
  simp [State.busCycle, writingStore, h, State.bus, addressPoll, eepromAddress, State.setStore, blank]

/-- Section 8.2: the rise that would take the sub-second count to 24,576,000 is a second event. -/
theorem test_tick_ends_the_second :
    step { blank with clock := ⟨true, 0xFFFFFFFF, 24575999⟩ } = .next { blank with clock := ⟨true, 0, 0⟩ } := by rfl

/-! ### The invariants, all at one state -/

/-- A state that meets every invariant, with something in every block and a command in front. -/
def rich : State :=
  { placedAt [⟨0, 0, .program ⟨1, true, 20, 1, 5, 9⟩ (.held .entitled 20 true 5)⟩] with
    pending := [.secondEvent]
    path := { regions := map98, own := [], nextId := 1, choices := 0,
              inflight := [flight 0 .video [⟨0, 0, 0, 16, 16, .held⟩] (some ⟨zeros 16, false⟩)] }
    keys := some ⟨20, .empty, .pending 5, 1000⟩ :: List.replicate 15 none
    engine := { queue := [⟨.time, cell 4 0 0 0 0 0 (bytes32 1000)⟩], headKey := none }
    fixtures := fixturesOf [fx 1 .live (.impulse 900), fx 2 .cancelled (.impulse 300), fxAwaiting 3 .granted]
    refunds := [2]
    passes := passesOf [⟨9, [1, 2], none, .granted⟩]
    purse := { Purse.defaults with balance := 400, reference := 464 }
    log := { entries := (List.range 64).map (fun i => le (BitVec.ofNat 32 (i + 1)) .purchase 1 1), next := 65 } }

theorem rich_credit : CreditSound rich := by
  refine ⟨by unfold purseLaw; decide, by unfold purseInRange; decide, by decide, by decide, by decide, ?_⟩
  intro _ _ h; nomatch h

theorem rich_numbered : LogNumbered rich := by
  refine ⟨(risesByOne_iff _).mp (by decide +kernel), ?_, ?_⟩
  · intro e he
    have : rich.log.entries.getLast? = some (le 64 .purchase 1 1) := by decide +kernel
    rw [this] at he; cases he; rfl
  · intro _ _ h; nomatch h

theorem rich_front : FrontWf rich := by intro c rest h; cases h; rfl

theorem rich_capacity : Capacity rich := by
  refine ⟨by decide, ?_, by decide, by decide, by decide, by decide, by decide, by decide, by decide, ?_, by decide, ?_, ?_, ?_, ?_, by unfold slotsDistinct; decide⟩
  · intro c; cases c <;> decide
  · intro k; cases k <;> decide
  · unfold inUse
    intro p hp
    have : some p ∈ rich.passes := hp
    simp only [rich, passesOf, List.map_cons, List.map_nil, List.mem_append, List.mem_cons, List.mem_replicate, List.not_mem_nil, or_false] at this
    rcases this with h | h
    · cases h; decide
    · nomatch h.2
  · intro _ _ h; nomatch h
  · intro _ _ _ h; nomatch h
  · intro e sch ph he hs
    have : some e ∈ rich.fixtures := he
    simp only [rich, fixturesOf, List.map_cons, List.map_nil, List.mem_append, List.mem_cons, List.mem_replicate, List.not_mem_nil, or_false] at this
    rcases this with (h | h | h) | h
    · cases h; cases hs; decide
    · cases h; cases hs; decide
    · cases h; nomatch hs
    · nomatch h.2

theorem inUse_of_list {α : Type} {es : List α} {n : Nat} {e : α} (h : inUse (es.map some ++ List.replicate n none) e) : e ∈ es := by
  unfold inUse at h
  rcases List.mem_append.mp h with h | h
  · obtain ⟨a, ha, he⟩ := List.mem_map.mp h
    cases he; exact ha
  · nomatch (List.mem_replicate.mp h).2

theorem rich_keys : KeyBankSound rich := by
  refine ⟨by decide, fun e he => ?_⟩
  have := inUse_of_list (es := [(⟨20, .empty, .pending 5, 1000⟩ : KeyEntry)]) (n := 15) he
  simp only [List.mem_singleton] at this
  subst this; decide

theorem rich_tables : TablesKeyed rich := by
  refine ⟨by decide, fun e he => ?_, by decide, fun p hp => ?_⟩
  · have := inUse_of_list (n := 29) he
    simp only [List.mem_cons, List.not_mem_nil, or_false] at this
    rcases this with rfl | rfl | rfl <;> decide
  · have := inUse_of_list (n := 3) hp
    simp only [List.mem_singleton] at this
    subst this; decide

theorem rich_refunds : RefundQueueSound rich := by
  refine ⟨by decide, by decide, by decide, fun t ht => ?_, by decide +kernel, fun h => nomatch h⟩
  have : t = 2 := by simpa [rich] using ht
  subst this
  exact ⟨fx 2 .cancelled (.impulse 300), by decide, ⟨{ sch510 with cancelled := true }, by decide⟩, 300, rfl⟩

theorem rich_fixtures : FixturesSound rich := by
  intro e he
  have := inUse_of_list (n := 29) he
  simp only [List.mem_cons, List.not_mem_nil, or_false] at this
  rcases this with rfl | rfl | rfl
  · exact ⟨by decide, by decide⟩
  · exact ⟨by decide, by decide⟩
  · exact ⟨by decide, rfl⟩

theorem not_reading {s : State} {p : Prop} (h : s.placement.st = .placed) : reading s → p := by
  rintro ⟨a, x, g, h'⟩; rw [h] at h'; nomatch h'

theorem rich_placement : PlacementSound rich := by
  refine ⟨fun h => absurd rfl h, fun _ => ⟨⟨?_, ?_⟩, ⟨⟨0x08000000, 16, 0, 0⟩, rfl, by unfold viewSound; decide⟩, ⟨0x08001000, 16, 0, 0⟩, rfl, by unfold viewSound; decide⟩, by decide, not_reading rfl⟩
  · show ∀ r ∈ map98, _
    decide
  · show map98.Pairwise _
    decide

theorem rich_holds : HoldsSound rich := by
  intro e he p hp _
  have he' : e = flight 0 .video [⟨0, 0, 0, 16, 16, .held⟩] (some ⟨zeros 16, false⟩) := by simpa [rich] using he
  subst he'
  have hp' : p = ⟨0, 0, 0, 16, 16, .held⟩ := by simpa [flight] using hp
  subst hp'
  exact ⟨⟨1, true, 20, 1, 5, 9⟩, .entitled, 20, true, 5, by decide⟩

theorem rich_ready : NoReadyOldest rich := by
  intro c e he
  cases c <;> simp [State.classList, rich, flight] at he
  subst he; rfl

/-- Every invariant holds at one state, from which a step is made: PurseLawAndNumberingAreKept, CapacitiesAreKept, TableKeysStayDistinct, RefundQueueStaysSound,
FixturePartsStayInAgreement, PlacementStaysSound, HeldPartsKeepHeldSlots, ReadyAnswersAreReturned. -/
theorem witness_invariants :
    CreditSound rich ∧ LogNumbered rich ∧ Capacity rich ∧ KeyBankSound rich ∧ TablesKeyed rich ∧ RefundQueueSound rich ∧ FixturesSound rich ∧
      PlacementSound rich ∧ HoldsSound rich ∧ NoReadyOldest rich ∧ RequestsNumbered rich ∧ FrontWf rich ∧
      step rich = .next (after .secondEvent { rich with pending := [] }) :=
  ⟨rich_credit, rich_numbered, rich_capacity, rich_keys, rich_tables, rich_refunds, rich_fixtures, rich_placement, rich_holds, rich_ready, ⟨by decide, by decide⟩, rich_front, rfl⟩

/-! ### Resets -/

theorem test_power_on_reset : (after .powerOnReset rich).purse = Purse.defaults ∧ (after .powerOnReset rich).store.st = .restoring none none := by decide
theorem test_link_reset :
    (after .linkReset rich).clock = rich.clock ∧ (after .linkReset rich).refunds = [2] ∧ (after .linkReset rich).path.inflight = [] := by decide

/-! ### Requests (chapters 1 and 9) -/

/-- VIDEO's list holds 32. -/
def full32 : State := { placed with path := { placed.path with inflight := List.replicate 32 (flight 0 .video [] none) } }

/-- Every command that carries a request carries it (O15 to O20, O46, O48). -/
theorem witness_carried (r : ReadReq) (w : WriteReq) :
    (carriesRead r (.upstreamRead r) ∧ carriesRead r (.gatedRead r) ∧ carriesRead r (.armingWrite (.read r))) ∧
      carriesWrite w (.upstreamWrite w) ∧ carriesWrite w (.wholeCellWrite w) ∧ carriesWrite w (.cellBreak w) ∧
      carriesWrite w (.orderProducerWrite w) ∧ carriesWrite w (.reportConsumerWrite w) ∧ carriesWrite w (.armingWrite (.write w)) := by
  simp [carriesRead, carriesWrite]

theorem witness_RequestsWaitOrAreForwardedWhole :
    (32 ≤ (full32.classList (handled (rd .video 0 16).cls)).length ∧ 32 ≤ (full32.classList (handled (wr .video 0 (zeros 16)).cls)).length ∧
      32 ≤ (full32.classList (handled (requestClass (.read (rd .video 0 16))))).length) ∧
    (roomFor (handled .cpu) placed ∧ NoReadyOldest placed ∧ gatedBytes placed.path.regions (handled .cpu) 0x09000000 128 = [] ∧
      handled .cpu = .cpu ∧ ¬ reading placed) ∧
    (roomFor (handled .video) placed ∧ gatedBytes placed.path.regions (handled .video) 0x0A000000 128 = [] ∧ handled .video ≠ .cpu) := by
  refine ⟨by decide, ⟨by unfold roomFor; decide, no_ready rfl, by decide +kernel, rfl, ?_⟩, by unfold roomFor; decide, by decide +kernel, by decide⟩
  rintro ⟨_, _, _, h⟩; nomatch h

/-- Section 0.3: a request marked class 7 is handled as class 6. -/
theorem test_class_7_is_handled_as_6 :
    (after (.upstreamRead (rd .internal 0x100 16)) blank).emitted = [.forward 0 .spare (.read (rd .spare 0x100 16))] := by decide +kernel

/-- Table 1-9: the payload of an EMPTY slot is served from slate cell 0, by a read of its own bytes of that cell. -/
theorem test_gated_read_of_empty_slot :
    (placed.gateParts .video 0x09000010 16) = [⟨0, 0, 0, 16, 16, .slate 0 none⟩] ∧
      placed.slateRequest 0 ⟨0, 0, 0, 16, 16, .slate 0 none⟩ 0 = .own (.slateRead 0x08FFF010 16 0 0 0) := by decide +kernel

theorem placed_sound : PlacementSound placed :=
  ⟨fun h => absurd rfl h, fun _ => ⟨⟨by decide, by decide⟩, ⟨⟨0x08000000, 16, 0, 0⟩, rfl, by unfold viewSound; decide⟩,
    ⟨0x08001000, 16, 0, 0⟩, rfl, by unfold viewSound; decide⟩, by decide, not_reading rfl⟩

theorem witness_GatedReadIsServedBySlotState :
    roomFor (handled .video) placed ∧ NoReadyOldest placed ∧ (rd .video 0x09000000 32).wf = true ∧ mapSound placed.path.regions ∧
      gatedAt placed (handled (rd .video 0x09000000 32).cls) 0x09000000 16 0 0 16 ∧ gatedAt placed (handled (rd .video 0x09000000 32).cls) 0x09000000 31 0 0 31 :=
  ⟨by unfold roomFor; decide, no_ready rfl, by decide, (placed_sound.2.1 rfl).1,
    ⟨map98[0], by decide +kernel, rfl, by decide, by decide +kernel, by decide +kernel, by decide⟩,
    ⟨map98[0], by decide +kernel, rfl, by decide, by decide +kernel, by decide +kernel, by decide⟩⟩

/-- Write 5 of section 9.8: bytes 0 to 63 are masked and bytes 64 to 127 kept. -/
theorem test_mask_across_region_end :
    keptEnables map98 .periph (wr .periph 0x08100FC0 (zeros 128)) = List.replicate 64 false ++ List.replicate 64 true := by decide +kernel

/-- Writes 1 and 3 of section 9.8. -/
theorem test_masks_on_the_order_ring :
    keptEnables map98 .cpu (wr .cpu 0x08000000 (zeros 16)) = List.replicate 4 true ++ List.replicate 12 false ∧
      keptEnables map98 .cpu (wr4 .cpu 0x08000040 0) = List.replicate 16 false := by decide +kernel

theorem witness_WriteIsPresentedMasked :
    roomFor (handled .cpu) placed ∧ (keptEnables placed.path.regions (handled .cpu) (wr .cpu 0x08000000 (zeros 16))).contains true = true ∧
      (keptEnables placed.path.regions (handled .cpu) (wr4 .cpu 0x08000040 0)).contains true = false ∧ placed.classList (handled .cpu) = [] := by
  refine ⟨by unfold roomFor; decide, by decide +kernel, by decide +kernel, rfl⟩

/-- Writes 1, 5 and 6 of section 9.8: class and region booked. -/
theorem test_shield_hits :
    (after (.upstreamWrite (wr .cpu 0x08000000 (zeros 16))) placed).conds.shieldHit = ⟨true, 1, some (.shield .cpu 3)⟩ ∧
      (after (.upstreamWrite (wr .internal 0x08100000 (zeros 16))) placed).conds.shieldHit = ⟨true, 1, some (.shield .spare 5)⟩ := by decide +kernel

/-- Write 1 of section 9.8 under another of the commands that carry a write: the same enables are presented, and SHIELD_HIT is booked. -/
theorem test_masked_under_any_command :
    (after (.armingWrite (.write (wr .cpu 0x08000000 (zeros 16)))) placed).conds.shieldHit = ⟨true, 1, some (.shield .cpu 3)⟩ ∧
      (after (.cellBreak (wr .cpu 0x08000000 (zeros 16))) placed).emitted.countP isForward = 1 := by decide +kernel

theorem witness_ShieldHitIsBookedOnce :
    roomFor (handled .cpu) placed ∧ lostAddrs placed.path.regions (handled .cpu) (wr4 .cpu 0x08000000 6) = [] ∧
      (∃ g, 0x08000040 ∈ lostAddrs placed.path.regions (handled .cpu) (wr4 .cpu 0x08000040 6) ∧
        (∀ b ∈ lostAddrs placed.path.regions (handled .cpu) (wr4 .cpu 0x08000040 6), 0x08000040 ≤ b) ∧
        locate placed.path.regions 0x08000040 = some (3, g)) ∧
      ((wr4 .cpu 0x08000040 6).enables[3]? = some true ∧ 0x08000043 ∈ lostAddrs placed.path.regions (handled .cpu) (wr4 .cpu 0x08000040 6) ∧
        (wr4 .cpu 0x08000040 6).enables[4]? = some false ∧ 0x08000044 ∉ lostAddrs placed.path.regions (handled .cpu) (wr4 .cpu 0x08000040 6)) :=
  ⟨by unfold roomFor; decide, by decide +kernel, ⟨map98[3], by decide +kernel, by decide +kernel, by decide +kernel⟩, by decide +kernel⟩

/-- R169: sections are added to the set held; other data is replaced, and the count stays at 65,535. -/
theorem test_booking :
    Cond.book ⟨true, 1, some (.sections ⟨true, false, false⟩)⟩ (.sections ⟨false, false, true⟩) = ⟨true, 2, some (.sections ⟨true, false, true⟩)⟩ ∧
      Cond.book ⟨true, 65535, some (.length 56)⟩ (.length 57) = ⟨true, 65535, some (.length 57)⟩ := by decide

/-- R5: 128 bytes, all enabled, at a cell boundary start a new cell; R6: any other write breaks the slots it touches. -/
theorem test_whole_cell_write :
    (after (.wholeCellWrite (wr .transport 0x09000000 (cell 1 1 20 5 3 9 []))) placed).slotAt 0 0 =
      some (.program ⟨1, true, 20, 5, 3, 9⟩ .undecided) := by decide +kernel
theorem test_cell_break : (after (.cellBreak (wr .transport 0x09000070 (zeros 16))) placed).slotAt 0 0 = some .broken := by decide +kernel

theorem witness_WritesStartOrBreakCells :
    roomFor (handled .transport) placed ∧
      wholeCellSlot placed.path.regions 0x09000000 (keptEnables placed.path.regions (handled .transport) (wr .transport 0x09000000 (zeros 128))) =
        some (0, 0) ∧
      (let k := keptEnables placed.path.regions (handled .transport) (wr .transport 0x09000070 (zeros 32))
       wholeCellSlot placed.path.regions 0x09000070 k ≠ some (0, 0) ∧ (0, 0) ∈ touchedSlots placed.path.regions 0x09000070 k ∧
        (0, 2) ∉ touchedSlots placed.path.regions 0x09000070 k) ∧
      mapSound placed.path.regions ∧ slotsDistinct placed ∧ coversSlot placed.path.regions .transport (wr .transport 0x09000780 (zeros 128)) 0 15 ∧
      ¬ coversSlot placed.path.regions .transport (wr .transport 0x09000010 (zeros 128)) 0 0 ∧
      touchesAt placed.path.regions .transport (wr .transport 0x09000070 (zeros 32)) 15 0 0 ∧
      touchesAt placed.path.regions .transport (wr .transport 0x09000070 (zeros 32)) 16 0 1 ∧
      (byteAt (cell 1 0 0 0 0 0 []) 0 = 1 ∧ (byteAt (cell 2 0 0 0 0 0 []) 0).toNat = 2 ∧ (byteAt (cell 6 0 0 0 0 0 []) 0).toNat = 6 ∧
        byteAt (cell 0 0 0 0 0 0 []) 0 = 0 ∧ (byteAt (cell 7 0 0 0 0 0 []) 0).toNat = 7) := by
  refine ⟨by unfold roomFor; decide, by decide +kernel, by decide +kernel, (placed_sound.2.1 rfl).1, by unfold slotsDistinct; decide,
    ⟨by decide +kernel, map98[0], rfl, rfl, by decide, by decide, by decide⟩, ?_, ⟨map98[0], by decide, by decide +kernel, rfl, by decide, by decide⟩,
    ⟨map98[0], by decide, by decide +kernel, rfl, by decide, by decide⟩, by decide +kernel⟩
  rintro ⟨_, g, hg, _, _, _, ha⟩
  cases hg
  exact absurd ha (by decide)

/-- A read in flight with a waiting part on slot 0 and a held part on slot 1. -/
def waiting : State :=
  { placedAt [⟨0, 0, .program ⟨1, false, 20, 0, 5, 9⟩ .undecided⟩, ⟨0, 1, .program ⟨1, true, 20, 0, 6, 9⟩ (.held .plain 20 true 6)⟩] with
    path := { regions := map98, own := [], nextId := 9, choices := 0,
              inflight := [flight 4 .video [⟨0, 0, 0, 16, 16, .waiting false⟩] none, flight 5 .audio [⟨0, 1, 0, 16, 16, .held⟩] (some ⟨zeros 16, false⟩)] }
    keys := some ⟨20, .valid 5 0x5566778811223344, .pending 6, 900⟩ :: List.replicate 15 none }

theorem waiting_ready : NoReadyOldest waiting := by
  intro c e he
  cases c <;> simp [State.classList, waiting, flight] at he <;> (subst he; rfl)

/-- A TIME cell with its checksum closed, and one without. -/
def timeSummed : List Byte := summed (cell 4 0 0 0 0 0 (bytes32 1000))

theorem witness_WritesReachReadersAndMessageEngine :
    (roomFor (handled .transport) waiting ∧ NoReadyOldest waiting ∧
      (∃ e ∈ waiting.path.inflight, ∃ p ∈ e.parts, p.serving = .held ∧
        (p.region, p.slot) ∈ touchedSlots waiting.path.regions 0x09000080
          (keptEnables waiting.path.regions (handled .transport) (wr .transport 0x09000080 (zeros 16))))) ∧
      (roomFor (handled .transport) placed ∧ PlacementSound placed ∧
        wholeCellSlot placed.path.regions 0x09000000 (keptEnables placed.path.regions (handled .transport) (wr .transport 0x09000000 timeSummed)) =
          some (0, 0) ∧
        wholeCellSlot placed.path.regions 0x09000070 (keptEnables placed.path.regions (handled .transport) (wr .transport 0x09000070 (zeros 16))) = none) ∧
      (∀ k, classify (byteAt (cell 1 0 20 5 3 9 []) 0) ≠ .control k) ∧
      (classify (byteAt timeSummed 0) = .control .time ∧ sumBytes ((timeSummed.drop 16).take 112) = 0 ∧
        sumBytes (((cell 4 0 0 0 0 0 (bytes32 1000)).drop 16).take 112) ≠ 0 ∧ placed.engine.queue.length < 16 ∧ 16 ≤ (List.replicate 16 timeSummed).length) := by
  refine ⟨⟨by unfold roomFor; decide, waiting_ready, _, List.mem_cons_of_mem _ (List.mem_singleton.mpr rfl), _, List.mem_singleton.mpr rfl, rfl, by decide +kernel⟩,
    ⟨by unfold roomFor; decide, placed_sound, by decide +kernel, by decide +kernel⟩, ?_, by decide +kernel⟩
  have h : classify (byteAt (cell 1 0 20 5 3 9 []) 0) = .program := by decide +kernel
  intro k hk
  rw [h] at hk
  nomatch hk

/-- A write with an enable left, one with none left of a class with none in flight, and one with none left behind a read in flight. -/
theorem witness_WritesReachReadersAndMessageEngine_class_list :
    (roomFor (handled .transport) waiting ∧ (keptEnables map98 (handled .transport) (wr .transport 0x09000080 (zeros 16))).contains true = true) ∧
      (roomFor (handled .cpu) waiting ∧ (keptEnables map98 (handled .cpu) (wr4 .cpu 0x08000040 0)).contains true = false ∧ waiting.classList (handled .cpu) = []) ∧
      (roomFor (handled .video) waiting ∧ (keptEnables map98 (handled .video) (wr4 .video 0x08000040 0)).contains true = false ∧
        waiting.classList (handled .video) ≠ []) :=
  ⟨⟨by unfold roomFor; decide, by decide +kernel⟩, ⟨by unfold roomFor; decide, by decide +kernel, by decide⟩, by unfold roomFor; decide, by decide +kernel, by decide⟩

/-- R145: a write with no enable left is acknowledged at once, and behind a read of its class in flight it waits for that read's answer; a forwarded write waits
for memory. -/
theorem test_writes_in_flight :
    (after (.upstreamWrite (wr4 .cpu 0x08000040 0)) waiting).emitted = [.answer 9 .cpu ⟨[], false⟩] ∧
      (after (.upstreamWrite (wr4 .video 0x08000040 0)) waiting).emitted = [] ∧
      ((after (.upstreamWrite (wr4 .video 0x08000040 0)) waiting).path.inflight.map (·.answer)).getLast? = some (some ⟨[], false⟩) ∧
      ((after (.upstreamWrite (wr4 .cpu 0x08000000 0)) waiting).path.inflight.map (·.answer)).getLast? = some none := by decide +kernel

/-- R119: a TIME cell at its write joins the tail of the queue; with a bad checksum it books BAD_CELL. -/
theorem test_time_cell_at_its_write :
    (after (.wholeCellWrite (wr .transport 0x09000000 timeSummed)) placed).engine.queue = [⟨.time, timeSummed⟩] ∧
      (after (.wholeCellWrite (wr .transport 0x09000000 (cell 4 0 0 0 0 0 (bytes32 1000)))) placed).conds.badCell = ⟨true, 1, some (.reason .badChecksum)⟩ := by
  decide +kernel

theorem test_rewrite_makes_part_stale :
    (after (.cellBreak (wr .transport 0x09000000 (zeros 16))) waiting).path.inflight.map (fun e => e.parts.map (·.serving)) =
      [[.waiting true], [.held], []] := by decide +kernel

/-! ### Control cells at their write (sections 2.4 to 2.10 and 7.2) -/

/-- ZONE_SET to 14 for unit 7, with its checksum closed. -/
def zoneCell : List Byte := summed (grant 2 5 [14])

theorem witness_GrantCellIsCheckedAtWrite : classify (byteAt zoneCell 0) = .control .grant ∧ checksumOk zoneCell = true := by decide +kernel

theorem test_grant_cell_is_queued : (placed.handOver zoneCell).engine.queue = [⟨.grant, zoneCell⟩] := by decide +kernel

/-- The decoder of section 2.3, with group 7. -/
def member : State := { blank with purse := { Purse.defaults with memberships := [⟨0, 0⟩, ⟨7, key12⟩, ⟨0, 0⟩, ⟨0, 0⟩] } }

/-- The KEY cell of section 2.3 for a service, parity and period. -/
def keyCell (odd : Bool) (svc : BitVec 16) (n : Period) : List Byte :=
  summed (cell 2 (if odd then 1 else 0) svc 0 n 0 ([7, 0] ++ [0x47, 0x33, 0x22, 0x11, 0xC8, 0x77, 0x66, 0x55]))

/-- Entry 0 of Table 2-5. -/
def entry25 : KeyEntry := ⟨12, .valid 410 1, .valid 409 2, 600⟩

/-- A key bank with these entries first. -/
def withKeys (es : List KeyEntry) (s : State) : State := { s with keys := es.map some ++ List.replicate (16 - es.length) none }

/-- The state with a full message queue. -/
def fullQueue (s : State) : State := { s with engine := ⟨List.replicate 16 ⟨.time, zeros 128⟩, none⟩ }

/-- Table 2-5: a repeat for a VALID slot is a duplicate; a KEY cell of a new period makes its slot PENDING and leaves the other parity. -/
theorem test_key_cell_changeover :
    (withKeys [entry25] member).handOver (keyCell false 12 410) = withKeys [entry25] member ∧
      ((withKeys [entry25] member).handOver (keyCell true 12 411)).keyEntry 12 = some ⟨12, .valid 410 1, .pending 411, 600⟩ := by decide +kernel

/-- The KEY cell of section 2.3 with another target group. -/
def keyCellFor (group : BitVec 16) : List Byte := summed (cell 2 1 12 0 411 0 (bytes16 group ++ [0x47, 0x33, 0x22, 0x11, 0xC8, 0x77, 0x66, 0x55]))

/-- R32: target group 0 matches no membership, cleared ones included, and another decoder's group none either. -/
theorem test_key_cell_of_no_group :
    (withKeys [entry25] member).handOver (keyCellFor 0) = withKeys [entry25] member ∧
      (withKeys [entry25] member).handOver (keyCellFor 8) = withKeys [entry25] member := by decide +kernel

/-- R36, R123: a KEY cell queued into an empty queue is at the head, and its group's key is looked up at once; behind another cell it is not. -/
theorem test_key_cell_at_the_head :
    ((withKeys [entry25] member).handOver (keyCell true 12 411)).engine.headKey = some key12 ∧
      (State.handOver (keyCell true 12 411) { withKeys [entry25] member with engine := ⟨[⟨.time, zeros 128⟩], none⟩ }).engine.headKey = none := by
  decide +kernel

theorem witness_KeyCellMarksItsSlot :
    (classify (byteAt (keyCellFor 0) 0) = .control .key ∧ sumBytes (((keyCellFor 0).drop 16).take 112) = 0 ∧ leAt (keyCellFor 0) 16 2 = 0) ∧
      (classify (byteAt (keyCellFor 8) 0) = .control .key ∧ sumBytes (((keyCellFor 8).drop 16).take 112) = 0 ∧
        ∀ m ∈ member.purse.memberships, m.group.toNat ≠ leAt (keyCellFor 8) 16 2) ∧
    classify (byteAt (keyCell true 12 411) 0) = .control .key ∧ sumBytes (((keyCell true 12 411).drop 16).take 112) = 0 ∧
      (withKeys [entry25] member).membership (keyGroup (keyCell true 12 411)) = some ⟨7, key12⟩ ∧
      (withKeys [entry25] member).keyEntry (parseHeader (keyCell true 12 411)).service = some entry25 ∧
      (∃ w, entry25.slot (parseHeader (keyCell false 12 410)).parity = .valid (parseHeader (keyCell false 12 410)).period w) ∧
      (∀ w, entry25.slot (parseHeader (keyCell true 12 411)).parity ≠ .valid (parseHeader (keyCell true 12 411)).period w) ∧
      (withKeys [entry25] member).engine.queue.length < 16 ∧ 16 ≤ (fullQueue (withKeys [entry25] member)).engine.queue.length := by
  refine ⟨by decide +kernel, by decide +kernel, by decide +kernel, by decide +kernel, by decide +kernel, by decide +kernel, ⟨1, by decide +kernel⟩, ?_, by decide, by decide⟩
  intro w h
  have hv : entry25.slot (parseHeader (keyCell true 12 411)).parity = .valid 409 2 := by decide +kernel
  have hp : (parseHeader (keyCell true 12 411)).period = 411 := by decide +kernel
  rw [hv, hp] at h
  exact absurd (KeySlot.valid.inj h).1 (by decide)

/-- Table 2-6 and entries 4 to 15 of section 2.10. -/
def full210 : State :=
  withKeys ([⟨12, .valid 412 1, .pending 413, 600000⟩, ⟨40, .valid 88 1, .valid 87 2, 599410⟩, ⟨41, .valid 60 1, .valid 61 2, 599410⟩,
      ⟨97, .pending 5, .valid 4 1, 599100⟩] ++ (List.range 12).map (fun i => ⟨BitVec.ofNat 10 (500 + i), .valid 1 1, .empty, 599990⟩))
    { member with clock := ⟨true, 600000, 0⟩ }

/-- Section 2.10, step 1: entry 1 is evicted for service 300. -/
theorem test_key_table_evicts_entry_1 :
    (full210.handOver (keyCell false 300 5)).keys[1]? = some (some ⟨300, .pending 5, .empty, 600000⟩) := by decide +kernel

theorem witness_KeyCellTakesAnEntry :
    (classify (byteAt (keyCell false 300 5) 0) = .control .key ∧ sumBytes (((keyCell false 300 5).drop 16).take 112) = 0 ∧
      full210.membership (keyGroup (keyCell false 300 5)) = some ⟨7, key12⟩ ∧
      full210.keyEntry (parseHeader (keyCell false 300 5)).service = none ∧ full210.engine.queue.length < 16) ∧
      keyPlace full210 1 ∧ keyPlace member 0 ∧
      (∀ o ∈ List.replicate 16 (some (⟨3, .pending 1, .empty, 0⟩ : KeyEntry)), ∃ e, o = some e ∧ keyEvictable e = false) := by
  refine ⟨by decide +kernel, .inr ⟨by decide +kernel, _, rfl, rfl, ?_⟩, .inl ⟨rfl, by intro j hj; omega⟩, ?_⟩
  · intro j f hf he
    have hall : (List.range 16).all (fun j => match full210.keys[j]? with
        | some (some f) => !keyEvictable f || decide (599410 < f.lastUse.toNat ∨ (599410 = f.lastUse.toNat ∧ 1 ≤ j))
        | _ => true) = true := by decide +kernel
    have hj : j < 16 := (List.getElem?_eq_some_iff.mp hf).1
    have := List.all_eq_true.mp hall j (List.mem_range.mpr hj)
    rw [hf] at this
    simpa [he] using this
  · intro o ho
    rw [(List.mem_replicate.mp ho).2]
    exact ⟨_, rfl, rfl⟩

/-! ### Answers of memory (sections 1.4, 9.2, 9.4) -/

theorem witness_ForwardedAnswerIsReturnedInOrder :
    (waiting.path.inflight.map (·.id)).Nodup ∧
      (let s : State := { blank with path := { regions := [], inflight := [flight 1 .cpu [] none, flight 2 .cpu [] none], own := [], nextId := 3, choices := 0 } }
       (s.path.inflight.map (·.id)).Nodup ∧ flight 1 .cpu [] none ∈ s.path.inflight ∧ (s.classList .cpu).head? = some (flight 1 .cpu [] none) ∧
        flight 2 .cpu [] none ∈ s.path.inflight ∧ (s.classList .cpu).head? ≠ some (flight 2 .cpu [] none) ∧ NoReadyOldest s) := by
  refine ⟨by decide, by decide, by decide, by decide, by decide, by decide, ?_⟩
  intro c e he
  cases c <;> simp [State.classList, flight] at he
  subst he; rfl

/-- Table 9-3: the AUDIO answer is returned at once; a ready VIDEO answer behind a held one waits. -/
theorem test_answers_wait_behind_a_held_read :
    (after (.forwardedAnswer 6 ⟨zeros 16, false⟩) { waiting with path := { waiting.path with
        inflight := waiting.path.inflight ++ [flight 6 .audio [] none, flight 7 .display [] none] } }).emitted = [] ∧
      (after (.forwardedAnswer 7 ⟨zeros 16, false⟩) { waiting with path := { waiting.path with
        inflight := waiting.path.inflight ++ [flight 6 .audio [] none, flight 7 .display [] none] } }).emitted =
        [.answer 7 .display ⟨zeros 16, false⟩] := by decide +kernel

/-- A read of 32 bytes answered with 0x11 bytes, whose second half is a part served so. -/
def served (v : Serving) : Inflight := flight 0 .video [⟨0, 0, 16, 16, 16, v⟩] (some ⟨List.replicate 32 0x11, false⟩)

theorem witness_ServedBytesFollowTheirParts :
    (served .raw).answer = some ⟨List.replicate 32 0x11, false⟩ ∧ (List.replicate 32 (0x11 : Byte))[31]? = some 0x11 ∧
      (∀ p ∈ (served .raw).parts, ¬ (p.start ≤ 15 ∧ 15 < p.start + p.len)) ∧
      (∀ v, (served v).parts.find? (fun p => p.start ≤ 31 && 31 < p.start + p.len) = some ⟨0, 0, 16, 16, 16, v⟩) :=
  ⟨rfl, by decide, by decide, fun _ => rfl⟩

theorem test_served_from_slate :
    (served (.slate 0 (some ⟨List.replicate 16 0x22, false⟩))).final = ⟨List.replicate 16 0x11 ++ List.replicate 16 0x22, false⟩ ∧
      (served (.slate 0 (some ⟨[], true⟩))).final = ⟨List.replicate 16 0x11 ++ zeros 16, true⟩ := by decide +kernel

theorem witness_FirstCleanAnswerLatchesVerdict :
    (∃ e p h, waiting.path.inflight.find? (fun x => x.id == 4) = some e ∧ e.answer = none ∧ e.parts = [p] ∧ p.serving = .waiting false ∧
      waiting.slotAt p.region p.slot = some (.program h .undecided)) ∧
      (∀ p ∈ (flight 4 .video [⟨0, 0, 0, 16, 16, .waiting true⟩] none).parts, p.serving = .waiting true) :=
  ⟨⟨_, _, _, rfl, rfl, rfl, rfl, rfl⟩, by decide⟩

/-- R13: unsold programming of a VALID period is CLEAR at the first clean answer, and the read is answered descrambled; with the error flag nothing is latched. -/
theorem test_gated_answer_latches :
    (after (.gatedReadAnswer 4 ⟨zeros 16, false⟩) waiting).slotAt 0 0 =
        some (.program ⟨1, false, 20, 0, 5, 9⟩ (.clear 0x5566778811223344)) ∧
      (after (.gatedReadAnswer 4 ⟨zeros 16, true⟩) waiting).slotAt 0 0 = some (.program ⟨1, false, 20, 0, 5, 9⟩ .undecided) := by decide +kernel

/-! ### Verdicts (chapter 3) -/

/-- A header of fixture 1's service. -/
def hdr (t : Tag) : Header := ⟨1, false, 20, t, 5, 9⟩

/-- A decoder with one fixture and the word for its service. -/
def watching (e : FixtureEntry) : State := withKeys [⟨20, .valid 5 77, .pending 6, 900⟩] { placed with fixtures := fixturesOf [e] }

/-- The letters of Table 3-6. -/
theorem test_night_of_table_3_6 :
    ((watching (fx 1 .listed .none)).runChain (hdr 1)).1 = .slate 1 ∧ ((watching (fx 1 .onSale .none)).runChain (hdr 1)).1 = .clear 77 ∧
      ((watching { fx 1 .onSale .none with remaining := 0 }).runChain (hdr 1)).1 = .slate 2 ∧
      ((watching (fx 1 .onSale (.impulse 1000))).runChain (hdr 1)).1 = .clear 77 ∧
      ((watching (fx 1 .ended (.impulse 1000))).runChain (hdr 1)).1 = .clear 77 ∧
      ((watching (fx 1 .retired (.impulse 1000))).runChain (hdr 1)).1 = .slate 7 := by decide +kernel

theorem test_blackout_of_cell_G :
    (State.runChain (hdr 1) { watching (fx 1 .live (.impulse 1000)) with purse := { Purse.defaults with zone := 14 } }).1 = .slate 3 := by decide +kernel

theorem witness_VerdictChainFollowsItsTable :
    (State.reset.clock.running = false ∧ (hdr 1).tag ≠ 0) ∧ (hdr 0).tag = 0 ∧
      ((watching (fx 2 .live .none)).clock.running = true ∧ (watching (fx 2 .live .none)).fixture (hdr 1).tag = none) ∧
      (watching (fxAwaiting 1 .granted)).fixture (hdr 1).tag = some (fxAwaiting 1 .granted) ∧
      (∀ ph k, (watching (fx 1 ph k)).fixture (hdr 1).tag = some (fx 1 ph k)) ∧
      ((⟨1, false, 21, 1, 5, 9⟩ : Header).service ≠ sch510.service ∧ (hdr 1).service = sch510.service) ∧
      ((14 : Zone) ≠ 0 ∧ 14 ∈ sch510.blackout ∧ ¬ (Purse.defaults.zone ≠ 0 ∧ Purse.defaults.zone ∈ sch510.blackout)) ∧
      (0 < (fx 1 .live .none).remaining ∧ sch510.allowance ≠ 0 ∧ ({ sch510 with allowance := 0 } : Schedule).allowance = 0) :=
  ⟨by decide, rfl, by decide, by decide, fun ph k => by cases ph <;> rfl, by decide, by decide, by decide⟩

theorem witness_KeyCheckAnswersByItsTable :
    member.keyEntry (hdr 1).service = none ∧
      (watching (fx 1 .live .granted)).keyEntry 20 = some ⟨20, .valid 5 77, .pending 6, 900⟩ ∧
      (∀ e : KeyEntry, e = ⟨20, .valid 5 77, .pending 6, 900⟩ → e.slot false = .valid 5 77 ∧ e.slot true = .pending 6 ∧ (5 : Period) ≠ 6) ∧
      (⟨20, .valid 5 77, .empty, 900⟩ : KeyEntry).slot true = .empty ∧
      (watching (fx 1 .live .granted)).fixture (hdr 1).tag = some (fx 1 .live .granted) ∧ (fx 1 .live .granted).kind ≠ .none :=
  ⟨by decide, by decide, by rintro e rfl; decide, by decide, by decide, by decide⟩

/-- R41, R54: a CLEAR of an entitled fixture sets the entry's last-use second and the viewed flag. -/
theorem test_clear_sets_viewed :
    (State.runChain (hdr 1) (watching (fx 1 .live .granted))).2.fixture 1 = some { fx 1 .live .granted with viewed := true } ∧
      (State.runChain (hdr 1) (watching (fx 1 .live .granted))).2.keyEntry 20 = some ⟨20, .valid 5 77, .pending 6, 1000⟩ := by decide +kernel

/-! ### Own requests, holds and unwraps -/

/-- A read whose slate read is the oldest own request. -/
def slating : State :=
  { placed with path := { regions := map98, nextId := 9, choices := 0, own := [.slateRead 0x08FFF010 16 4 0 0, .write 0x08001000 (zeros 16) []],
                          inflight := [flight 4 .video [⟨0, 0, 0, 16, 16, .slate 0 none⟩] (some ⟨zeros 16, false⟩), flight 5 .cpu [⟨0, 0, 0, 16, 16, .slate 0 none⟩] none] } }

/-- A read in flight with a part that waits on the slot, a stale part and a raw part. -/
def mixed : State :=
  { waiting with path := { waiting.path with
      inflight := [flight 4 .video [⟨0, 0, 0, 16, 16, .waiting false⟩, ⟨0, 1, 16, 16, 16, .waiting true⟩, ⟨0, 2, 32, 16, 16, .raw⟩] none] } }

/-- The parts of a read of several: the first is judged, the stale one and the raw one are not. -/
theorem witness_FirstCleanAnswerLatchesVerdict_parts :
    ∃ e, mixed.path.inflight.find? (fun x => x.id == 4) = some e ∧ e.answer = none ∧
      (∃ p h, e.parts[0]? = some p ∧ p.serving = .waiting false ∧ mixed.slotAt p.region p.slot = some (.program h .undecided)) ∧
      ∃ p, e.parts[2]? = some p ∧ p.serving ≠ .waiting false :=
  ⟨_, rfl, rfl, ⟨_, _, rfl, rfl, rfl⟩, _, rfl, by decide⟩

theorem test_slate_answer_returns_the_read :
    (after (.slateReadAnswer ⟨List.replicate 16 0x33, false⟩) slating).emitted = [.answer 4 .video ⟨List.replicate 16 0x33, false⟩] := by decide +kernel

theorem witness_HoldExpiryLatchesNoKey :
    waiting.slotAt 0 1 = some (.program ⟨1, true, 20, 0, 6, 9⟩ (.held .plain 20 true 6)) ∧
      (∀ h o svc odd per, waiting.slotAt 0 0 ≠ some (.program h (.held o svc odd per))) := by
  refine ⟨by decide, ?_⟩
  intro h o svc odd per he
  have : waiting.slotAt 0 0 = some (.program ⟨1, false, 20, 0, 5, 9⟩ .undecided) := by decide
  rw [this] at he
  simp at he

theorem test_hold_expiry : (after (.holdTimerExpiry 0 1) waiting).slotAt 0 1 = some (.program ⟨1, true, 20, 0, 6, 9⟩ (.slate 4)) := by decide +kernel

/-- The KEY cell that the hold of `waiting` awaits, at the head with its group key. -/
def unwrapping : State := { waiting with engine := { queue := [⟨.key, keyCell true 20 6⟩], headKey := some key12 } }

theorem witness_UnwrapFillsSlotAndEndsHolds :
    unwrapping.engine.queue = ⟨.key, keyCell true 20 6⟩ :: [] ∧ unwrapping.engine.headKey = some key12 ∧
      unwrapping.keyEntry (parseHeader (keyCell true 20 6)).service = some ⟨20, .valid 5 0x5566778811223344, .pending 6, 900⟩ ∧
      (⟨20, .valid 5 0x5566778811223344, .pending 6, 900⟩ : KeyEntry).slot (parseHeader (keyCell true 20 6)).parity =
        .pending (parseHeader (keyCell true 20 6)).period ∧
      unwrapping.slotAt 0 1 = some (.program ⟨1, true, 20, 0, 6, 9⟩ (.held .plain (parseHeader (keyCell true 20 6)).service
        (parseHeader (keyCell true 20 6)).parity (parseHeader (keyCell true 20 6)).period)) := by decide +kernel

/-- A fill that no hold awaits. -/
def filling : State := { unwrapping with slots := [⟨0, 0, .program ⟨1, false, 20, 0, 5, 9⟩ .undecided⟩] }

theorem witness_UnwrapFillsSlotAndEndsHolds_last_use :
    (∃ x ∈ unwrapping.slots, ∃ h o, x.st = .program h (.held o (parseHeader (keyCell true 20 6)).service
      (parseHeader (keyCell true 20 6)).parity (parseHeader (keyCell true 20 6)).period)) ∧
      (filling.engine.queue = ⟨.key, keyCell true 20 6⟩ :: [] ∧ slotsDistinct filling ∧
        ∀ x ∈ filling.slots, ∀ h o, x.st ≠ .program h (.held o (parseHeader (keyCell true 20 6)).service
          (parseHeader (keyCell true 20 6)).parity (parseHeader (keyCell true 20 6)).period)) ∧
      (12 : Service) ≠ (parseHeader (keyCell true 20 6)).service := by
  refine ⟨⟨_, List.mem_cons_of_mem _ (List.mem_singleton.mpr rfl), ⟨1, true, 20, 0, 6, 9⟩, .plain, by decide +kernel⟩,
    ⟨rfl, by unfold slotsDistinct; decide, ?_⟩, by decide +kernel⟩
  intro x hx h o he
  rw [List.mem_singleton.mp hx] at he
  simp at he

/-- R37, R41: the fill alone leaves the last-use second, and a hold that ends CLEAR sets it to the clock's value. -/
theorem test_last_use_after_a_fill :
    (after .unwrapCompletion filling).keyEntry 20 = some ⟨20, .valid 5 0x5566778811223344, .valid 6 0x5566778811223344, 900⟩ ∧
      (after .unwrapCompletion unwrapping).keyEntry 20 = some ⟨20, .valid 5 0x5566778811223344, .valid 6 0x5566778811223344, 1000⟩ := by decide +kernel

theorem witness_AnswersAndHoldEndsSettleParts :
    (slating.path.own = .slateRead 0x08FFF010 16 4 0 0 :: [.write 0x08001000 (zeros 16) []] ∧
      ({ slating with path := { slating.path with own := [.write 0 [] []] } } : State).path.own = .write 0 [] [] :: []) ∧
      (∃ e, mixed.path.inflight.find? (fun x => x.id == 4) = some e ∧ e.answer = none ∧
        (∃ p, e.parts[0]? = some p ∧ p.serving = .waiting false ∧ mixed.slotAt p.region p.slot = some (.program ⟨1, false, 20, 0, 5, 9⟩ .undecided)) ∧
        (∃ p, e.parts[1]? = some p ∧ p.serving = .waiting true) ∧ ∃ p, e.parts[2]? = some p ∧ p.serving = .raw) ∧
      (waiting.slotAt 0 1 = some (.program ⟨1, true, 20, 0, 6, 9⟩ (.held .plain 20 true 6)) ∧
        ∃ e ∈ waiting.path.inflight, ∃ p ∈ e.parts, p.serving = .held ∧ p.region = 0 ∧ p.slot = 1) ∧
      (slotsDistinct unwrapping ∧ unwrapping.engine.queue = ⟨.key, keyCell true 20 6⟩ :: [] ∧ unwrapping.engine.headKey = some key12 ∧
        unwrapping.keyEntry (parseHeader (keyCell true 20 6)).service = some ⟨20, .valid 5 0x5566778811223344, .pending 6, 900⟩ ∧
        (⟨20, .valid 5 0x5566778811223344, .pending 6, 900⟩ : KeyEntry).slot (parseHeader (keyCell true 20 6)).parity =
          .pending (parseHeader (keyCell true 20 6)).period ∧
        State.fixture { unwrapping with fixtures := fixturesOf [fx 7 .live .granted] } 7 = some (fx 7 .live .granted)) := by
  refine ⟨⟨rfl, rfl⟩, ⟨_, rfl, rfl, ⟨_, rfl, rfl, by decide⟩, ⟨_, rfl, rfl⟩, _, rfl, rfl⟩,
    ⟨by decide, _, List.mem_cons_of_mem _ (List.mem_singleton.mpr rfl), _, List.mem_singleton.mpr rfl, rfl, rfl, rfl⟩,
    by unfold slotsDistinct; decide, by decide +kernel⟩

/-- R23: each part of a read is settled by itself. -/
theorem test_mixed_answer :
    (after (.gatedReadAnswer 4 ⟨zeros 48, false⟩) mixed).path.inflight.map (fun e => e.parts.map (·.serving)) =
      [[.clear 0x5566778811223344 9, .slate 0 none, .raw]] := by decide +kernel

/-- Section 2.3: the control word is restored, and the slot that awaits it is CLEAR under it. -/
theorem test_unwrap_ends_hold :
    (after .unwrapCompletion unwrapping).slotAt 0 1 = some (.program ⟨1, true, 20, 0, 6, 9⟩ (.clear 0x5566778811223344)) := by decide +kernel

/-- R36, R123: at a completion the KEY cell behind reaches the head, and its group key is looked up by the memberships as they stand. -/
theorem test_next_key_cell_reaches_the_head :
    (after .unwrapCompletion { unwrapping with
        purse := member.purse
        engine := ⟨[⟨.key, keyCell true 20 6⟩, ⟨.key, keyCell false 20 7⟩], some key12⟩ }).engine = ⟨[⟨.key, keyCell false 20 7⟩], some key12⟩ := by
  decide +kernel

/-- A KEY cell at the head without a group key, for a service whose one slot it keeps PENDING. -/
def memberless : State :=
  withKeys [⟨20, .empty, .pending 6, 900⟩] { placed with engine := { queue := [⟨.key, keyCell true 20 6⟩], headKey := none } }

theorem witness_UnwrapWithoutMatchOrMembership :
    (({ memberless with keys := List.replicate 16 none } : State).engine.queue = ⟨.key, keyCell true 20 6⟩ :: [] ∧
      ({ memberless with keys := List.replicate 16 none } : State).keyEntry (parseHeader (keyCell true 20 6)).service = none ∧
      memberless.engine.headKey = none ∧
      memberless.keyEntry (parseHeader (keyCell true 20 6)).service = some ⟨20, .empty, .pending 6, 900⟩ ∧
      (⟨20, .empty, .pending 6, 900⟩ : KeyEntry).slot (parseHeader (keyCell true 20 6)).parity = .pending (parseHeader (keyCell true 20 6)).period ∧
      (⟨20, .valid 1 1, .pending 6, 900⟩ : KeyEntry).slot (!(parseHeader (keyCell true 20 6)).parity) ≠ .empty) ∧
      NoReadyOldest memberless ∧ (after .unwrapCompletion memberless).keyEntry 20 = none :=
  ⟨by decide +kernel, no_ready rfl, by decide +kernel⟩

/-! ### Grants (chapter 7) -/

/-- A grant to this unit at the head. -/
def granting (kind : Byte) (operands : List Byte) (s : State) : State := queued .grant (grant kind 5 operands) s

theorem unit_grant (s : State) (kind : Byte) (operands : List Byte) (h : (granting kind operands s).headGrant (isGrant kind.toNat) = some (grant kind 5 operands))
    (h' : grantTarget (grant kind 5 operands) = 0) (h'' : (granting kind operands s).grantApplies (grant kind 5 operands) = true) :
    unitGrantAtHead (granting kind operands s) kind.toNat (grant kind 5 operands) := ⟨h, h', h''⟩

theorem witness_StaleGrantsAreSetAside :
    grantOf .zoneSet = some (isGrant 2) ∧ blank.headGrant (isGrant 2) = none ∧
      (granting 2 [14] blank).headGrant (isGrant 2) = some (grant 2 5 [14]) ∧
      State.grantApplies { blank with purse := { Purse.defaults with lastSeq := 5 } } (grant 2 5 [14]) = false := by
  exact ⟨rfl, by decide, by decide +kernel, by decide +kernel⟩

theorem test_stale_grant_changes_nothing :
    (after .zoneSet (granting 2 [14] { blank with purse := { Purse.defaults with lastSeq := 5 } })).purse = { Purse.defaults with lastSeq := 5 } := by
  decide +kernel

theorem witness_PurseGrantsChangeTheirFields :
    unitGrantAtHead (granting 1 ([2] ++ bytes16 7 ++ bytes32 0x11223347 ++ bytes32 0x556677C8) blank) 1
        (grant 1 5 ([2] ++ bytes16 7 ++ bytes32 0x11223347 ++ bytes32 0x556677C8)) ∧
      unitGrantAtHead (granting 2 [14] blank) 2 (grant 2 5 [14]) ∧
      unitGrantAtHead (granting 3 (bytes32 70000) blank) 3 (grant 3 5 (bytes32 70000)) ∧
      unitGrantAtHead (granting 4 (bytes32 4000 ++ bytes16 10000) blank) 4 (grant 4 5 (bytes32 4000 ++ bytes16 10000)) := by
  unfold unitGrantAtHead; decide +kernel

/-- R28: the group key is unwrapped under the unit key with the grant sequence as the seed; R129: membership slot 2. -/
theorem test_group_set :
    (after .groupSet (granting 1 ([2] ++ bytes16 7 ++ bytes32 0 ++ bytes32 0) blank)).purse.memberships[2]? =
      some ⟨7, keyOf (keystream key12 5 0) (keystream key12 5 1)⟩ := by decide +kernel
theorem test_zone_set : (after .zoneSet (granting 2 [14] blank)).purse = { Purse.defaults with zone := 14, lastSeq := 5 } := by decide +kernel
/-- Section 5.11: a top-up below zero. -/
theorem test_topup_below_zero :
    (after .purseTopup (granting 3 (bytes32 70000) { blank with purse := { Purse.defaults with balance := -65535, reference := 1000 } })).purse =
      { Purse.defaults with balance := 4465, reference := 71000, lastSeq := 5 } := by decide +kernel
/-- Section 5.11: the second top-up of 500 at the upper bound. -/
theorem test_topup_at_the_bound :
    (after .purseTopup (granting 3 (bytes32 500) { blank with purse := { Purse.defaults with balance := 16777000, reference := 16777715 } })).purse =
      { Purse.defaults with balance := 16777215, reference := 16777930, lastSeq := 5 } := by decide +kernel
theorem test_limits_set :
    (after .limitsSet (granting 4 (bytes32 0xFFFFFFFF ++ bytes16 10000) blank)).purse =
      { Purse.defaults with cap := 16777215, overdraft := 10000, lastSeq := 5 } := by decide +kernel

/-- ENTITLE or REVOKE of a fixture (target 0) or a pass (target 1). -/
def entitling (kind target : Byte) (ident : BitVec 16) (s : State) : State := granting kind ([target] ++ bytes16 ident) s

/-- A full fixture table in which nothing may be evicted. -/
def fullFixtures : State := { blank with fixtures := List.replicate 32 (some (fx 40 .live .none)) }

theorem no_place : noPlaceIn fullFixtures.fixtures (evictable fullFixtures) := by
  intro o ho
  refine ⟨fx 40 .live .none, (List.mem_replicate.mp ho).2, ?_⟩
  rintro k ⟨sch, _, h | ⟨h, _⟩⟩ <;> simp [fx] at h

theorem place_zero : placeIn blank.fixtures (evictable blank) 0 := .inl ⟨rfl, fun j hj => by omega⟩

theorem witness_FixtureGrantsFollowTheirTable :
    ((entitling 5 0 3 fullFixtures).headGrant (isGrantOf 5 0) = some (grant 5 5 ([0] ++ bytes16 3)) ∧
      (entitling 5 0 3 fullFixtures).grantApplies (grant 5 5 ([0] ++ bytes16 3)) = true ∧ grantIdent (grant 5 5 ([0] ++ bytes16 3)) = 3 ∧
      grantIdent (grant 5 5 ([0] ++ bytes16 0)) = 0) ∧
    ((entitling 6 0 3 blank).headGrant (isGrantOf 6 0) = some (grant 6 5 ([0] ++ bytes16 3))) ∧
    (∀ k, State.fixture { blank with fixtures := fixturesOf [fx 3 .live k] } 3 = some (fx 3 .live k)) ∧
    noPlaceIn fullFixtures.fixtures (evictable fullFixtures) ∧ fullFixtures.fixture 3 = none ∧ placeIn blank.fixtures (evictable blank) 0 ∧
    (State.coveringPass { blank with passes := passesOf [⟨9, [3], none, .granted⟩] } 3 = some 9 ∧ blank.coveringPass 3 = none ∧
      onOfferNow (fx 3 .live .granted) ∧ ¬ onOfferNow (fx 3 .ended .granted)) := by
  refine ⟨by decide +kernel, by decide +kernel, fun k => rfl, no_place, by decide +kernel, place_zero, by decide +kernel, by decide, ?_, ?_⟩
  · exact ⟨_, _, rfl, .inr (.inr rfl)⟩
  · rintro ⟨_, ph, h, h' | h' | h'⟩ <;> subst h' <;> simp [fx] at h

theorem test_entitle_fixture :
    (after .entitleFixture (entitling 5 0 3 { blank with fixtures := fixturesOf [fx 3 .live .none] })).fixture 3 = some (fx 3 .live .granted) ∧
      (after .entitleFixture (entitling 5 0 3 blank)).fixture 3 = some (fxAwaiting 3 .granted) := by decide +kernel
theorem test_revoke_fixture :
    (after .revokeFixture (entitling 6 0 3 { blank with fixtures := fixturesOf [fxAwaiting 3 .granted] })).fixture 3 = none ∧
      (after .revokeFixture (entitling 6 0 3 { blank with
        fixtures := fixturesOf [fx 3 .live .granted], passes := passesOf [⟨9, [3], none, .granted⟩] })).fixture 3 =
        some (fx 3 .live (.pass 9)) := by decide +kernel

/-- Section 4.8 before step 3: pass 12 announced, with members 4,002 and 4,005. -/
def night48 : State :=
  { blank with
    fixtures := fixturesOf [fx 4002 .live (.pass 9), fx 4005 .listed .none]
    passes := passesOf [⟨9, [4001, 4002, 4003, 4004], none, .bought 1400⟩, ⟨12, [4002, 4005], some ⟨0, 2000, 700⟩, .none⟩] }

theorem night48_tables : TablesKeyed night48 := by
  refine ⟨by decide, fun e he => ?_, by decide, fun p hp => ?_⟩
  · have := inUse_of_list (n := 30) he
    simp only [List.mem_cons, List.not_mem_nil, or_false] at this
    rcases this with rfl | rfl <;> decide
  · have := inUse_of_list (n := 2) hp
    simp only [List.mem_cons, List.not_mem_nil, or_false] at this
    rcases this with rfl | rfl <;> decide

/-- A full pass table in which nothing may be evicted. -/
def fullPasses : State := { blank with passes := List.replicate 4 (some ⟨40, [1], none, .granted⟩) }

theorem no_pass_place : noPlaceIn fullPasses.passes (passEvictable fullPasses) := by
  intro o ho
  refine ⟨_, (List.mem_replicate.mp ho).2, ?_⟩
  rintro k ⟨h, _⟩
  nomatch h

/-- Both members of pass 12 on offer and not entitled. -/
def night48Open : State := { night48 with fixtures := fixturesOf [fx 4002 .live .none, fx 4005 .listed .none] }

/-- Pass 12 granted, with a member that pass 9 lists too and one that none other lists. -/
def night48Granted : State :=
  { night48 with
    fixtures := fixturesOf [fx 4002 .live (.pass 12), fx 4005 .listed (.pass 12)]
    passes := passesOf [⟨9, [4001, 4002, 4003, 4004], none, .bought 1400⟩, ⟨12, [4002, 4005], some ⟨0, 2000, 700⟩, .granted⟩] }

theorem witness_changedBooked :
    ([4002, 4005] ≠ ([] : List Tag) ∧ ([4002, 4005] : List Tag).Nodup ∧
      ∀ u, u ∈ ([4002, 4005] : List Tag) ↔ ∃ e, night48Open.fixture u = some e ∧ reached [4002, 4005] e) ∧
      (∀ u, u ∈ ([4005] : List Tag) ↔
        ∃ e, night48Granted.fixture u = some e ∧ e.kind = .pass 12 ∧ otherPass night48Granted 12 u = none) := by
  refine ⟨⟨by decide, by decide, fun u => ⟨fun h => ?_, fun ⟨e, he, hm, _⟩ => State.fixture_tag he ▸ hm⟩⟩, fun u => ⟨fun h => ?_, fun ⟨e, he, _, ho⟩ => ?_⟩⟩
  · simp only [List.mem_cons, List.not_mem_nil, or_false] at h
    rcases h with rfl | rfl
    · exact ⟨fx 4002 .live .none, by decide, by decide, by decide, rfl, _, _, rfl, .inr (.inr rfl)⟩
    · exact ⟨fx 4005 .listed .none, by decide, by decide, by decide, rfl, _, _, rfl, .inl rfl⟩
  · cases List.mem_singleton.mp h
    exact ⟨fx 4005 .listed (.pass 12), by decide, rfl, by decide⟩
  · have hu := State.fixture_tag he
    have hm := inUse_of_list (n := 30) (tableFind_some he).1
    simp only [List.mem_cons, List.not_mem_nil, or_false] at hm
    rcases hm with rfl | rfl <;> subst hu
    · exact absurd ho (by decide)
    · decide

/-- R82, R84, R169: ENTITLEMENT_CHANGED counts one booking for each entry changed. -/
theorem test_entitlement_changed_counts :
    (after .entitlePass (entitling 5 1 12 night48Open)).conds.entitlementChanged.count = 2 ∧
      (after .revokePass (entitling 6 1 12 night48Granted)).conds.entitlementChanged = ⟨true, 1, some (.tag 4005)⟩ := by decide +kernel

/-- R83, R84: the other pass stands. -/
theorem witness_PassGrantsReachTheirMembers_revoke :
    (entitling 6 1 12 night48Granted).headGrant (isGrantOf 6 1) = some (grant 6 5 ([1] ++ bytes16 12)) ∧
      (entitling 6 1 12 night48Granted).grantApplies (grant 6 5 ([1] ++ bytes16 12)) = true ∧
      night48Granted.pass 12 = some ⟨12, [4002, 4005], some ⟨0, 2000, 700⟩, .granted⟩ ∧ (9 : PassId) ≠ 12 ∧ night48Granted.fixture 5 = none ∧
      night48Open.fixture 5 = none := by decide +kernel

theorem witness_PassGrantsReachTheirMembers :
    TablesKeyed (entitling 5 1 12 night48) ∧
      ((entitling 5 1 12 night48).headGrant (isGrantOf 5 1) = some (grant 5 5 ([1] ++ bytes16 12)) ∧
        (entitling 5 1 12 night48).grantApplies (grant 5 5 ([1] ++ bytes16 12)) = true ∧ grantPass (grant 5 5 ([1] ++ bytes16 12)) = 12 ∧
        grantPass (grant 5 5 ([1] ++ bytes16 0)) = 0) ∧
      ((entitling 6 1 12 night48).headGrant (isGrantOf 6 1) = some (grant 6 5 ([1] ++ bytes16 12))) ∧
      (night48.pass 12 = some ⟨12, [4002, 4005], some ⟨0, 2000, 700⟩, .none⟩ ∧ (night48.pass 9).isSome = true ∧ night48.pass 13 = none) ∧
      noPlaceIn fullPasses.passes (passEvictable fullPasses) ∧ placeIn night48.passes (passEvictable night48) 2 ∧
      (otherPass night48 12 4002).isSome = true ∧ otherPass night48 12 4005 = none := by
  refine ⟨night48_tables, by decide +kernel, by decide +kernel, by decide +kernel, no_pass_place, .inl ⟨rfl, ?_⟩, by decide, by decide⟩
  intro j hj
  match j, hj with
  | 0, _ => exact fun h => nomatch h
  | 1, _ => exact fun h => nomatch h

/-- Section 4.8, steps 3 and 4. -/
theorem test_entitle_pass :
    (after .entitlePass (entitling 5 1 12 night48)).fixture 4005 = some (fx 4005 .listed (.pass 12)) ∧
      (after .entitlePass (entitling 5 1 12 night48)).fixture 4002 = some (fx 4002 .live (.pass 9)) := by decide +kernel
theorem test_revoke_pass :
    (after .revokePass (entitling 6 1 12 { night48 with
        fixtures := fixturesOf [fx 4002 .live (.pass 9), fx 4005 .listed (.pass 12)]
        passes := passesOf [⟨9, [4001, 4002, 4003, 4004], none, .bought 1400⟩, ⟨12, [4002, 4005], some ⟨0, 2000, 700⟩, .granted⟩] })).fixture 4005 =
      some (fx 4005 .listed .none) := by decide +kernel

/-- Section 6.8 before step 8, in small: a full log of 64 purchases of 1 with 6,100 and 6,107 in the refund queue. -/
def busy : State :=
  { blank with
    fixtures := fixturesOf [fx 6100 .cancelled (.impulse 800), fx 6107 .cancelled (.impulse 650)]
    refunds := [6100, 6107]
    purse := { Purse.defaults with balance := 16650, reference := 16714 }
    log := { entries := (List.range 64).map (fun i => le (BitVec.ofNat 32 (241 + i)) .purchase 1 1), next := 305 } }

theorem busy_refunds : RefundQueueSound busy := by
  refine ⟨by decide, by decide, by decide, fun t ht => ?_, by decide +kernel, fun h => nomatch h⟩
  have : t = 6100 ∨ t = 6107 := by simpa [busy] using ht
  rcases this with rfl | rfl
  · exact ⟨fx 6100 .cancelled (.impulse 800), by decide, ⟨{ sch510 with cancelled := true }, by decide⟩, 800, rfl⟩
  · exact ⟨fx 6107 .cancelled (.impulse 650), by decide, ⟨{ sch510 with cancelled := true }, by decide⟩, 650, rfl⟩

theorem witness_LogAckRemovesFoldsAndServes :
    unitGrantAtHead (granting 7 (bytes32 250) busy) 7 (grant 7 5 (bytes32 250)) ∧ RefundQueueSound (granting 7 (bytes32 250) busy) := by
  refine ⟨by unfold unitGrantAtHead; decide +kernel, busy_refunds.1, busy_refunds.2.1, busy_refunds.2.2.1, busy_refunds.2.2.2.1, busy_refunds.2.2.2.2.1, fun h => nomatch h⟩

/-- Section 6.8, step 8: ten entries leave, 6,100 and 6,107 are refunded as entries 305 and 306, and the queue is empty. -/
theorem test_log_ack :
    (after .logAck (granting 7 (bytes32 250) busy)).log.entries.length = 56 ∧ (after .logAck (granting 7 (bytes32 250) busy)).refunds = [] ∧
      (after .logAck (granting 7 (bytes32 250) busy)).purse.balance = 18100 ∧ (after .logAck (granting 7 (bytes32 250) busy)).log.next = 307 := by
  decide +kernel

/-- Section 6.8, step 11: a number before the oldest entry removes nothing. -/
theorem test_log_ack_before_the_oldest : ackCount [le 303 .purchase 1 1] 300 = 0 ∧ ackCount [le 303 .purchase 1 1, le 304 .purchase 1 1] 400 = 2 := by decide

theorem witness_NightResetSweepsTheTables : unitGrantAtHead (granting 8 [] rich) 8 (grant 8 5 []) := by unfold unitGrantAtHead; decide +kernel

/-- R79: AWAITING, RETIRED and settled CANCELLED entries go; a queued one stays. -/
theorem test_night_reset :
    (after .nightReset (granting 8 [] rich)).fixtures = [some (fx 1 .live (.impulse 900)), some (fx 2 .cancelled (.impulse 300))] ++ List.replicate 30 none := by
  decide +kernel

/-! ### Announcements, passes and the clock (chapters 4 and 8) -/

/-- A FIXTURE cell of service 20: status, sale open, kick-off, end, base, floor, step length, step cut, allowance. -/
def announce (status : Byte) (t : Tag) (opens kick fin : Nat) (step allowance : BitVec 16) : List Byte :=
  cell 5 0 20 t 0 0 ([status, 0] ++ bytes32 (BitVec.ofNat 32 opens) ++ bytes32 (BitVec.ofNat 32 kick) ++ bytes32 (BitVec.ofNat 32 fin) ++
    bytes16 900 ++ bytes16 1000 ++ bytes16 step ++ bytes16 100 ++ bytes16 allowance)

/-- The announcement of fixture 3, on sale at 1,000. -/
def announce3 : List Byte := announce 0 3 900 1500 3000 5 1000

theorem witness_AnnouncementIsCheckedAndApplied :
    (queued .fixture announce3 blank).headCell .fixture = some announce3 ∧ (parseHeader announce3).tag = 3 ∧ announcementSound announce3 ∧
      (parseHeader (announce 0 0 900 1500 3000 5 1000)).tag = 0 ∧ ¬ announcementSound (announce 0 3 900 1500 1500 5 1000) ∧
      blank.fixture 3 = none ∧ noPlaceIn fullFixtures.fixtures (evictable fullFixtures) ∧ placeIn blank.fixtures (evictable blank) 0 ∧
      pay8 announce3 0 = 0 ∧ pay8 (announce 1 3 900 1500 3000 5 1000) 0 = 1 := by
  refine ⟨by decide +kernel, by decide +kernel, by unfold announcementSound; decide +kernel, by decide +kernel,
    by unfold announcementSound; decide +kernel, by decide, no_place, place_zero, by decide +kernel, by decide +kernel⟩

/-- R69: floor held to base, step length to 60, allowance to 900; R70: a new entry takes the derived phase. -/
theorem test_announcement_clamps :
    (after .announcement (queued .fixture announce3 blank)).fixture 3 =
      some { tag := 3, standing := .scheduled ⟨20, 900, 1500, 3000, 900, 900, 60, 100, 900, [], false⟩ .onSale, kind := .none, viewed := false,
             remaining := 900, delivered := false } := by decide +kernel

theorem witness_CancellationRefundsOrQueues :
    announcementSound (announce 1 6100 900 1500 3000 60 0) ∧ (parseHeader (announce 1 6100 900 1500 3000 60 0)).tag = 6100 ∧
      busy.fixture 6100 = some (fx 6100 .cancelled (.impulse 800)) ∧
      (∀ k, State.fixture { busy with fixtures := fixturesOf [fx 6100 .live k] } 6100 = some (fx 6100 .live k)) ∧
      (∀ k, State.fixture { busy with fixtures := fixturesOf [fxAwaiting 6100 k] } 6100 = some (fxAwaiting 6100 k)) ∧
      64 ≤ busy.log.entries.length ∧ blank.log.entries.length < 64 :=
  ⟨by unfold announcementSound; decide +kernel, by decide +kernel, by decide, fun k => rfl, fun k => rfl, by decide +kernel, by decide⟩

/-- Section 6.8, step 6: a cancellation on a full log joins the refund queue. -/
theorem test_cancellation_on_a_full_log :
    (after .announcement (queued .fixture (announce 1 6100 900 1500 3000 60 0)
        { busy with fixtures := fixturesOf [fx 6100 .live (.impulse 800)], refunds := [] })).refunds = [6100] := by decide +kernel

/-- A PASS cell: identifier, count, sale window, base, members. -/
def passCell (id count : Byte) (opens closes : Nat) (members : List Tag) : List Byte :=
  cell 6 0 0 0 0 0 ([id, count] ++ bytes32 (BitVec.ofNat 32 opens) ++ bytes32 (BitVec.ofNat 32 closes) ++ bytes16 2000 ++ members.flatMap bytes16)

theorem witness_PassCellIsCheckedAndApplied :
    (queued .pass (passCell 9 2 0 2000 [1, 2]) blank).headCell .pass = some (passCell 9 2 0 2000 [1, 2]) ∧
      (pay8 (passCell 0 2 0 2000 [1, 2]) 0 = 0 ∧ pay8 (passCell 9 0 0 2000 []) 1 = 0 ∧
        (pay32 (passCell 9 1 5 4 [1]) 6).toNat < (pay32 (passCell 9 1 5 4 [1]) 2).toNat) ∧
      (night48.pass 9).isSome = true ∧ blank.pass 9 = none ∧ noPlaceIn fullPasses.passes (passEvictable fullPasses) ∧
      placeIn blank.passes (passEvictable blank) 0 :=
  ⟨by decide +kernel, by decide +kernel, by decide, by decide, no_pass_place, .inl ⟨rfl, fun j hj => by omega⟩⟩

theorem test_pass_cell :
    (after .passCellCompletion (queued .pass (passCell 9 2 0 2000 [1, 2]) blank)).pass 9 = some ⟨9, [1, 2], some ⟨0, 2000, 2000⟩, .none⟩ := by decide +kernel

/-- A TIME cell. -/
def timeCell (v : Nat) : List Byte := cell 4 0 0 0 0 0 (bytes32 (BitVec.ofNat 32 v))

theorem witness_ClockAdvancesAndAdopts :
    blank.clock.running = true ∧ State.reset.clock.running = false ∧ (queued .time (timeCell 3000) blank).headCell .time = some (timeCell 3000) ∧
      rich.fixtures[0]? = some (some (fx 1 .live (.impulse 900))) ∧ rich.fixtures[31]? = some none := by
  exact ⟨rfl, rfl, by decide +kernel, rfl, rfl⟩

/-- Section 8.6, steps 4, 5 and 7. -/
theorem test_time_adoption :
    (after .timeCellAdoption (queued .time (timeCell 303011) { blank with clock := ⟨true, 303010, 9⟩ })).conds.clockJump.booked = false ∧
      (after .timeCellAdoption (queued .time (timeCell 303900) { blank with clock := ⟨true, 303012, 9⟩ })).conds.clockJump =
        ⟨true, 1, some (.difference 888)⟩ ∧
      (after .timeCellAdoption (queued .time (timeCell 3000000000) { blank with clock := ⟨true, 303600, 9⟩ })).conds.clockJump =
        ⟨true, 1, some (.difference 2147483647)⟩ := by decide +kernel

/-- Table 3-6 at 800,001: a marked fixture on sale loses one second of preview. -/
theorem test_second_event_meters :
    (after .secondEvent { blank with clock := ⟨true, 499000, 5⟩, fixtures := fixturesOf [{ fx 1 .onSale .none with delivered := true }] }).fixture 1 =
      some { fx 1 .onSale .none with remaining := 59 } := by decide +kernel

/-! ### Placement (chapter 10) -/

/-- An arming write. -/
def arm (k : Byte) : WriteReq := wr .cpu 0x07FF0000 (k :: zeros 15)

/-- A decoder in this arming run. -/
def armed (count : Nat) (st : PlacementState) : State := { blank with placement := ⟨st, some ⟨count, 0x07FF0000⟩, 2, false⟩ }

/-- Reading the record, before its head. -/
def armReading : State := { blank with placement := ⟨.reading 0x07FF0000 none [], none, 1, false⟩ }

theorem witness_ArmingRunIsJudged :
    (roomFor .cpu (armed 7 .unplaced) ∧ ¬ reading (armed 7 .unplaced) ∧ (arm 8).cls = .cpu ∧ (rd .cpu 0 16).cls = .cpu) ∧
      ((arm 8).data.length = 16 ∧ (arm 8).enables = List.replicate 16 true ∧ (arm 8).addr = 0x07FF0000 ∧ (byteAt (arm 8).data 0).toNat = 8) ∧
      ((byteAt (arm 3).data 0).toNat = 2 + 1 ∧ 2 + 1 < 8) ∧
      ¬ ((wr4 .cpu 0x07FF0000 1).data.length = 16 ∧ (wr4 .cpu 0x07FF0000 1).enables = List.replicate 16 true) ∧
      (¬ ((byteAt (arm 1).data 0).toNat = 3 + 1) ∧ (byteAt (arm 1).data 0).toNat = 1 ∧ (byteAt (arm 5).data 0).toNat ≠ 1) ∧
      (roomFor (handled (requestClass (.write (arm 1)))) armReading ∧ reading armReading) ∧
      (roomFor (handled (requestClass (.write { arm 1 with cls := .internal }))) (armed 3 .unplaced) ∧
        handled (requestClass (.write { arm 1 with cls := .internal })) ≠ .cpu) := by
  refine ⟨⟨by unfold roomFor; decide, ?_, rfl, rfl⟩, by decide, by decide, by decide, by decide,
    ⟨by unfold roomFor; decide, _, _, _, rfl⟩, by unfold roomFor; decide, by decide⟩
  rintro ⟨_, _, _, h⟩; nomatch h

/-- R155: the count stays 0 in READING, and a write of class 7, handled as class 6, does not touch the run. -/
theorem test_run_untouched :
    (after (.armingWrite (.write (arm 1))) armReading).placement = armReading.placement ∧
      (after (.upstreamWrite { arm 4 with cls := .internal }) (armed 3 .unplaced)).placement = (armed 3 .unplaced).placement := by decide +kernel

/-- Section 10.5: the eighth write raises the attempt count and starts the reading, with the head read at A + 16; step 4: PLACED answers ALREADY_PLACED. -/
theorem test_eighth_arming_write :
    (after (.armingWrite (.write (arm 8))) (armed 7 .unplaced)).placement = ⟨.reading 0x07FF0000 none [], none, 3, false⟩ ∧
      (after (.armingWrite (.write (arm 8))) (armed 7 .unplaced)).path.own = [.headRead 0x07FF0010] ∧
      (after (.armingWrite (.write (arm 8))) (armed 7 .placed)).path.own =
        [.write 0x07FF0000 ([0x29, 3, 255, 0, 7, 0, 0, 0] ++ zeros 8) (List.replicate 16 true)] := by decide +kernel

/-- Section 10.5, step 1: a CPU read breaks the run. -/
theorem test_read_breaks_the_run : (after (.armingWrite (.read (rd .cpu 0x100 16))) (armed 3 .unplaced)).placement.run = none := by decide +kernel

/-- The same with the head read presented. -/
def headReading : State := { armReading with path := { blank.path with own := [.headRead 0x07FF0010] } }

theorem witness_PlacementHeadIsChecked :
    headReading.path.own = .headRead 0x07FF0010 :: [] ∧ headReading.placement.st = .reading 0x07FF0000 none [] ∧
      ([1, 5] ++ zeros 14 : List Byte).length = 16 ∧ byteAt ([1, 5] ++ zeros 14) 0 = 1 ∧ 4 ≤ (byteAt ([1, 5] ++ zeros 14) 1).toNat ∧
      byteAt ([2, 5] ++ zeros 14) 0 ≠ 1 ∧ (byteAt ([1, 3] ++ zeros 14) 1).toNat < 4 ∧ 12 < (byteAt ([1, 13] ++ zeros 14) 1).toNat := by decide

theorem test_head_read :
    (after (.placementHeadReadAnswer ⟨[1, 5] ++ zeros 14, false⟩) headReading).path.own = [.descriptorRead 0x07FF0020 128] ∧
      (after (.placementHeadReadAnswer ⟨[2, 5] ++ zeros 14, false⟩) headReading).path.own =
        [.write 0x07FF0000 ([0x22, 1, 255, 0, 7, 0, 0, 0] ++ zeros 8) (List.replicate 16 true)] := by decide +kernel

/-- A descriptor of Table 13-7. -/
def desc (kind writers readers : Byte) (base : Nat) (size : Nat) : List Byte :=
  [kind, writers, readers, 0] ++ bytes32 (BitVec.ofNat 32 base) ++ bytes32 (BitVec.ofNat 32 size) ++ zeros 20

/-- The five regions of Table 10-3, region 4 at this base. -/
def record105 (base4 : Nat) : List Byte :=
  desc 1 0x02 0x0C 0x09000000 65536 ++ desc 2 0x01 0 0x08FFF000 1024 ++ desc 3 0x01 0 0x08000000 1152 ++ desc 4 0x01 0 0x08001000 4224 ++
    desc 5 0x01 0 base4 4096

/-- A head of five regions whose byte 2 closes the sum of the record. -/
def head105 (base4 : Nat) : List Byte := [1, 5, 0 - (6 + sumBytes (record105 base4))] ++ zeros 13

/-- The decoder at the last descriptor read of this record. -/
def lastRead (base4 : Nat) : State :=
  { blank with
    placement := ⟨.reading 0x07FF0000 (some (head105 base4)) ((record105 base4).take 128), none, 1, false⟩
    path := { blank.path with own := [.descriptorRead 0x07FF00A0 32] } }

/-- The region map of a check that passed. -/
def passed : RecordCheck → Bool
  | .ok _ => true
  | .fail _ _ => false

theorem not_shares {ds : List Byte} {i : Nat}
    (h : ∀ j, j < i → descBase ds j + descSize ds j ≤ descBase ds i ∨ descBase ds i + descSize ds i ≤ descBase ds j) : ¬ sharesBytes ds i := by
  rintro ⟨j, b, hj, h1, h2, h3, h4⟩
  have := h j hj
  omega

theorem region_good {ds : List Byte} {i : Nat} (allowed : Nat)
    (h : (descBase ds i % 128 = 0 ∧ descSize ds i ≠ 0 ∧ descSize ds i % 128 = 0 ∧ descBase ds i + descSize ds i ≤ 4294967296) ∧
      ((List.range i).filter (fun j => byteAt ds (32 * j) == byteAt ds (32 * i))).length < allowed)
    (ht : table101 (byteAt ds (32 * i)) (descSize ds i) allowed) : regionGood ds i :=
  ⟨h.1.1, h.1.2.1, h.1.2.2.1, h.1.2.2.2, allowed, ht, h.2⟩

/-- A record without a slate, and one of three rings of 2,048 cells. -/
def recordNoSlate : List Byte :=
  desc 1 0x02 0x0C 0x09000000 65536 ++ desc 3 0x01 0 0x08000000 1152 ++ desc 4 0x01 0 0x08001000 4224 ++ desc 5 0x01 0 0x08100000 4096
def recordManyCells : List Byte :=
  desc 1 0x02 0x0C 0x09000000 262144 ++ desc 1 0x02 0x0C 0x0A000000 262144 ++ desc 1 0x02 0x0C 0x0B000000 262144 ++
    desc 2 0x01 0 0x08FFF000 1024 ++ desc 3 0x01 0 0x08000000 1152 ++ desc 4 0x01 0 0x08001000 4224

/-- A head of `n` regions whose byte 2 closes the sum of the record. -/
def headOf (n : Byte) (ds : List Byte) : List Byte := [1, n, 0 - (1 + n + sumBytes ds)] ++ zeros 13

theorem overlap_before : ∀ i, i < 4 → regionGood (record105 0x08001000) i ∧ ¬ sharesBytes (record105 0x08001000) i := by
  intro i hi
  match i, hi with
  | 0, _ => exact ⟨region_good 4 (by decide +kernel) (by unfold table101; decide +kernel), not_shares (by decide +kernel)⟩
  | 1, _ => exact ⟨region_good 1 (by decide +kernel) (by unfold table101; decide +kernel), not_shares (by decide +kernel)⟩
  | 2, _ => exact ⟨region_good 1 (by decide +kernel) (by unfold table101; decide +kernel), not_shares (by decide +kernel)⟩
  | 3, _ => exact ⟨region_good 1 (by decide +kernel) (by unfold table101; decide +kernel), not_shares (by decide +kernel)⟩

theorem overlap_at_4 : regionGood (record105 0x08001000) 4 ∧ sharesBytes (record105 0x08001000) 4 :=
  ⟨region_good 6 (by decide +kernel) (by unfold table101; decide +kernel), 3, 0x08001000, by decide, by decide +kernel⟩

theorem no_slate_good : ∀ i, i < 4 → regionGood recordNoSlate i ∧ ¬ sharesBytes recordNoSlate i := by
  intro i hi
  match i, hi with
  | 0, _ => exact ⟨region_good 4 (by decide +kernel) (by unfold table101; decide +kernel), not_shares (by decide +kernel)⟩
  | 1, _ => exact ⟨region_good 1 (by decide +kernel) (by unfold table101; decide +kernel), not_shares (by decide +kernel)⟩
  | 2, _ => exact ⟨region_good 1 (by decide +kernel) (by unfold table101; decide +kernel), not_shares (by decide +kernel)⟩
  | 3, _ => exact ⟨region_good 6 (by decide +kernel) (by unfold table101; decide +kernel), not_shares (by decide +kernel)⟩

theorem many_cells_good : ∀ i, i < 6 → regionGood recordManyCells i ∧ ¬ sharesBytes recordManyCells i := by
  intro i hi
  match i, hi with
  | 0, _ => exact ⟨region_good 4 (by decide +kernel) (by unfold table101; decide +kernel), not_shares (by decide +kernel)⟩
  | 1, _ => exact ⟨region_good 4 (by decide +kernel) (by unfold table101; decide +kernel), not_shares (by decide +kernel)⟩
  | 2, _ => exact ⟨region_good 4 (by decide +kernel) (by unfold table101; decide +kernel), not_shares (by decide +kernel)⟩
  | 3, _ => exact ⟨region_good 1 (by decide +kernel) (by unfold table101; decide +kernel), not_shares (by decide +kernel)⟩
  | 4, _ => exact ⟨region_good 1 (by decide +kernel) (by unfold table101; decide +kernel), not_shares (by decide +kernel)⟩
  | 5, _ => exact ⟨region_good 1 (by decide +kernel) (by unfold table101; decide +kernel), not_shares (by decide +kernel)⟩

/-- A cell ring of 1,024 bytes is below the sizes of Table 10-1. -/
theorem bad_region_at_0 : ¬ regionGood (desc 1 0 0 0x09000000 1024) 0 := by
  rintro ⟨_, _, _, _, allowed, h, _⟩
  have hk : byteAt (desc 1 0 0 0x09000000 1024) (32 * 0) = 1 := by decide +kernel
  have hs : descSize (desc 1 0 0 0x09000000 1024) 0 = 1024 := by decide +kernel
  rw [hk, hs] at h
  simp [table101] at h

/-- Every check of R158 is reached: a bad sum, BAD_REGION at 0, OVERLAP at 4, a missing slate, 6,144 cells, and a record that passes. -/
theorem witness_record_checks :
    sumBytes ([1] ++ record105 0x08100000) ≠ 0 ∧
      (sumBytes (headOf 4 (desc 1 0 0 0x09000000 1024) ++ desc 1 0 0 0x09000000 1024) = 0 ∧ ¬ regionGood (desc 1 0 0 0x09000000 1024) 0) ∧
      (sumBytes (head105 0x08001000 ++ record105 0x08001000) = 0 ∧ 4 < headCount (head105 0x08001000) ∧
        (∀ j, j < 4 → regionGood (record105 0x08001000) j ∧ ¬ sharesBytes (record105 0x08001000) j) ∧
        regionGood (record105 0x08001000) 4 ∧ sharesBytes (record105 0x08001000) 4) ∧
      (sumBytes (headOf 4 recordNoSlate ++ recordNoSlate) = 0 ∧ headCount (headOf 4 recordNoSlate) = 4 ∧
        (∀ i, i < 4 → regionGood recordNoSlate i ∧ ¬ sharesBytes recordNoSlate i) ∧ ∀ i, i < 4 → byteAt recordNoSlate (32 * i) ≠ 2) ∧
      (sumBytes (headOf 6 recordManyCells ++ recordManyCells) = 0 ∧ headCount (headOf 6 recordManyCells) = 6 ∧
        (∀ i, i < 6 → regionGood recordManyCells i ∧ ¬ sharesBytes recordManyCells i) ∧
        (∀ k, k = 1 ∨ k = 2 ∨ k = 3 ∨ k = 4 → ∃ i, i < 6 ∧ byteAt recordManyCells (32 * i) = k) ∧ 4096 < recordCells recordManyCells 6) := by
  refine ⟨by decide +kernel, ⟨by decide +kernel, bad_region_at_0⟩, ⟨by decide +kernel, by decide +kernel, overlap_before, overlap_at_4⟩,
    ⟨by decide +kernel, by decide +kernel, no_slate_good, by decide +kernel⟩, by decide +kernel, by decide +kernel, many_cells_good, ?_, by decide +kernel⟩
  rintro k (rfl | rfl | rfl | rfl)
  · exact ⟨0, by decide +kernel⟩
  · exact ⟨3, by decide +kernel⟩
  · exact ⟨4, by decide +kernel⟩
  · exact ⟨5, by decide +kernel⟩

/-- Section 10.4: the codes of the checks that come after OVERLAP. -/
theorem test_record_checks :
    checkRecord (headOf 4 recordNoSlate) recordNoSlate = .fail .missingKind 255 ∧
      checkRecord (headOf 6 recordManyCells) recordManyCells = .fail .tooManyCells 255 := by decide +kernel

theorem witness_PlacementDescriptorsComplete :
    (lastRead 0x08100000).path.own = .descriptorRead 0x07FF00A0 32 :: [] ∧
      (lastRead 0x08100000).placement.st = .reading 0x07FF0000 (some (head105 0x08100000)) ((record105 0x08100000).take 128) ∧
      ((record105 0x08100000).drop 128).length = 32 ∧ 32 * headCount (head105 0x08100000) ≤ (record105 0x08100000).length ∧
      ([] ++ (record105 0x08100000).take 128).length < 32 * headCount (head105 0x08100000) ∧
      passed (checkRecord (head105 0x08100000) (record105 0x08100000)) = true ∧
      checkRecord (head105 0x08001000) (record105 0x08001000) = .fail .overlap 4 ∧ blank.restoring = false ∧ State.reset.restoring = true := by
  decide +kernel

/-- Section 10.5, step 2: OVERLAP, attempt 1, index 4. -/
theorem test_overlap :
    (after (.placementDescriptorReadAnswer ⟨(record105 0x08001000).drop 128, false⟩) (lastRead 0x08001000)).path.own =
      [.write 0x07FF0000 ([0x25, 1, 4, 0, 7, 0, 0, 0] ++ zeros 8) (List.replicate 16 true)] := by decide +kernel

/-- Section 10.5, step 3: the report producer word, the order consumer word, then the result record. -/
theorem test_placed :
    (after (.placementDescriptorReadAnswer ⟨(record105 0x08100000).drop 128, false⟩) (lastRead 0x08100000)).path.own =
      [indexWordWrite 0x08001000 0, indexWordWrite 0x08000040 0,
        .write 0x07FF0000 ([0x20, 1, 255, 0, 7, 0, 0, 0] ++ zeros 8) (List.replicate 16 true)] := by decide +kernel

/-! ### Orders (chapter 11) -/

theorem witness_HostIndexWordsAreTaken :
    (wr4 .cpu 0x08000000 5).cls = .cpu ∧ roomFor .cpu placed ∧
      placed.path.regions.find? (fun r => r.kind == .orderRing) = some (map98[3]) ∧ placed.orders.view = some ⟨0x08000000, 16, 0, 0⟩ ∧
      wordWritten (wr4 .cpu 0x08000000 5) (keptEnables placed.path.regions .cpu (wr4 .cpu 0x08000000 5)) (map98[3]).base = some 5 ∧
      placed.path.regions.find? (fun r => r.kind == .reportRing) = some (map98[4]) ∧ placed.reports.view = some ⟨0x08001000, 16, 0, 0⟩ ∧
      wordWritten (wr4 .cpu 0x08001040 9) (keptEnables placed.path.regions .cpu (wr4 .cpu 0x08001040 9)) ((map98[4]).base + 64) = some 9 ∧
      (16 ≤ (16 : BitVec 32).toNat ∧ (5 : BitVec 32).toNat < 16 ∧
        wordWritten (wr4 .cpu 0x08000000 16) (keptEnables placed.path.regions .cpu (wr4 .cpu 0x08000000 16)) (map98[3]).base = some 16 ∧
        wordWritten (wr4 .cpu 0x08000000 16) (keptEnables placed.path.regions .cpu (wr4 .cpu 0x08000000 16)) ((map98[4]).base + 64) = none ∧
        wordWritten (wr4 .cpu 0x08001040 16) (keptEnables placed.path.regions .cpu (wr4 .cpu 0x08001040 16)) ((map98[4]).base + 64) = some 16 ∧
        wordWritten (wr4 .cpu 0x08001040 16) (keptEnables placed.path.regions .cpu (wr4 .cpu 0x08001040 16)) (map98[3]).base = none) := by
  refine ⟨rfl, by unfold roomFor; decide, by decide +kernel, rfl, by decide +kernel, by decide +kernel, rfl, by decide +kernel, by decide, by decide, by decide +kernel⟩

/-- Writes 2 and 4 of section 9.8, and a producer word of 16. -/
theorem test_host_index_words :
    (after (.orderProducerWrite (wr4 .cpu 0x08000000 6)) placed).orders = ⟨.waitingRoom, some ⟨0x08000000, 16, 6, 0⟩⟩ ∧
      (after (.reportConsumerWrite (wr4 .cpu 0x08001040 9)) placed).reports.view = some ⟨0x08001000, 16, 0, 9⟩ ∧
      (after (.orderProducerWrite (wr4 .cpu 0x08000000 16)) placed).conds.indexBad = ⟨true, 1, some (.index 16 .orderProducer)⟩ := by decide +kernel

/-- Section 11.6: an order waits in slot 2. -/
def ordering : State :=
  { placed with
    orders := ⟨.waitingRoom, some ⟨0x08000000, 8, 3, 2⟩⟩
    reports := ⟨some ⟨0x08001000, 16, 5, 5⟩, none⟩ }

/-- A CPU write of three of the four bytes of the order producer word. -/
def threeBytes : WriteReq := { wr4 .cpu 0x08000000 5 with enables := List.replicate 3 true ++ List.replicate 13 false }

theorem witness_HostIndexWordsAreTaken_not_handed_on :
    (addrAt (wr4 .cpu 0x08000000 5).addr 0 = (0x08000000 : Addr).toNat ∧ addrAt (wr4 .cpu 0x08000000 5).addr 4294967295 = (0x07FFFFFF : Addr).toNat ∧
      addrAt 0xFFFFFFF0 16 = (0 : Addr).toNat) ∧
      ((wr4 .transport 0x08000000 5).cls ≠ .cpu ∧ roomFor (handled .transport) ordering) ∧
      (threeBytes.cls = .cpu ∧ roomFor (handled .cpu) ordering ∧ keptEnables map98 .cpu threeBytes = threeBytes.enables ∧
        wordWritten threeBytes (keptEnables map98 .cpu threeBytes) (map98[3]).base = none ∧
        wordWritten threeBytes (keptEnables map98 .cpu threeBytes) ((map98[4]).base + 64) = none) ∧
      (ordering.orders.st = .waitingRoom ∧ ordering.orders.view = some ⟨0x08000000, 8, 3, 2⟩ ∧ (2 : BitVec 32).toNat = 2 ∧ (4 : BitVec 32).toNat ≠ 2) := by
  refine ⟨by decide +kernel, ⟨by decide, by unfold roomFor; decide⟩, ⟨rfl, by unfold roomFor; decide, by decide +kernel, by decide +kernel, by decide +kernel⟩, by decide⟩

/-- R148: a write of three of the word's four bytes is not handed on; nor is TRANSPORT's. R164: an order more keeps the unit waiting. -/
theorem test_index_words_not_handed_on :
    (after (.orderProducerWrite threeBytes) ordering).orders = ordering.orders ∧
      (after (.orderProducerWrite (wr4 .transport 0x08000000 5)) ordering).orders = ordering.orders ∧
      (after (.orderProducerWrite (wr4 .cpu 0x08000000 4)) ordering).orders = ⟨.waitingRoom, some ⟨0x08000000, 8, 4, 2⟩⟩ := by decide +kernel

theorem witness_OrderIsFetchedAndConsumed :
    (ordering.orders.view = some ⟨0x08000000, 8, 3, 2⟩ ∧ ordering.orders.st = .waitingRoom ∧ (3 : Nat) ≠ 2 ∧ 1 ≤ ordering.reportRoom) ∧
      (blank.reports.view = none ∧ ordering.reports.view = some ⟨0x08001000, 16, 5, 5⟩) ∧
      State.reportRoom { ordering with reports := ⟨some ⟨0x08001000, 16, 4, 5⟩, none⟩ } = 0 ∧
      ({ ordering with orders := ⟨.fetching 2 none, ordering.orders.view⟩, path := { ordering.path with own := [.orderFetch 0x08000100] } } : State).path.own =
        .orderFetch 0x08000100 :: [] := by decide

/-- Section 11.6, step 1: slot 2 is fetched at base + 256 and the consumer becomes 3; at the answer it is written. -/
theorem test_order_fetch :
    (after .orderFetch ordering).path.own = [.orderFetch 0x08000100] ∧ (after .orderFetch ordering).orders = ⟨.fetching 2 none, some ⟨0x08000000, 8, 3, 3⟩⟩ ∧
      (after (.orderFetchAnswer ⟨zeros 64, false⟩) (after .orderFetch ordering)).path.own = [indexWordWrite 0x08000040 3] := by decide +kernel

theorem witness_FixturePriceFallsByWholeSteps :
    60 ≤ sch510.stepLen.toNat ∧ sch510.stepLen.toNat ≤ 3600 ∧ sch510.floor.toNat ≤ sch510.base.toNat ∧ sch510.kickOff.toNat < (502300 : Seconds).toNat ∧
      (499999 : Seconds).toNat ≤ sch510.kickOff.toNat := by decide

/-- Section 5.11 before its step 4. -/
def upper : State := { blank with purse := { Purse.defaults with balance := 16777215, reference := 16777930, spent := 715 } }

theorem witness_RefundCreditsUpToTheBound : upper.purse.balance ≤ 16777215 := by decide

/-- Section 5.11, step 4: nothing is credited and 715 forfeited; the entry records 715. -/
theorem test_refund_at_the_bound :
    (upper.refund .viewer 8010 715).purse = { upper.purse with reference := 16777215, spent := 0 } ∧
      (upper.refund .viewer 8010 715).log.entries.map (·.amount) = [715] := by decide

/-- Section 5.10 at its start. -/
def joining : State :=
  { placed with
    clock := ⟨true, 502300, 0⟩
    fixtures := fixturesOf [fx 7200 .live .none, fx 7201 .live (.impulse 1100)]
    passes := passesOf [⟨3, [7200, 7201, 7200, 0], some ⟨0, 600000, 3000⟩, .none⟩]
    purse := { Purse.defaults with balance := 2500, reference := 3600, spent := 1100, cap := 2500 }
    log := ⟨[le 1 .purchase 7201 1100], 2⟩ }

/-- BUY_FIXTURE of a fixture at a stated price. -/
def buy (t : Tag) (price : Credit) : List Byte := order 1 4410 (bytes16 t ++ bytes16 price)

theorem witness_BuyFixtureRefusesOrDebits :
    orderReady (fetched (buy 7200 900) joining) 1 1 2 ⟨buy 7200 900, false⟩ ∧ (fetched (buy 7200 900) joining).clock.running = true ∧
      orderTag (buy 7200 900) = 7200 ∧ joining.fixture 7200 = some (fx 7200 .live .none) ∧ State.reset.clock.running = false ∧
      blank.fixture 7200 = none := by
  refine ⟨⟨rfl, rfl, by decide +kernel, by decide⟩, rfl, by decide +kernel, by decide, rfl, by decide⟩

/-- Section 5.10, steps 2 and its step boundary: accepted at 900; refused at a stale price. -/
theorem test_buy_fixture :
    (after .buyFixture (fetched (buy 7200 900) joining)).purse = { joining.purse with balance := 1600, spent := 2000 } ∧
      (after .buyFixture (fetched (buy 7200 900) joining)).fixture 7200 = some (fx 7200 .live (.impulse 900)) ∧
      (after .buyFixture (fetched (buy 7200 900) { joining with clock := ⟨true, 502700, 0⟩ })).orders.st =
        .replying [.reply 1 .priceChanged 2 4410 (.purchase 750 0 2500)] := by decide +kernel

/-- Section 5.11: the lower bound. -/
theorem test_credit_limit :
    State.fundsCheck { blank with purse := { Purse.defaults with balance := -65000, cap := 16777215, overdraft := 65535 } } 535 = .accepted ∧
      State.fundsCheck { blank with purse := { Purse.defaults with balance := -65535, cap := 16777215, overdraft := 65535 } } 1 = .noCredit ∧
      State.fundsCheck { blank with purse := { Purse.defaults with balance := -65535, cap := 16777215, overdraft := 10000 } } 0 = .noCredit := by decide

/-- BUY_PASS of a pass at a stated price. -/
def buyPass (id : Byte) (price : Credit) : List Byte := order 2 11 ([id, 0] ++ bytes16 price)

/-- Section 5.10 before its step 3. -/
def upgrading : State :=
  { joining with
    fixtures := fixturesOf [fx 7200 .live (.impulse 900), fx 7201 .live (.impulse 1100)]
    purse := { joining.purse with balance := 1600, spent := 2000 } }

theorem witness_BuyPassRefusesOrDebits :
    orderReady (fetched (buyPass 3 1000) upgrading) 2 1 2 ⟨buyPass 3 1000, false⟩ ∧ upgrading.clock.running = true ∧
      orderByte (buyPass 3 1000) = 3 ∧ upgrading.pass 3 = some ⟨3, [7200, 7201, 7200, 0], some ⟨0, 600000, 3000⟩, .none⟩ ∧ upgrading.pass 4 = none :=
  ⟨⟨rfl, rfl, by decide +kernel, by decide⟩, rfl, by decide +kernel, by decide, by decide⟩

/-- Section 5.10, steps 3 and 5. -/
theorem test_buy_pass :
    (after .buyPass (fetched (buyPass 3 1000) upgrading)).orders.st = .replying [.reply 2 .capReached 2 11 (.purchase 1000 0 1600)] ∧
      (after .buyPass (fetched (buyPass 3 1000) { upgrading with purse := { upgrading.purse with cap := 4000 } })).purse =
        { upgrading.purse with balance := 600, spent := 3000, cap := 4000 } := by decide +kernel

/-- A CANCEL order. -/
def cancel (t : Tag) : List Byte := order 3 12 (bytes16 t)

/-- A bought fixture before its kick-off. -/
def cancelling : State := { placed with fixtures := fixturesOf [fx 8010 .onSale (.impulse 715)], purse := upper.purse }

theorem witness_CancelRefusesOrRefunds :
    orderReady (fetched (cancel 8010) cancelling) 3 1 2 ⟨cancel 8010, false⟩ ∧ cancelling.fixture (orderTag (cancel 8010)) = some (fx 8010 .onSale (.impulse 715)) ∧
      (cancelling.clock.running = true ∧ cancelling.clock.value.toNat < sch510.kickOff.toNat ∧ (fx 8010 .onSale (.impulse 715)).viewed = false) ∧
      (64 ≤ busy.log.entries.length ∧ cancelling.log.entries.length < 64) ∧ blank.fixture (orderTag (cancel 8010)) = none ∧
      sch510.kickOff.toNat ≤ (500000 : Seconds).toNat :=
  ⟨⟨rfl, rfl, by decide +kernel, by decide⟩, by decide +kernel, by decide, by decide +kernel, by decide +kernel, by decide⟩

/-- Section 5.11, step 4. -/
theorem test_cancel :
    (after .cancel (fetched (cancel 8010) cancelling)).purse = { upper.purse with reference := 16777215, spent := 0 } ∧
      (after .cancel (fetched (cancel 8010) cancelling)).fixture 8010 = some (fx 8010 .onSale .none) := by decide +kernel
/-- Table 3-6 at 800,100: a viewed fixture is not cancellable. -/
theorem test_cancel_viewed :
    (after .cancel (fetched (cancel 8010) { cancelling with fixtures := fixturesOf [{ fx 8010 .onSale (.impulse 715) with viewed := true }] })).orders.st =
      .replying [.reply 3 .notCancellable 2 12 (.cancel 0 16777215)] := by decide +kernel

/-- Orders that only read. -/
def reads (kind : Byte) (operands : List Byte) : State := fetched (order kind 77 operands) joining

theorem witness_ReadingOrdersChangeNothing :
    orderReady (reads 4 (bytes16 7200)) 4 1 2 ⟨order 4 77 (bytes16 7200), false⟩ ∧ orderReady (reads 5 [3]) 5 1 2 ⟨order 5 77 [3], false⟩ ∧
      orderReady (reads 6 []) 6 1 2 ⟨order 6 77 [], false⟩ ∧ orderReady (reads 7 (bytes32 1 ++ [8])) 7 9 2 ⟨order 7 77 (bytes32 1 ++ [8]), false⟩ ∧
      orderReady (reads 8 [0]) 8 9 2 ⟨order 8 77 [0], false⟩ ∧
      ((reads 9 []).orders.st = .fetching 2 (some ⟨order 9 77 [], false⟩) ∧ 1 ≤ (reads 9 []).reportRoom ∧ 8 < (orderKind (order 9 77 [])).toNat) := by
  unfold orderReady; decide +kernel

/-- Section 5.10, step 1. -/
theorem test_quote :
    (after .quote (reads 4 (bytes16 7200))).orders.st =
      .replying [.reply 4 .accepted 2 77 (.quote (some (fx 7200 .live .none)) 900 false .accepted)] := by decide +kernel
theorem test_quote_pass :
    (after .quotePass (reads 5 [3])).orders.st =
      .replying [.reply 5 .accepted 2 77 (.quotePass (some ⟨3, [7200, 7201, 7200, 0], some ⟨0, 600000, 3000⟩, .none⟩) 1900 .capReached)] := by
  decide +kernel
theorem test_purse :
    (after .purse (reads 6 [])).orders.st = .replying [.reply 6 .accepted 2 77 (.purse joining.purse 1 2 502300 true)] := by decide +kernel

/-- Section 6.8, step 10. -/
def readingLog : State :=
  fetched (order 7 77 (bytes32 250 ++ [8])) { placed with log := ⟨[le 303 .purchase 1 700, le 304 .purchase 1 650, le 305 .purchase 1 1, le 306 .purchase 1 1], 307⟩ }

theorem test_log_read :
    (match (after .logRead readingLog).orders.st with
      | .replying rs => rs.length == 5 && rs.getLast? == some (.reply 7 .accepted 2 77 (.logRead 4 307))
      | _ => false) = true := by decide +kernel
theorem test_fixture_list :
    (after .fixtureList (reads 8 [1])).orders.st =
      .replying [.fixtureEntry 77 1 (fx 7201 .live (.impulse 1100)), .reply 8 .accepted 2 77 (.fixtureList 1 32)] := by decide +kernel
theorem test_bad_order : (after .badOrder (reads 9 [])).orders.st = .replying [.reply 9 .badOrder 2 77 .bad] := by decide +kernel

/-- Section 11.6, step 2. -/
def replying : State :=
  { ordering with
    orders := ⟨.replying [.reply 1 .accepted 2 4410 (.purchase 900 305 (-700))], some ⟨0x08000000, 8, 3, 3⟩⟩
    conds := { Conditions.none with logNearlyFull := ⟨true, 1, some (.length 56)⟩, badCell := ⟨true, 2, some (.reason .badTag)⟩ } }

theorem witness_ReportsAreWrittenInPrecedence :
    (State.reset.reports.view = none ∧ replying.reports.view = some ⟨0x08001000, 16, 5, 5⟩ ∧ viewSound 16 ⟨0x08001000, 16, 5, 5⟩ ∧
      viewSound 16 ⟨0x08001000, 16, 15, 0⟩) ∧
    mayWriteReport replying ⟨0x08001000, 16, 5, 5⟩ ∧ replying.reports.placed = none ∧ replying.orders.view = some ⟨0x08000000, 8, 3, 3⟩ ∧
      replying.placement.st = .placed ∧
      ({ replying with reports := ⟨replying.reports.view, some ⟨7, 0, 0, true⟩⟩ } : State).reports.placed = some ⟨7, 0, 0, true⟩ ∧
      ((replying.conds.get .logNearlyFull).booked = true ∧
        (∀ k' : CondKind, k'.rank < CondKind.logNearlyFull.rank → (replying.conds.get k').booked = false)) := by
  refine ⟨⟨rfl, rfl, by unfold viewSound; decide, by unfold viewSound; decide⟩, by unfold mayWriteReport; decide, rfl, rfl, rfl, rfl, by decide, fun k' h => ?_⟩
  cases k' <;> first | rfl | simp [CondKind.rank] at h

theorem witness_ReportsAreWrittenInPrecedence_nothing_written :
    (∀ v, ¬ mayWriteReport State.reset v) ∧
      (∀ v, ¬ mayWriteReport { replying with reports := ⟨some ⟨0x08001000, 16, 4, 5⟩, none⟩ } v) := by
  refine ⟨fun v h => (nomatch h.1), fun v ⟨h, hr, _⟩ => ?_⟩
  cases h
  exact absurd hr (by decide)

/-- Section 11.6, steps 2 and 3: the reply goes to slot 5 before the condition, which goes to slot 6 and is unbooked. -/
theorem test_reply_then_condition :
    (after .conditionWrite replying).path.own = [] ∧ ((after .replyRecordWrite replying).path.own.take 1).map (fun r => match r with
        | .write a _ _ => a
        | _ => 0) = [0x080011C0] ∧
      (after .replyRecordWrite replying).reports.view = some ⟨0x08001000, 16, 6, 5⟩ ∧ (after .replyRecordWrite replying).orders.st = .idle := by
  decide +kernel
theorem test_condition_write :
    (after .conditionWrite { replying with orders := ⟨.idle, replying.orders.view⟩ }).conds.logNearlyFull = ⟨false, 0, none⟩ ∧
      (after .conditionWrite { replying with orders := ⟨.idle, replying.orders.view⟩ }).conds.badCell.booked = true := by decide +kernel
theorem test_placed_report :
    (after .placedReportWrite { ordering with reports := ⟨ordering.reports.view, some ⟨7, -700, 3, true⟩⟩ }).path.own.head? =
      some (.write 0x080011C0 ([1, 0, 0, 0, 7, 0, 0, 0, 0x44, 0xFD, 0xFF, 0xFF, 3, 1] ++ zeros 50) (List.replicate 64 true)) := by decide +kernel

/-! ### The retention store (chapter 12) -/

/-- Four memberships of no group. -/
def noGroups : List Membership := List.replicate 4 ⟨0, 0⟩

/-- A section of 0xFF bytes. -/
def blankBytes : List Byte := List.replicate 128 0xFF

theorem blank_bytes : ∀ b ∈ blankBytes, b = 0xFF := fun _ h => (List.mem_replicate.mp h).2

theorem not_blank (m : Byte) (n : Nat) (h : m ≠ 0xFF) : ¬ ∀ b ∈ sectionOf m n, b = 0xFF := fun hall => h (hall m (List.mem_cons_self ..))

theorem witness_RestoreTableGivesPurseAndLog :
    ((∀ b ∈ (s0Read blankBytes noGroups).bytes, b = 0xFF) ∧ ¬ (∀ b ∈ (s0Read (sectionOf 0x5A 128) noGroups).bytes, b = 0xFF) ∧
      ¬ sectionClosed (s0Read (sectionOf 0x5A 128) noGroups).bytes ∧
      (¬ (∀ b ∈ (s0Read (sectionOf 0xA5 128) noGroups).bytes, b = 0xFF) ∧ sectionClosed (s0Read (sectionOf 0xA5 128) noGroups).bytes ∧
        s0InRange (s0Read (sectionOf 0xA5 128) noGroups).fields ∧
        ¬ s0InRange { (s0Read (sectionOf 0xA5 128) noGroups).fields with reference := 20971456 }) ∧
      judgeS0 (s0Read (sectionOf 0xA5 128) noGroups) = .good (s0Read (sectionOf 0xA5 128) noGroups).fields) ∧
      (¬ (∀ b ∈ (s1Read 65 []).bytes, b = 0xFF) ∧ ¬ s1InRange (s1Read 65 []).fields ∧ ¬ s1InRange (s1Read 1 [le 7 .passPurchase 256 1]).fields ∧
        (sectionClosed (s1Read 2 [le 7 .purchase 1 150, le 8 .purchase 2 50]).bytes ∧
          s1InRange (s1Read 2 [le 7 .purchase 1 150, le 8 .purchase 2 50]).fields) ∧
        judgeS1 (s1Read 2 [le 7 .purchase 1 150, le 8 .purchase 2 50]) = .good [le 7 .purchase 1 150, le 8 .purchase 2 50]) ∧
      (¬ (∀ b ∈ (s2Read [⟨1, .none, 0, 0, false, none⟩] []).bytes, b = 0xFF) ∧
        (∃ x ∈ (s2Read [⟨1, .none, 0, 0, false, none⟩] []).fields.fixtures, x.kind = .none ∧ x.queued = none) ∧
        sectionClosed (s2Read [⟨1, .granted, 0, 0, false, none⟩] []).bytes ∧
        ∀ x ∈ (s2Read [⟨1, .granted, 0, 0, false, none⟩] []).fields.fixtures, x.kind ≠ .none ∨ x.queued ≠ none) ∧
      ((∀ es, Judged.lost ≠ .good (es : List LogEntry)) ∧ (∀ f, Judged.blank ≠ .good (f : S0Fields))) :=
  ⟨⟨blank_bytes, not_blank _ _ (by decide), by unfold sectionClosed; decide +kernel,
      ⟨not_blank _ _ (by decide), by unfold sectionClosed; decide +kernel, by unfold s0InRange purseInRange; decide,
        fun h => absurd h.2.2 (by decide)⟩, by decide +kernel⟩,
    ⟨not_blank _ _ (by decide), fun h => absurd h.1 (by decide),
      fun h => absurd ((h.2.2.1 _ (List.mem_singleton.mpr rfl)).2.1 rfl) (by decide),
      ⟨by unfold sectionClosed; decide +kernel, by decide, rfl, by unfold table61; decide, rfl, trivial⟩, by decide +kernel⟩,
    ⟨not_blank _ _ (by decide), by decide, by unfold sectionClosed; decide +kernel, by decide⟩, (fun _ h => nomatch h), fun _ h => nomatch h⟩

/-- R173: a section whose bytes do not sum to 0 is lost; one of 0xFF bytes is blank. -/
theorem test_judging :
    judgeS0 (s0Read ((sectionOf 0xA5 128).set 9 1) noGroups) = .lost ∧ judgeS0 (s0Read blankBytes noGroups) = .blank := by decide +kernel

/-- R174: balance 500 stands, reference 700 less purchases of 200. -/
theorem test_restore_agrees :
    restoredCredit (.good (s0Read (sectionOf 0xA5 128) noGroups).fields) (.good [le 7 .purchase 1 150, le 8 .purchase 2 50]) =
      { purse := purseOf (s0Read (sectionOf 0xA5 128) noGroups).fields, log := ⟨[le 7 .purchase 1 150, le 8 .purchase 2 50], 9⟩
        reconciled := false, dirty0 := false, dirty1 := false } := by decide +kernel

/-- The restore with S0 and S1 judged. -/
def lastSection : State :=
  { blank with store := ⟨.restoring (some (.good (s0Read (sectionOf 0xA5 128) noGroups).fields)) (some (.good [le 7 .purchase 1 150, le 8 .purchase 2 50])),
      ⟨false, false, false⟩, false, 0⟩ }

/-- A queued record of fixture 8010, one that keeps its purchase, and a pass record. -/
def queuedRec : FixtureRec := ⟨8010, .impulse, 0, 715, false, some sch510⟩
def keptRec : FixtureRec := ⟨8010, .impulse, 0, 715, true, none⟩
def passRec : PassRec := ⟨9, .granted, [1, 2]⟩

theorem witness_SectionReadsRestoreInOrder :
    (State.reset.store.awaitingStop = false ∧ State.reset.store.st = .restoring none none ∧
      ({ blank with store := ⟨.restoring (some .lost) none, ⟨false, false, false⟩, false, 0⟩ } : State).store.st = .restoring (some .lost) none ∧
      lastSection.store.awaitingStop = false ∧ judgeS2 (s2Read [] []) = .good ⟨[], []⟩ ∧ lastSection.refunds = [] ∧
      judgeS2 (s2Read [queuedRec] [passRec]) = .good ⟨[queuedRec], [passRec]⟩ ∧ (lastSection.restoreRecord queuedRec).refunds = [8010] ∧
      [queuedRec.tag].Nodup ∧ judgeS2 { s2Read [] [] with bytes := sectionOf 0x5A 2048 } = .lost ∧
      (restoredCredit (.good (s0Read (sectionOf 0xA5 128) noGroups).fields) (.good [])).reconciled = true) ∧
      (queuedRec.queued = some sch510 ∧ cancelling.fixture queuedRec.tag = some (fx 8010 .onSale (.impulse 715)) ∧ blank.fixture queuedRec.tag = none ∧
        placeIn blank.fixtures (evictable blank) 0 ∧ fullFixtures.fixture queuedRec.tag = none ∧ noPlaceIn fullFixtures.fixtures (evictable fullFixtures)) ∧
      (keptRec.queued = none ∧ (∀ sch, (fx 8010 .onSale .none).standing ≠ .scheduled sch .cancelled) ∧
        (fx 8010 .cancelled .none).standing = .scheduled { sch510 with cancelled := true } .cancelled ∧ keptKind keptRec = .impulse 715 ∧
        64 ≤ busy.log.entries.length ∧ blank.log.entries.length < 64) ∧
      (night48.pass passRec.id = some ⟨9, [4001, 4002, 4003, 4004], none, .bought 1400⟩ ∧ blank.pass passRec.id = none ∧
        placeIn blank.passes (passEvictable blank) 0 ∧ fullPasses.pass passRec.id = none ∧ noPlaceIn fullPasses.passes (passEvictable fullPasses) ∧
        passRec.owner ≠ .none) := by
  refine ⟨⟨rfl, rfl, rfl, rfl, by decide +kernel, rfl, by decide +kernel, by decide +kernel, by decide, by decide +kernel, by decide⟩, ⟨rfl, by decide, by decide, place_zero, by decide, no_place⟩,
    ⟨rfl, ?_, by decide, rfl, by decide +kernel, by decide⟩, by decide, by decide, .inl ⟨rfl, fun j hj => by omega⟩, by decide, no_pass_place, by decide⟩
  intro sch h
  simp [fx] at h

/-- The restore of a part that is PLACED, with its report pending and an order waiting. -/
def lastSectionPlaced : State :=
  { lastSection with
    placement := ⟨.placed, none, 1, true⟩
    orders := ⟨.idle, some ⟨0x08000000, 16, 1, 0⟩⟩
    reports := ⟨some ⟨0x08001000, 16, 0, 0⟩, none⟩ }

theorem witness_restoreEnded :
    orderWaits lastSectionPlaced ∧ ¬ orderWaits lastSection ∧ lastSectionPlaced.placement.pendingReport = true ∧
      lastSection.placement.pendingReport = false :=
  ⟨⟨_, rfl, rfl, rfl, by decide⟩, fun ⟨_, _, h, _⟩ => (nomatch h), rfl, rfl⟩

/-- R161, R164: the pending report is handed over, and the order is taken up, in the step that ends the restore. -/
theorem test_restore_hands_over :
    (after (.eepromSectionRead (.s2 (s2Read [] []))) lastSectionPlaced).orders.st = .waitingRoom ∧
      (after (.eepromSectionRead (.s2 (s2Read [] []))) lastSectionPlaced).reports.placed = some ⟨7, 500, 2, true⟩ := by decide +kernel

/-- R175: a kept record comes back as an AWAITING entry, a queued one as a CANCELLED entry that is refunded while the log has room. -/
theorem test_restore_of_records :
    (after (.eepromSectionRead (.s2 (s2Read [⟨5, .impulse, 0, 300, false, some sch510⟩, ⟨6, .granted, 0, 0, true, none⟩] []))) lastSection).fixture 6 =
        some { fxAwaiting 6 .granted with viewed := true } ∧
      (after (.eepromSectionRead (.s2 (s2Read [⟨5, .impulse, 0, 300, false, some sch510⟩, ⟨6, .granted, 0, 0, true, none⟩] []))) lastSection).purse.balance = 800 ∧
      (after (.eepromSectionRead (.s2 (s2Read [⟨5, .impulse, 0, 300, false, some sch510⟩, ⟨6, .granted, 0, 0, true, none⟩] []))) lastSection).store.st = .idle := by
  decide +kernel

theorem test_lost_section_is_booked :
    (after (.eepromSectionRead (.s0 (s0Read (sectionOf 0x5A 128) noGroups))) { blank with store := ⟨.restoring none none, ⟨false, false, false⟩, false, 0⟩ }).conds.storeLost =
      ⟨true, 1, some (.sections ⟨true, false, false⟩)⟩ := by decide +kernel

/-- The decoder with these sections dirty. -/
def dirtyStore (d : SectionSet) : State := { blank with store := ⟨.idle, d, false, 0⟩ }

theorem witness_WritePassesGoPageByPage :
    ((dirtyStore ⟨false, true, false⟩).store.st = .idle ∧ (dirtyStore ⟨false, true, false⟩).capture = [.s1 []] ∧
      (dirtyStore ⟨true, true, true⟩).capture.length = 3 ∧ (dirtyStore ⟨false, false, false⟩).store.dirty = ⟨false, false, false⟩) ∧
      ((writingStore [.s1 []] 3).store.awaitingStop = false ∧ 3 < pagesOf (.s1 []) ∧ pagesOf (.s1 []) ≤ 42 ∧ (writingStore [.s1 []] 42).capture.length = 1 ∧
        (writingStore [.s1 []] 3).store.st = .writing [.s1 []] 3 false ∧ (writingStore [.s1 []] 3 true).store.st = .writing [.s1 []] 3 true) ∧
      RefundQueueSound busy := ⟨by decide +kernel, by decide +kernel, busy_refunds⟩

/-- R172, R176: page 0 with the mark OPEN, the following pages, page 0 again, each once the bus address is acknowledged after the page's stop; then the next pass for what was marked meanwhile. -/
theorem test_write_pass :
    (after .writePassStart (dirtyStore ⟨true, false, false⟩)).store = ⟨.writing [.s0 blank.s0Image] 0 false, ⟨false, false, false⟩, false, 0⟩ ∧
      (after .pageWriteComplete (writingStore [.s1 []] 3)).emitted = [.bus (.poll 0b1010010), .bus (pageWriteOf (.s1 []) 4)] ∧
      (after .pageWriteComplete (writingStore [.s1 []] 3 true)).emitted = [.bus (pageWriteOf (.s1 []) 4)] ∧
      (after .pageWriteComplete (writingStore [.s1 []] 42)).store = ⟨.writing [.s2 blank.s2Image] 0 false, ⟨false, false, false⟩, false, 0⟩ :=
  ⟨rfl, rfl, rfl, rfl⟩

/-- The word address that a page write names. -/
def wordOf : BusTransaction → BitVec 16
  | .read _ w _ => w
  | .write _ w _ => w
  | .poll _ => 0

/-- Table 12-1: page 41 of S1 lies at 0x0100 + 32 × 41; the last write of a section is page 0 again. -/
theorem test_page_addresses :
    wordOf (pageWriteOf (.s1 []) 41) = 0x0620 ∧ wordOf (pageWriteOf (.s1 []) 42) = 0x0100 ∧ wordOf (pageWriteOf (.s2 ⟨[], []⟩) 63) = 0x0FE0 :=
  ⟨rfl, rfl, rfl⟩

theorem witness_BusFailuresAndRetries :
    (writingStore [.s1 []] 3).transaction = some (pageWriteOf (.s1 []) 3) ∧ (writingStore [.s1 []] 3).store.awaitingStop = false ∧
      (after .busArbitrationLoss (writingStore [.s1 []] 3)).store.awaitingStop = true ∧
      (writingStore [.s1 []] 3 true).transaction = some (.poll 0b1010010) ∧ (after .busArbitrationLoss (writingStore [.s1 []] 3 true)).store.awaitingStop = true ∧
      lastSection.transaction = some (.read 0b1010010 0x0800 2048) ∧ lastSection.refunds = [] ∧ lastSection.store.awaitingStop = false ∧
      State.reset.store.st = .restoring none none ∧ blank.store.st = .idle := ⟨rfl, rfl, rfl, rfl, rfl, rfl, rfl, rfl, rfl, rfl⟩

theorem test_bus_reissue :
    (after .transactionReissue (after .busArbitrationLoss (writingStore [.s1 []] 3))).emitted = [.bus (pageWriteOf (.s1 []) 3)] ∧
      (after .transactionReissue (after .busArbitrationLoss (writingStore [.s1 []] 3 true))).emitted = [.bus (.poll 0b1010010)] := ⟨rfl, rfl⟩

/-- R174, R177: a memory that stops answering ends the restore in OFFLINE, with every section not judged lost and then all three booked. -/
theorem test_eeprom_silent :
    (after (.eepromNoAcknowledge .dataByte) (writingStore [.s1 []] 3)).store.st = .offline ∧
      (after (.eepromNoAcknowledge .addressTimeout) lastSection).purse.balance = 500 ∧
      (after (.eepromNoAcknowledge .addressTimeout) lastSection).conds.storeLost.data = some (.sections ⟨true, true, true⟩) := by decide +kernel

end Sys2Proof.Tests
end

/-! Proofs: the scrambler and the key bank. What the keystream's two state words become in one step, what a table lookup finds, what the key check
answers for each slot state, and which dirty mark a change of the fixture table sets. -/

namespace Sys2Proof.Machine

open Sys2Proof.Safety

/-! ### The scrambler (R25, R27) -/

theorem keyOf_low (c0 c1 : Word) : (keyOf c0 c1).extractLsb' 0 32 = c0 := BitVec.extractLsb'_append_eq_right

theorem keyOf_high (c0 c1 : Word) : (keyOf c0 c1).extractLsb' 32 32 = c1 := BitVec.extractLsb'_append_eq_left

/-- R25: the next x, its product and sums taken modulo 2³². -/
theorem scramble_succ_fst (key : Key) (seed : Word) (j : Nat) :
    (scramble key seed (j + 1)).1 = 69069#32 * (scramble key seed j).1 + (scramble key seed j).2 + 1#32 := rfl

/-- R25: the next y is the rotated y XOR the next x. -/
theorem scramble_succ_snd (key : Key) (seed : Word) (j : Nat) :
    (scramble key seed (j + 1)).2 = (scramble key seed j).2.rotateLeft 5 ^^^ (scramble key seed (j + 1)).1 := rfl

/-- Word arithmetic is the exact unsigned arithmetic with one modulus at the end. -/
theorem scramble_succ_fst_toNat (key : Key) (seed : Word) (j : Nat) :
    (scramble key seed (j + 1)).1.toNat =
      (69069 * (scramble key seed j).1.toNat + (scramble key seed j).2.toNat + 1) % 4294967296 := by
  simp [scramble_succ_fst, BitVec.toNat_add, BitVec.toNat_mul]

/-- Settles O34: the recurrence word by word, and the two halves of an unwrapped key. -/
theorem keystreamFollowsRecurrence : Obligations.KeystreamFollowsRecurrence := by
  refine ⟨fun key seed w0 w1 => ⟨keyOf_low _ _, keyOf_high _ _⟩, fun key seed j => ⟨rfl, rfl, scramble_succ_fst_toNat key seed j, ?_⟩⟩
  rw [scramble_succ_snd, BitVec.rotateLeft_def]

/-! ### Lookups -/

/-- A table lookup finds the first entry in use that its test picks out. -/
theorem tableFind_firstWith {α : Type} (t : List (Option α)) {p : α → Bool} {q : α → Prop} (hpq : ∀ e, p e = true ↔ q e) :
    firstWith t q (tableFind t p) := by
  refine ⟨fun h e he hq => ?_, fun e h => ?_⟩
  · simpa [(hpq e).mpr hq] using tableFind_none h e he
  · obtain ⟨before, o, after, rfl, ho, hbefore⟩ := List.findSome?_eq_some_iff.mp h
    obtain ⟨rfl, hp⟩ := Option.filter_eq_some_iff.mp ho
    refine ⟨before.length, by simp, (hpq e).mp hp, fun j f hj hf hq => ?_⟩
    have hmem : some f ∈ before := List.mem_of_getElem? (by rwa [List.getElem?_append_left hj] at hf)
    simpa [Option.filter, (hpq f).mpr hq] using hbefore _ hmem

theorem State.keyEntry_firstWith (s : State) (svc : Service) : firstWith s.keys (fun e => e.service = svc) (s.keyEntry svc) :=
  tableFind_firstWith _ (by simp)

/-! ### The dirty mark of the fixture table (R65) -/

/-- The model's test of one table index: what S2 keeps of an entitled entry changes, or the schedule part of a queued entry. -/
theorem retainedChange_iff (queue : List Tag) (o o' : Option FixtureEntry) :
    retainedChange queue o o' = true ↔
      keptFixture o' ≠ keptFixture o ∨ ∃ a b, o = some a ∧ o' = some b ∧ b.tag ∈ queue ∧ a.schedule ≠ b.schedule := by
  rcases o with _ | a <;> rcases o' with _ | b
  · simp [retainedChange, keptFixture]
  · simp [retainedChange, keptFixture]
  · simp [retainedChange, keptFixture]
  · have hkept : keptFixture (some b) ≠ keptFixture (some a) ↔
        (a.kind ≠ .none ∨ b.kind ≠ .none) ∧ (a.tag ≠ b.tag ∨ a.kind ≠ b.kind ∨ a.viewed ≠ b.viewed) := by
      rw [ne_comm]
      by_cases ha : a.kind = .none
      · by_cases hb : b.kind = .none
        · simp [keptFixture, ha, hb]
        · simp [keptFixture, ha, hb, Ne.symm hb]
      · by_cases hb : b.kind = .none
        · simp [keptFixture, ha, hb]
        · simp [keptFixture, ha, hb, Decidable.imp_iff_not_or]
    rw [hkept]
    simp [retainedChange, or_assoc]

/-- Two lists of one length differ under `f` exactly where some pair of their zip does. -/
theorem map_ne_iff_zip {α β : Type} (f : α → β) {xs ys : List α} (hlen : ys.length = xs.length) :
    ys.map f ≠ xs.map f ↔ ∃ p ∈ xs.zip ys, f p.2 ≠ f p.1 := by
  induction xs generalizing ys with
  | nil => simp [List.length_eq_zero_iff.mp hlen]
  | cons x xs ih =>
    obtain _ | ⟨y, ys⟩ := ys
    · simp at hlen
    · have htail := ih (Nat.succ.inj hlen)
      simp only [List.map_cons, ne_eq, List.cons.injEq, Classical.not_and_iff_not_or_not, List.zip_cons_cons, List.mem_cons,
        exists_eq_or_imp] at htail ⊢
      rw [htail]

theorem not_keepsChanged_refl (s : State) : ¬ keepsChanged s s := by
  rintro (h | h | ⟨i, a, b, ha, hb, -, hne⟩ | h)
  · exact h rfl
  · exact h rfl
  · obtain rfl : a = b := by simpa [ha] using hb
    exact hne rfl
  · exact h rfl

theorem marksFollow_refl (s : State) : marksFollow s s := by
  simp [marksFollow, not_keepsChanged_refl]

/-- R65: a fixture table of the same length marks S2 exactly when something that S2 keeps is changed, and no other section. -/
theorem State.setFixtures_marksFollow (s : State) (t : List (Option FixtureEntry)) (hlen : t.length = s.fixtures.length) :
    marksFollow s (s.setFixtures t) := by
  have hmark : (List.zip s.fixtures t).any (fun p => retainedChange s.refunds p.1 p.2) = true ↔ keepsChanged s (s.setFixtures t) := by
    simp only [List.any_eq_true, retainedChange_iff, and_or_left, exists_or, keepsChanged, State.setFixtures_fixtures,
      State.setFixtures_refunds, State.setFixtures_passes, map_ne_iff_zip keptFixture hlen, ne_eq, not_true_eq_false, false_or, or_false]
    refine or_congr_right ⟨?_, ?_⟩
    · rintro ⟨⟨_, _⟩, hp, a, b, rfl, rfl, hq, hs⟩
      obtain ⟨i, hi⟩ := List.mem_iff_getElem?.mp hp
      obtain ⟨hia, hib⟩ := List.getElem?_zip_eq_some.mp hi
      exact ⟨i, a, b, hia, hib, hq, hs⟩
    · rintro ⟨i, a, b, hia, hib, hq, hs⟩
      exact ⟨(some a, some b), List.mem_of_getElem? (List.getElem?_zip_eq_some.mpr ⟨hia, hib⟩), a, b, rfl, rfl, hq, hs⟩
  refine ⟨rfl, by simp [State.setFixtures], by simp [State.setFixtures], ?_⟩
  rw [← hmark]
  simp [State.setFixtures]

theorem State.updateFixture_marksFollow (s : State) (t : Tag) (f : FixtureEntry → FixtureEntry) : marksFollow s (s.updateFixture t f) :=
  s.setFixtures_marksFollow _ (tableUpdate_length _ _ _)

/-! ### The key check (R40, R41, R54, R56, Table 2-4) -/

theorem KeySlot.check_valid (m n : Period) (w : Key) : (KeySlot.valid m w).check n = if m = n then .clear w else .noKey := rfl

theorem KeySlot.check_pending (m n : Period) : (KeySlot.pending m).check n = if m = n then .held else .noKey := rfl

theorem KeySlot.check_empty (n : Period) : KeySlot.empty.check n = .noKey := rfl

theorem State.keyCheck_none {s : State} {svc : Service} (he : s.keyEntry svc = none) (odd : Bool) (n : Period) :
    s.keyCheck svc odd n = .noKey := by
  simp [State.keyCheck, he]

theorem State.keyCheck_some {s : State} {svc : Service} {e : KeyEntry} (he : s.keyEntry svc = some e) (odd : Bool) (n : Period) :
    s.keyCheck svc odd n = (e.slot odd).check n := by
  simp [State.keyCheck, he]

theorem State.checkKey_noKey {s : State} {h : Header} (hk : s.keyCheck h.service h.parity h.period = .noKey) (o : Origin) :
    s.checkKey o h = (.slate 4, s) := by
  simp [State.checkKey, hk]

theorem State.checkKey_held {s : State} {h : Header} (hk : s.keyCheck h.service h.parity h.period = .held) (o : Origin) :
    s.checkKey o h = (.held o h.service h.parity h.period, s) := by
  simp [State.checkKey, hk]

theorem State.checkKey_clear {s : State} {h : Header} {w : Key} (hk : s.keyCheck h.service h.parity h.period = .clear w) (o : Origin) :
    s.checkKey o h = (.clear w, (s.touchKey h.service).applyOrigin o h.tag) := by
  simp [State.checkKey, hk]

/-- R41: the entry of the service takes the clock value as its last-use second, and no other entry changes. -/
theorem State.touchKey_spec (s : State) (svc : Service) :
    (s.touchKey svc).keyEntry svc = (s.keyEntry svc).map (fun e => { e with lastUse := s.now }) ∧
      ∀ v, v ≠ svc → (s.touchKey svc).keyEntry v = s.keyEntry v :=
  s.updateKey_spec svc (fun e => { e with lastUse := s.now }) (fun _ => rfl)

@[simp] theorem State.touchKey_fixture (s : State) (svc : Service) (t : Tag) : (s.touchKey svc).fixture t = s.fixture t := rfl

/-- The key bank holds nothing that S0, S1 or S2 keeps: marks follow from the state before a touch as from the state after it. -/
theorem marksFollow_touchKey (s u : State) (svc : Service) : marksFollow (s.touchKey svc) u ↔ marksFollow s u := Iff.rfl

@[simp] theorem State.applyOrigin_keyEntry (s : State) (o : Origin) (t : Tag) (svc : Service) :
    (s.applyOrigin o t).keyEntry svc = s.keyEntry svc := by
  cases o <;> rfl

theorem State.applyOrigin_marksFollow (s : State) (o : Origin) (t : Tag) : marksFollow s (s.applyOrigin o t) := by
  cases o
  case plain => exact marksFollow_refl s
  case entitled => exact s.updateFixture_marksFollow _ _
  case preview => exact s.updateFixture_marksFollow _ _

/-- R54: origin ENTITLED sets the viewed flag of the tag's entry, if its kind is other than NONE, and leaves every other entry. -/
theorem State.applyOrigin_entitled_spec (s : State) (t : Tag) :
    (s.applyOrigin .entitled t).fixture t = (s.fixture t).map (fun e => if e.kind = .none then e else { e with viewed := true }) ∧
      ∀ u, u ≠ t → (s.applyOrigin .entitled t).fixture u = s.fixture u :=
  s.updateFixture_spec t _ (fun e => by split <;> rfl)

/-- R56: origin PREVIEW sets the delivered mark of the tag's entry, and leaves every other entry. -/
theorem State.applyOrigin_preview_spec (s : State) (t : Tag) :
    (s.applyOrigin .preview t).fixture t = (s.fixture t).map (fun e => { e with delivered := true }) ∧
      ∀ u, u ≠ t → (s.applyOrigin .preview t).fixture u = s.fixture u :=
  s.updateFixture_spec t (fun e => { e with delivered := true }) (fun _ => rfl)

theorem State.applyOrigin_fixture_other (s : State) (o : Origin) {t u : Tag} (hu : u ≠ t) :
    (s.applyOrigin o t).fixture u = s.fixture u := by
  cases o
  case plain => rfl
  case entitled => exact (s.applyOrigin_entitled_spec t).2 u hu
  case preview => exact (s.applyOrigin_preview_spec t).2 u hu

/-- Settles O29: each row of Table 2-4 by the slot that the service's entry holds for the parity; in the row of CLEAR the touched key bank and the origin's
flag or mark are read off separately. -/
theorem keyCheckAnswersByItsTable : Obligations.KeyCheckAnswersByItsTable := by
  refine ⟨State.keyEntry_firstWith, fun s o h => ⟨fun he => State.checkKey_noKey (State.keyCheck_none he _ _) o, fun e he => ?_⟩⟩
  have hcheck : s.keyCheck h.service h.parity h.period = (e.slot h.parity).check h.period := State.keyCheck_some he _ _
  refine ⟨fun hs => ?empty, fun n hs hn => ?pendingOther, fun n w hs hn => ?validOther, fun hs => ?pending, fun w hs => ?valid⟩
  case empty => exact State.checkKey_noKey (by rw [hcheck, hs, KeySlot.check_empty]) o
  case pendingOther => exact State.checkKey_noKey (by rw [hcheck, hs, KeySlot.check_pending, if_neg hn]) o
  case validOther => exact State.checkKey_noKey (by rw [hcheck, hs, KeySlot.check_valid, if_neg hn]) o
  case pending => exact State.checkKey_held (by rw [hcheck, hs, KeySlot.check_pending, if_pos rfl]) o
  case valid =>
    have hframe := s.checkKey_frame o h
    rw [State.checkKey_clear (w := w) (by rw [hcheck, hs, KeySlot.check_valid, if_pos rfl]) o] at hframe ⊢
    obtain ⟨htouched, hothers⟩ := s.touchKey_spec h.service
    refine ⟨rfl, hframe, (marksFollow_touchKey _ _ _).mp (State.applyOrigin_marksFollow _ _ _), ?_, fun svc hsvc => ?_,
      fun u hu => State.applyOrigin_fixture_other _ o hu, ?_, fun f hf => ⟨?_, ?_, ?_⟩⟩
    · rw [State.applyOrigin_keyEntry, htouched, he, Option.map_some]
    · rw [State.applyOrigin_keyEntry, hothers svc hsvc]
    · rintro rfl; rfl
    · rintro rfl hkind; simp [(State.applyOrigin_entitled_spec _ _).1, hf, hkind]
    · rintro rfl hkind; simp [(State.applyOrigin_entitled_spec _ _).1, hf, hkind]
    · rintro rfl; simp [(State.applyOrigin_preview_spec _ _).1, hf]

end Sys2Proof.Machine

/-! Proofs: pricing and the purse (chapter 5). What a fixture's price is as one maximum, what a refund does to purse and marks, and what the completion of a
grant of the unit's own leaves when its owner gives the purse new values. -/

namespace Sys2Proof.Machine

open Sys2Proof.Safety

/-! ### The price of a fixture (R90) -/

/-- R90: elapsed time, 0 at or before kick-off. -/
def sinceKickOff (sch : Schedule) (c : Seconds) : Nat := c.toNat - sch.kickOff.toNat

/-- R90: the whole steps in the elapsed time. -/
def priceSteps (sch : Schedule) (c : Seconds) : Nat := sinceKickOff sch c / sch.stepLen.toNat

/-- R90: what the steps take off the base. -/
def priceCut (sch : Schedule) (c : Seconds) : Nat := priceSteps sch c * sch.stepCut.toNat

/-- R90: in exact arithmetic the price is the base less the cut, or the floor where that is greater. -/
theorem fixturePrice_eq_max (sch : Schedule) (c : Seconds) :
    (fixturePrice sch c : Int) = max ((sch.base.toNat : Int) - priceCut sch c) sch.floor.toNat := by
  have hprice : fixturePrice sch c =
      if priceCut sch c + sch.floor.toNat ≤ sch.base.toNat then sch.base.toNat - priceCut sch c else sch.floor.toNat := rfl
  rw [hprice]
  split <;> omega

theorem priceSteps_spec {sch : Schedule} (c : Seconds) (hlen : 0 < sch.stepLen.toNat) :
    priceSteps sch c * sch.stepLen.toNat ≤ sinceKickOff sch c ∧ sinceKickOff sch c < (priceSteps sch c + 1) * sch.stepLen.toNat :=
  ⟨Nat.div_mul_le_self _ _, Nat.lt_mul_of_div_lt (Nat.lt_succ_self _) hlen⟩

/-- With steps of a minute or more, at most 2³² / 60 of them fit and each takes off at most 65,535. -/
theorem priceCut_lt {sch : Schedule} (c : Seconds) (hlen : 60 ≤ sch.stepLen.toNat) : priceCut sch c < 281474976710656 := by
  have hsteps : priceSteps sch c ≤ sinceKickOff sch c / 60 := Nat.div_le_div_left hlen (by decide)
  have helapsed : sinceKickOff sch c < 4294967296 := Nat.lt_of_le_of_lt (Nat.sub_le _ _) c.isLt
  calc priceCut sch c ≤ priceSteps sch c * 65535 := Nat.mul_le_mul_left _ (Nat.le_of_lt_succ sch.stepCut.isLt)
    _ < 281474976710656 := by omega

theorem priceCut_of_stepCut_zero {sch : Schedule} (c : Seconds) (h : sch.stepCut = 0) : priceCut sch c = 0 := by
  simp [priceCut, h]

theorem priceCut_of_le_kickOff {sch : Schedule} {c : Seconds} (h : c.toNat ≤ sch.kickOff.toNat) : priceCut sch c = 0 := by
  simp [priceCut, priceSteps, sinceKickOff, Nat.sub_eq_zero_of_le h]

/-- Settles O50: the price as a maximum gives its two cases and its bounds; with no cut, or with the floor at the base, that maximum is the base. -/
theorem fixturePriceFallsByWholeSteps : Obligations.FixturePriceFallsByWholeSteps := by
  intro sch c hlen _ hfloor
  have hprice := fixturePrice_eq_max sch c
  obtain ⟨hle, hlt⟩ := priceSteps_spec c (Nat.lt_of_lt_of_le (by decide) hlen)
  refine ⟨sinceKickOff sch c, priceSteps sch c, priceCut sch c, fun h => Nat.sub_add_cancel (Nat.le_of_lt h), Nat.sub_eq_zero_of_le, hle, hlt, rfl,
    priceCut_lt c hlen, fun h => by omega, fun h => by omega, by omega, by omega, ?_⟩
  rintro (hcut | hbase | hearly)
  · have := priceCut_of_stepCut_zero c hcut; omega
  · rw [hbase] at hprice; omega
  · have := priceCut_of_le_kickOff hearly; omega

/-! ### Refunds (R97) -/

theorem credited_eq (balance : Int) (a : Credit) : credited balance a = min (a.toNat : Int) (16777215 - balance) := rfl

/-- R97: the forfeited part is taken off the reference. -/
theorem Purse.refunded_reference (p : Purse) (a : Credit) :
    (p.refunded a).reference = p.reference - ((a.toNat : Int) - credited p.balance a) := rfl

/-- A refund of 0 credits nothing and forfeits nothing where the balance keeps its bound. -/
theorem Purse.refunded_zero {p : Purse} (h : p.balance ≤ 16777215) : p.refunded 0 = p := by
  have hcredit : credited p.balance 0#16 = 0 := by
    rw [credited_eq, BitVec.toNat_zero]
    omega
  simp [Purse.refunded, hcredit]

/-- R108: a log entry marks S0, for the next sequence number, and S1. -/
theorem State.refund_dirtied (s : State) (cause : Cause) (t : Tag) (a : Credit) : dirtied true true false s (s.refund cause t a) := by
  simp [dirtied, State.refund, State.addEntry, State.setPurse, State.markS0, State.markS1]

/-- Settles O51: the forfeited part is what the credit leaves of the amount, and a refund of 0 leaves the purse by the bound of the balance. -/
theorem refundCreditsUpToTheBound : Obligations.RefundCreditsUpToTheBound := by
  intro s cause tag a hbound
  refine ⟨credited s.purse.balance a, (a.toNat : Int) - credited s.purse.balance a, credited_eq _ _, rfl, rfl, rfl, s.refund_frame cause tag a,
    s.refund_dirtied cause tag a, s.refund_purseLaw cause tag a, fun hnone => ?_, ?_⟩
  · rw [State.refund_purse, Purse.refunded_reference, hnone, Int.sub_zero]
  · rintro rfl
    exact Purse.refunded_zero hbound

/-! ### Grants to the purse (R100, R101, R123, R125, R129, R130) -/

/-- R36, R123: the key looked up when the next cell reaches the head is the one that its group has among the memberships. -/
theorem State.headKeyFor_tail (s : State) : s.headKeyFor s.engine.queue.tail = (headLeft s s.purse.memberships).headKey := by
  rcases hq : s.engine.queue.tail with _ | ⟨c, rest⟩
  · simp [State.headKeyFor, headLeft, hq]
  · by_cases hg : keyGroup c.bytes = 0#16
    · simp [State.headKeyFor, headLeft, hq, State.membership, hg]
    · simp [State.headKeyFor, headLeft, hq, State.membership, hg]

theorem State.popCell_eq (s : State) : s.popCell = { s with engine := headLeft s s.purse.memberships } := by
  rw [State.popCell, State.headKeyFor_tail]
  rfl

/-- R87: a purse that changes marks S0. -/
theorem State.setPurse_of_ne {s : State} {p : Purse} (h : p ≠ s.purse) : s.setPurse p = { s with purse := p, store := s0Dirty s } := by
  simp [State.setPurse, State.markS0, s0Dirty, h]

/-- A mark of S0 that stands already is kept. -/
theorem State.markS0_of_s0 {s : State} (h : s.store.dirty.s0 = true) (b : Bool) : s.markS0 b = s := by
  have hmark : (s.store.dirty.s0 || b) = s.store.dirty.s0 := by simp [h]
  rw [State.markS0, hmark]

theorem State.setPurse_of_s0 {s : State} (h : s.store.dirty.s0 = true) (p : Purse) : s.setPurse p = { s with purse := p } :=
  State.markS0_of_s0 (s := { s with purse := p }) h _

theorem State.lastSeq_lt_of_grantApplies {s : State} {cell : List Byte} (hunit : grantTarget cell = 0) (h : s.grantApplies cell = true) :
    s.purse.lastSeq.toNat < (grantSeq cell).toNat := by
  obtain ⟨-, hnewer⟩ : grantUnit cell = s.unit.number ∧ s.purse.lastSeq.toNat < (grantSeq cell).toNat := by
    simpa [State.grantApplies, hunit] using h
  exact hnewer

/-- The state in which the owner of a grant of the unit's own finds the part: the last grant sequence advanced, and S0 marked for it (R87, R125). -/
def sequencedState (s : State) (cell : List Byte) : State := { s with purse := sequenced s cell, store := s0Dirty s }

/-- R125: an applied grant of the unit's own always changes the purse, since its sequence is greater than the last. -/
theorem State.advanceSeq_unit {s : State} {cell : List Byte} (hunit : grantTarget cell = 0) (happlies : s.grantApplies cell = true) :
    s.advanceSeq cell = sequencedState s cell := by
  have hnewer := State.lastSeq_lt_of_grantApplies hunit happlies
  have hne : sequenced s cell ≠ s.purse := fun h => by
    rw [← congrArg Purse.lastSeq h] at hnewer
    exact Nat.lt_irrefl _ hnewer
  simp only [State.advanceSeq, hunit]
  exact State.setPurse_of_ne hne

/-- R123, R125: the completion of an applied grant of the unit's own whose owner gives the purse new values: the purse takes them on top of the new sequence, S0 is
marked, and the cell leaves the queue. -/
theorem State.completeGrant_setPurse {s : State} {k : Nat} {cell : List Byte} (h : unitGrantAtHead s k cell)
    {owner : List Byte → State → State} {p : Purse} {ms : List Membership} (hms : p.memberships = ms)
    (howner : owner cell (sequencedState s cell) = (sequencedState s cell).setPurse p) :
    s.completeGrant (isGrant k) owner = { s with purse := p, store := s0Dirty s, engine := headLeft s ms } := by
  subst hms
  obtain ⟨hhead, hunit, happlies⟩ := h
  have hcomplete : s.completeGrant (isGrant k) owner = ((sequencedState s cell).setPurse p).popCell := by
    simp [State.completeGrant, hhead, happlies, State.advanceSeq_unit hunit happlies, howner]
  rw [hcomplete, State.setPurse_of_s0 rfl, State.popCell_eq]
  rfl

/-- R100: the amount applied, in exact arithmetic. -/
theorem topupApplied_eq (balance : Int) (amount : Nat) :
    topupApplied balance amount = min (min (amount : Int) 16777215) (16777215 - balance) := by
  unfold topupApplied creditMax
  omega

/-- Settles O36: each of the four grants is a completion whose owner gives the sequenced purse new values. -/
theorem purseGrantsChangeTheirFields : Obligations.PurseGrantsChangeTheirFields := by
  intro s cell
  refine ⟨fun h => ⟨_, rfl, ?groupSet⟩, fun h => ?zoneSet,
    fun h => ⟨topupApplied s.purse.balance (grantAmount cell).toNat, topupApplied_eq _ _, ?topup⟩, fun h => ?limitsSet⟩
  case groupSet | zoneSet | topup | limitsSet => exact congrArg Host.Outcome.next (State.completeGrant_setPurse h rfl rfl)

end Sys2Proof.Machine

/-! Proofs: what a command leaves, and the frame of every command. A frame lists the blocks that may change, dirty marks apart: most invariants of the part read
a few blocks alone, so that the commands whose frame lies elsewhere keep them. -/

namespace Sys2Proof.Machine

open Sys2Proof.Safety

set_option Elab.async false

/-! ### Conditionals -/

/-- A conditional whose value is not that of its first branch. -/
theorem of_ite_ne {α : Type} {c : Prop} [Decidable c] {a b x : α} (h : (if c then a else b) = x) (hne : a ≠ x) : ¬ c ∧ b = x := by
  by_cases hc : c
  · rw [if_pos hc] at h
    exact absurd h hne
  · rw [if_neg hc] at h
    exact ⟨hc, h⟩

/-- A conditional whose value is not that of its second branch. -/
theorem of_ite_ne_else {α : Type} {c : Prop} [Decidable c] {a b x : α} (h : (if c then a else b) = x) (hne : b ≠ x) : c ∧ a = x := by
  by_cases hc : c
  · rw [if_pos hc] at h
    exact ⟨hc, h⟩
  · rw [if_neg hc] at h
    exact absurd h hne

theorem ite_branch {α : Type} {c : Prop} [Decidable c] (a b : α) : (if c then a else b) = a ∨ (if c then a else b) = b := by
  by_cases hc : c
  · exact .inl (if_pos hc)
  · exact .inr (if_neg hc)

/-! ### Lists without repetition -/

theorem nodup_map {α β : Type} {f : α → β} (hf : ∀ a b, f a = f b → a = b) {xs : List α} (h : xs.Nodup) : (xs.map f).Nodup :=
  List.pairwise_map.mpr (h.imp fun hne heq => hne (hf _ _ heq))

/-- Elements with the same image are the same where the images do not repeat. -/
theorem eq_of_nodup_map {α β : Type} {f : α → β} {xs : List α} (h : (xs.map f).Nodup) {x y : α} (hx : x ∈ xs) (hy : y ∈ xs) (hxy : f x = f y) : x = y := by
  induction xs with
  | nil => cases hx
  | cons a xs ih =>
    rw [List.map_cons, List.nodup_cons] at h
    obtain ⟨hfresh, hrest⟩ := h
    rcases List.mem_cons.mp hx with rfl | hx'
    · rcases List.mem_cons.mp hy with rfl | hy'
      · rfl
      · exact absurd (hxy ▸ List.mem_map_of_mem hy') hfresh
    · rcases List.mem_cons.mp hy with rfl | hy'
      · exact absurd (hxy ▸ List.mem_map_of_mem hx') hfresh
      · exact ih hrest hx' hy'

/-- A list without repetition is no longer than a list that holds its elements. -/
theorem nodup_length_le {α : Type} [DecidableEq α] {xs : List α} : ∀ {ys : List α}, xs.Nodup → (∀ x ∈ xs, x ∈ ys) → xs.length ≤ ys.length := by
  induction xs with
  | nil => exact fun _ _ => Nat.zero_le _
  | cons x xs ih =>
    intro ys hnodup hmem
    obtain ⟨hfresh, hrest⟩ := List.nodup_cons.mp hnodup
    have hx := hmem x List.mem_cons_self
    have hle : xs.length ≤ (ys.erase x).length := ih hrest (fun y hy => by
      have hne : y ≠ x := fun heq => hfresh (heq ▸ hy)
      exact (List.mem_erase_of_ne hne).mpr (hmem y (List.mem_cons_of_mem x hy)))
    have hpos := List.length_pos_of_mem hx
    rw [List.length_erase_of_mem hx] at hle
    rw [List.length_cons]
    omega

/-! ### Steps and commands -/

/-- The state that a command leaves: every command completes. -/
def after (c : Instr) (s : State) : State :=
  match exec c s with
  | .next t => t
  | .fault _ => s
  | .refused _ => s

theorem exec_eq_after (c : Instr) (s : State) : exec c s = .next (after c s) := by cases c <;> rfl

/-- What a step can do: a clock cycle on an empty queue, or the command in front on the queue's rest. -/
theorem step_cases {s t : State} (h : step s = .next t) :
    (s.pending = [] ∧ t = s.busCycle.tick) ∨ ∃ c rest, s.pending = c :: rest ∧ t = after c { s with pending := rest } := by
  unfold step at h
  split at h
  · exact .inl ⟨‹_›, by simpa using h.symm⟩
  · rename_i c rest hp
    rw [exec_eq_after] at h
    exact .inr ⟨c, rest, hp, by simpa using h.symm⟩

/-- A condition that neither the queue of commands, nor a clock cycle, nor any command of shape `W` disturbs is kept by a step. -/
theorem step_keeps {I : State → Prop} {W : Instr → Prop} (hqueue : ∀ s p, I s → I { s with pending := p })
    (hcycle : ∀ s, I s → I s.busCycle.tick) (hcommand : ∀ c s, W c → I s → I (after c s)) {s t : State}
    (hfront : ∀ c rest, s.pending = c :: rest → W c) (hs : I s) (h : step s = .next t) : I t := by
  rcases step_cases h with ⟨-, rfl⟩ | ⟨c, rest, hp, rfl⟩
  · exact hcycle s hs
  · exact hcommand c _ (hfront c rest hp) (hqueue s rest hs)

/-! ### Frames, dirty marks apart -/

/-- A block holds after a step what it held before; of the retention unit the dirty marks may differ. -/
def sameButMarks (b : Block) (s t : State) : Prop :=
  match b with
  | .store => t.store = { s.store with dirty := t.store.dirty }
  | b => sameBlock b s t

/-- Every block outside the list is unchanged, dirty marks apart. -/
def framed (bs : List Block) (s t : State) : Prop := ∀ b, b ∉ bs → sameButMarks b s t

theorem sameButMarks_of_sameBlock {b : Block} {s t : State} (h : sameBlock b s t) : sameButMarks b s t := by
  cases b
  case store =>
    have hstore : t.store = s.store := h
    change t.store = { s.store with dirty := t.store.dirty }
    rw [hstore]
  all_goals exact h

theorem sameButMarks_trans {b : Block} {s t u : State} (h : sameButMarks b s t) (h' : sameButMarks b t u) : sameButMarks b s u := by
  cases b
  case store =>
    have h1 : t.store = { s.store with dirty := t.store.dirty } := h
    have h2 : u.store = { t.store with dirty := u.store.dirty } := h'
    rw [h1] at h2
    exact h2
  all_goals exact Eq.trans h' h

theorem framed_of_changesOnly {bs : List Block} {s t : State} (h : changesOnly bs s t) : framed bs s t :=
  fun b hb => sameButMarks_of_sameBlock (h b hb)

theorem framed.refl (bs : List Block) (s : State) : framed bs s s := framed_of_changesOnly (changesOnly_refl bs s)

theorem framed.trans {bs : List Block} {s t u : State} (h : framed bs s t) (h' : framed bs t u) : framed bs s u :=
  fun b hb => sameButMarks_trans (h b hb) (h' b hb)

theorem framed.into {as bs : List Block} {s t : State} (h : framed as s t) (hsub : ∀ b ∈ as, b ∈ bs := by decide) : framed bs s t :=
  fun b hb => h b (fun hm => hb (hsub b hm))

/-- A frame for two updates, one after the other. -/
theorem framed.andThen {as bs cs : List Block} {s t u : State} (h : framed as s t) (h' : framed bs t u)
    (hsub : ∀ b ∈ as ++ bs, b ∈ cs := by decide) : framed cs s u :=
  (h.into (fun b hb => hsub b (List.mem_append_left _ hb))).trans (h'.into (fun b hb => hsub b (List.mem_append_right _ hb)))

theorem framed.ite {bs : List Block} {s t u : State} {c : Prop} [Decidable c] (h : framed bs s t) (h' : framed bs s u) :
    framed bs s (if c then t else u) := by
  split
  · exact h
  · exact h'

theorem framed_foldl {α : Type} {bs : List Block} {f : State → α → State} (hf : ∀ s x, framed bs s (f s x)) (xs : List α) :
    ∀ s, framed bs s (xs.foldl f s) := by
  induction xs with
  | nil => exact framed.refl bs
  | cons x xs ih => exact fun s => (hf s x).trans (ih _)

section
variable {bs : List Block} {s t : State}

theorem framed.path (h : framed bs s t) (hb : .path ∉ bs := by decide) : t.path = s.path := h .path hb
theorem framed.slots (h : framed bs s t) (hb : .slots ∉ bs := by decide) : t.slots = s.slots := h .slots hb
theorem framed.keys (h : framed bs s t) (hb : .keys ∉ bs := by decide) : t.keys = s.keys := h .keys hb
theorem framed.engine (h : framed bs s t) (hb : .engine ∉ bs := by decide) : t.engine = s.engine := h .engine hb
theorem framed.clock (h : framed bs s t) (hb : .clock ∉ bs := by decide) : t.clock = s.clock := h .clock hb
theorem framed.fixtures (h : framed bs s t) (hb : .fixtures ∉ bs := by decide) : t.fixtures = s.fixtures := h .fixtures hb
theorem framed.refunds (h : framed bs s t) (hb : .refunds ∉ bs := by decide) : t.refunds = s.refunds := h .refunds hb
theorem framed.passes (h : framed bs s t) (hb : .passes ∉ bs := by decide) : t.passes = s.passes := h .passes hb
theorem framed.purse (h : framed bs s t) (hb : .purse ∉ bs := by decide) : t.purse = s.purse := h .purse hb
theorem framed.log (h : framed bs s t) (hb : .log ∉ bs := by decide) : t.log = s.log := h .log hb
theorem framed.placement (h : framed bs s t) (hb : .placement ∉ bs := by decide) : t.placement = s.placement := h .placement hb
theorem framed.orders (h : framed bs s t) (hb : .orders ∉ bs := by decide) : t.orders = s.orders := h .orders hb
theorem framed.reports (h : framed bs s t) (hb : .reports ∉ bs := by decide) : t.reports = s.reports := h .reports hb
theorem framed.conds (h : framed bs s t) (hb : .conds ∉ bs := by decide) : t.conds = s.conds := h .conds hb
theorem framed.emitted (h : framed bs s t) (hb : .emitted ∉ bs := by decide) : t.emitted = s.emitted := h .emitted hb
theorem framed.unit (h : framed bs s t) (hb : .unit ∉ bs := by decide) : t.unit = s.unit := h .unit hb
theorem framed.pending (h : framed bs s t) (hb : .pending ∉ bs := by decide) : t.pending = s.pending := h .pending hb
theorem framed.store (h : framed bs s t) (hb : .store ∉ bs := by decide) : t.store = { s.store with dirty := t.store.dirty } := h .store hb

theorem framed.storeSt (h : framed bs s t) (hb : .store ∉ bs := by decide) : t.store.st = s.store.st := by
  rw [h.store hb]

theorem framed.restoring (h : framed bs s t) (hb : .store ∉ bs := by decide) : t.restoring = s.restoring := by
  rw [State.restoring, h.storeSt hb, State.restoring]

end

/-! ### Setters, conditions and the memory port -/

theorem State.book_framed (s : State) (k : CondKind) (d : CondData) : framed [.conds] s (s.book k d) := framed_of_changesOnly (s.book_spec k d).1

theorem State.unbook_framed (s : State) (k : CondKind) : framed [.conds] s (s.unbook k) := framed_of_changesOnly (s.unbook_spec k).1

theorem State.bookNearlyFull_framed (s : State) : framed [.conds] s s.bookNearlyFull := framed_of_changesOnly s.bookNearlyFull_frame

theorem State.setFixtures_framed (s : State) (t : List (Option FixtureEntry)) : framed [.fixtures] s (s.setFixtures t) := by
  intro b hb; cases b <;> first | rfl | simp at hb

theorem State.updateFixture_framed (s : State) (t : Tag) (f : FixtureEntry → FixtureEntry) : framed [.fixtures] s (s.updateFixture t f) :=
  s.setFixtures_framed _

theorem State.removeFixtures_framed (s : State) (p : FixtureEntry → Bool) : framed [.fixtures] s (s.removeFixtures p) := s.setFixtures_framed _

theorem State.createFixture_eq {s t : State} {e : FixtureEntry} (h : s.createFixture e = some t) :
    ∃ i, s.fixturePlace = some i ∧ t = s.setFixtures (s.fixtures.set i (some e)) := by
  obtain ⟨i, hi, rfl⟩ := Option.map_eq_some_iff.mp h
  exact ⟨i, hi, rfl⟩

theorem State.createFixture_framed {s t : State} {e : FixtureEntry} (h : s.createFixture e = some t) : framed [.fixtures] s t := by
  obtain ⟨i, -, rfl⟩ := State.createFixture_eq h
  exact s.setFixtures_framed _

theorem State.setRefunds_framed (s : State) (q : List Tag) : framed [.refunds] s (s.setRefunds q) := by
  intro b hb; cases b <;> first | rfl | simp at hb

theorem State.setPasses_framed (s : State) (t : List (Option PassEntry)) : framed [.passes] s (s.setPasses t) := by
  intro b hb; cases b <;> first | rfl | simp at hb

theorem State.updatePass_framed (s : State) (id : PassId) (f : PassEntry → PassEntry) : framed [.passes] s (s.updatePass id f) :=
  s.setPasses_framed _

theorem State.createPass_eq {s t : State} {p : PassEntry} (h : s.createPass p = some t) :
    ∃ i, allocate s.passes (PassEntry.evictKey s.now) = some i ∧ t = s.setPasses (s.passes.set i (some p)) := by
  obtain ⟨i, hi, rfl⟩ := Option.map_eq_some_iff.mp h
  exact ⟨i, hi, rfl⟩

theorem State.createPass_framed {s t : State} {p : PassEntry} (h : s.createPass p = some t) : framed [.passes] s t := by
  obtain ⟨i, -, rfl⟩ := State.createPass_eq h
  exact s.setPasses_framed _

theorem State.setPurse_framed (s : State) (p : Purse) : framed [.purse] s (s.setPurse p) := by
  intro b hb; cases b <;> first | rfl | simp at hb

theorem State.addEntry_framed (s : State) (kind : LogKind) (ident : BitVec 16) (amount : Credit) :
    framed [.log] s (s.addEntry kind ident amount) := by
  intro b hb; cases b <;> first | rfl | simp at hb

theorem State.refund_framed (s : State) (cause : Cause) (t : Tag) (a : Credit) : framed [.purse, .log] s (s.refund cause t a) :=
  (s.setPurse_framed _).andThen (State.addEntry_framed _ _ _ _)

theorem State.present_framed (s : State) (es : List Emission) : framed [.emitted, .path] s (s.present es) := framed_of_changesOnly (s.present_frame es)

theorem State.presentTogether_framed (s : State) (es : List Emission) : framed [.emitted, .path] s (s.presentTogether es) := by
  obtain ⟨_, -, -, -, -, -, -, h⟩ := s.presentTogether_spec es
  exact framed_of_changesOnly h

theorem State.drain_framed (s : State) : framed [.emitted, .path] s s.drain := framed_of_changesOnly s.drain_frame

theorem State.popOwn_framed (s : State) : framed [.path] s s.popOwn := by
  intro b hb; cases b <;> first | rfl | simp at hb

theorem State.setInflight_framed (s : State) (id : Nat) (f : Inflight → Inflight) : framed [.path] s (s.setInflight id f) := by
  intro b hb; cases b <;> first | rfl | simp at hb

/-! ### Refund queue and purchase log -/

theorem State.serveTag_framed (s : State) (t : Tag) (rest : List Tag) : framed [.purse, .log, .fixtures, .refunds] s (s.serveTag t rest) :=
  ((s.refund_framed .operator t _).andThen (cs := [.purse, .log, .fixtures]) (State.updateFixture_framed _ t _)).andThen
    (State.setRefunds_framed _ rest)

theorem serveFrom_framed (q : List Tag) : ∀ s : State, framed [.purse, .log, .fixtures, .refunds] s (serveFrom q s) := by
  induction q with
  | nil => exact framed.refl _
  | cons t rest ih => exact fun s => framed.ite (framed.refl _ s) ((s.serveTag_framed t rest).trans (ih _))

theorem State.settleQueue_framed (s : State) (before : List Tag) : framed [.conds] s (s.settleQueue before) :=
  framed_of_changesOnly (s.settleQueue_frame before)

theorem State.removeEntries_framed (s : State) (k : Nat) : framed [.purse, .log] s (s.removeEntries k) := by
  intro b hb; cases b <;> first | rfl | simp at hb

theorem State.acknowledge_framed (s : State) (n : Seq) : framed [.purse, .log, .fixtures, .refunds, .conds] s (s.acknowledge n) :=
  ((s.removeEntries_framed _).andThen (cs := [.purse, .log, .fixtures, .refunds]) (serveFrom_framed _ _)).andThen (State.settleQueue_framed _ _)

/-! ### Passes and fixtures -/

theorem State.propagateTag_framed (s : State) (id : PassId) (t : Tag) : framed [.fixtures, .conds] s (s.propagateTag id t) := by
  unfold State.propagateTag
  split
  · exact framed.ite ((s.updateFixture_framed _ _).andThen (State.book_framed _ _ _)) (framed.refl _ _)
  · exact framed.refl _ _

theorem State.settleLatest_framed (before : State) (tags : List Tag) (s : State) : framed [.conds] s (State.settleLatest before tags s) :=
  framed_of_changesOnly (State.settleLatest_spec before tags s).1

theorem State.propagateAll_framed (s : State) (id : PassId) (tags : List Tag) : framed [.fixtures, .conds] s (s.propagateAll id tags) :=
  framed_foldl (fun s t => s.propagateTag_framed id t) tags s

theorem State.propagate_framed (s : State) (id : PassId) (tags : List Tag) : framed [.fixtures, .conds] s (s.propagate id tags) :=
  (s.propagateAll_framed id tags).andThen (State.settleLatest_framed s _ _)

theorem State.cancelEffect_framed (s : State) (t : Tag) : framed [.purse, .log, .fixtures, .refunds, .conds] s (s.cancelEffect t) := by
  unfold State.cancelEffect
  split
  · split
    · refine framed.ite ?_ ?_
      · exact ((s.setRefunds_framed _).andThen (cs := [.refunds, .conds]) (State.book_framed _ _ _)).andThen (State.book_framed _ _ _)
      · exact (((s.refund_framed .operator t _).andThen (cs := [.purse, .log, .fixtures]) (State.updateFixture_framed _ t _)).andThen
          (cs := [.purse, .log, .fixtures, .conds]) (State.bookNearlyFull_framed _)).andThen (State.book_framed _ _ _)
    · exact framed.refl _ _
  · exact framed.refl _ _

theorem State.applyPassCell_framed (s : State) (cell : List Byte) : framed [.passes, .fixtures, .conds] s (s.applyPassCell cell) := by
  unfold State.applyPassCell
  refine framed.ite (s.book_framed _ _).into (framed.ite (s.book_framed _ _).into (framed.ite (s.book_framed _ _).into ?_))
  split
  · exact framed.ite ((s.updatePass_framed _ _).andThen (State.propagate_framed _ _ _)) (s.updatePass_framed _ _).into
  · split
    · exact (State.createPass_framed ‹_›).into
    · exact (s.book_framed _ _).into

theorem State.entitlePass_framed (s : State) (id : PassId) : framed [.passes, .fixtures, .conds] s (s.entitlePass id) := by
  unfold State.entitlePass
  refine framed.ite (framed.refl _ _) ?_
  split
  · exact framed.ite ((s.updatePass_framed _ _).andThen (State.propagate_framed _ _ _)) (framed.refl _ _)
  · split
    · exact (State.createPass_framed ‹_›).into
    · exact (s.book_framed _ _).into

theorem State.revokePass_framed (s : State) (id : PassId) : framed [.passes, .fixtures, .conds] s (s.revokePass id) := by
  unfold State.revokePass
  split
  · refine framed.ite ?_ (framed.refl _ _)
    exact (((s.updatePass_framed _ _).andThen (cs := [.passes, .fixtures]) (State.setFixtures_framed _ _)).andThen (cs := [.passes, .fixtures, .conds])
      (framed_foldl (fun s t => s.book_framed _ _) _ _)).andThen (State.settleLatest_framed _ _ _)
  · exact framed.refl _ _

theorem State.announceNew_framed (s : State) (t : Tag) (sch : Schedule) : framed [.fixtures, .conds] s (s.announceNew t sch) := by
  unfold State.announceNew
  simp only []
  split
  · split
    · exact (State.createFixture_framed ‹_›).andThen (State.book_framed _ _ _)
    · exact (s.book_framed _ _).into
  · split
    · exact (State.createFixture_framed ‹_›).into
    · exact (s.book_framed _ _).into

theorem State.announceAwaiting_framed (s : State) (t : Tag) (sch : Schedule) :
    framed [.purse, .log, .fixtures, .refunds, .conds] s (s.announceAwaiting t sch) :=
  framed.ite ((s.updateFixture_framed _ _).andThen (State.cancelEffect_framed _ _)) (s.updateFixture_framed _ _).into

theorem State.announceAgain_framed (s : State) (t : Tag) (sch old : Schedule) (ph : Phase) :
    framed [.purse, .log, .fixtures, .refunds, .conds] s (s.announceAgain t sch old ph) :=
  framed.ite ((s.updateFixture_framed _ _).andThen (State.cancelEffect_framed _ _)) (s.updateFixture_framed _ _).into

theorem State.applyAnnouncement_framed (s : State) (cell : List Byte) :
    framed [.purse, .log, .fixtures, .refunds, .conds] s (s.applyAnnouncement cell) := by
  unfold State.applyAnnouncement
  split
  · exact (s.book_framed _ _).into
  · simp only []
    split
    · exact (s.announceNew_framed _ _).into
    · split
      · exact s.announceAwaiting_framed _ _
      · exact s.announceAgain_framed _ _ _ _

theorem State.entitleFixture_framed (s : State) (t : Tag) : framed [.fixtures, .conds] s (s.entitleFixture t) := by
  unfold State.entitleFixture
  refine framed.ite (framed.refl _ _) ?_
  split
  · split
    · exact (s.updateFixture_framed _ _).andThen (State.book_framed _ _ _)
    · exact (s.updateFixture_framed _ _).andThen (State.book_framed _ _ _)
    · exact framed.refl _ _
    · exact framed.refl _ _
  · split
    · exact (State.createFixture_framed ‹_›).andThen (State.book_framed _ _ _)
    · exact (s.book_framed _ _).into

theorem State.revokeFixture_framed (s : State) (t : Tag) : framed [.fixtures, .conds] s (s.revokeFixture t) := by
  unfold State.revokeFixture
  split
  · refine framed.ite ?_ (framed.refl _ _)
    split
    · exact (s.updateFixture_framed _ _).andThen (State.book_framed _ _ _)
    · exact framed.ite ((s.removeFixtures_framed _).andThen (State.book_framed _ _ _))
        ((s.updateFixture_framed _ _).andThen (State.book_framed _ _ _))
  · exact framed.refl _ _

theorem State.nightReset_framed (s : State) : framed [.purse, .fixtures, .passes] s s.nightReset :=
  ((s.setPurse_framed _).andThen (cs := [.purse, .fixtures]) (State.removeFixtures_framed _ _)).andThen (State.setPasses_framed _ _)

/-! ### The clock -/

theorem State.secondEvent_framed (s : State) : framed [.clock, .fixtures] s s.secondEvent := by
  unfold State.secondEvent
  split
  · intro b hb; cases b <;> first | rfl | simp at hb
  · exact framed.refl _ _

theorem State.tick_framed (s : State) : framed [.clock, .fixtures] s s.tick := by
  unfold State.tick
  refine framed.ite (framed.ite s.secondEvent_framed ?_) (framed.refl _ _)
  intro b hb; cases b <;> first | rfl | simp at hb

theorem State.busCycle_framed (s : State) : framed [.store, .emitted] s s.busCycle := by
  rcases busCycle_cases s with h | ⟨_, _, _, _, _, _, ⟨_, h⟩ | ⟨_, h⟩⟩ <;> rw [h]
  · exact framed.refl _ _
  · intro b hb; cases b <;> first | rfl | simp at hb
  · intro b hb; cases b <;> first | rfl | simp at hb

theorem State.adoptTime_framed (s : State) (v : Seconds) : framed [.clock, .fixtures, .conds] s (s.adoptTime v) := by
  have h : framed [.clock, .fixtures] s (State.advancePhases v { s with clock := { running := true, value := v, sub := 0 } }) := by
    intro b hb; cases b <;> first | rfl | simp at hb
  exact framed.ite (h.andThen (State.book_framed _ _ _)) h.into

/-! ### Key bank, cells and holds -/

theorem State.handOver_framed (s : State) (cell : List Byte) : framed [.engine, .keys, .conds] s (s.handOver cell) :=
  framed_of_changesOnly (s.handOver_frame cell)

theorem State.popCell_framed (s : State) : framed [.engine] s s.popCell := framed_of_changesOnly s.popCell_frame

theorem State.updateKey_framed (s : State) (svc : Service) (f : KeyEntry → Option KeyEntry) : framed [.keys] s (s.updateKey svc f) :=
  framed_of_changesOnly (s.updateKey_frame svc f)

theorem State.applyOrigin_framed (s : State) (o : Origin) (t : Tag) : framed [.fixtures] s (s.applyOrigin o t) := by
  cases o
  case plain => exact framed.refl _ _
  case entitled => exact s.updateFixture_framed _ _
  case preview => exact s.updateFixture_framed _ _

theorem State.checkKey_framed (s : State) (o : Origin) (h : Header) : framed [.keys, .fixtures] s (s.checkKey o h).2 := by
  unfold State.checkKey
  split
  · exact (s.updateKey_framed _ _).andThen (State.applyOrigin_framed _ _ _)
  · exact framed.refl _ _
  · exact framed.refl _ _

theorem State.runChain_framed (s : State) (h : Header) : framed [.keys, .fixtures] s (s.runChain h).2 := by
  unfold State.runChain
  split
  · exact framed.refl _ _
  · exact s.checkKey_framed _ _

theorem State.latch_framed (s : State) (r n : Nat) (v : Verdict) : framed [.slots] s (s.latch r n v) := framed_of_changesOnly (s.latch_frame r n v)

theorem settlePart_framed (p : Part) (s : State) : framed [.slots, .keys, .fixtures] s (settlePart p s).2 := by
  unfold settlePart
  split
  · exact framed.refl _ _
  · split
    · exact (s.runChain_framed _).andThen (State.latch_framed _ _ _ _)
    · exact framed.refl _ _
    · exact framed.refl _ _
  · exact framed.refl _ _

theorem settleParts_framed (ps : List Part) : ∀ s : State, framed [.slots, .keys, .fixtures] s (settleParts ps s).2 := by
  induction ps with
  | nil => exact framed.refl _
  | cons p ps ih => exact fun s => (settlePart_framed p s).trans (ih _)

theorem State.memoryAnswer_framed (s : State) (id : Nat) (a : Answer) :
    framed [.emitted, .path, .slots, .keys, .fixtures] s (s.memoryAnswer id a) := by
  unfold State.memoryAnswer
  split
  · exact framed.refl _ _
  · rename_i e _
    refine framed.ite (framed.refl _ _) (framed.ite ((s.setInflight_framed _ _).andThen (State.drain_framed _)) ?_)
    exact (((settleParts_framed e.parts s).andThen (cs := [.emitted, .path, .slots, .keys, .fixtures]) (State.setInflight_framed _ _ _)).andThen
      (cs := [.emitted, .path, .slots, .keys, .fixtures]) (State.presentTogether_framed _ _)).andThen (State.drain_framed _)

/-- A part held on a slot takes the service that the end of the hold gives it (R20, R21). -/
def Part.endHold (r n : Nat) (h : Header) (v : Verdict) (p : Part) : Part :=
  if p.heldOn [(r, n)] then { p with serving := endServing h v } else p

/-- The end of a hold before its slate reads are presented: the verdict is latched and the held parts take their service (R20, R21). -/
def State.settleHold (r n : Nat) (h : Header) (v : Verdict) (s : State) : State :=
  { s.latch r n v with path := { s.path with
      inflight := s.path.inflight.map (fun e => { e with parts := e.parts.map (Part.endHold r n h v) }) } }

/-- The slate reads that the end of a hold issues (R20, R21). -/
def State.endReads (s : State) (r n : Nat) : Verdict → List Emission
  | .slate k => s.heldSlateReads [(r, n)] k
  | _ => []

theorem State.finishHold_eq (s : State) (r n : Nat) (h : Header) (v : Verdict) :
    s.finishHold r n h v = (s.settleHold r n h v).presentTogether (s.endReads r n v) := by
  cases v <;> rfl

theorem State.settleHold_framed (s : State) (r n : Nat) (h : Header) (v : Verdict) : framed [.path, .slots] s (s.settleHold r n h v) := by
  intro b hb; cases b <;> first | rfl | simp at hb

theorem State.finishHold_framed (s : State) (r n : Nat) (h : Header) (v : Verdict) :
    framed [.emitted, .path, .slots] s (s.finishHold r n h v) := by
  rw [State.finishHold_eq]
  exact (s.settleHold_framed r n h v).andThen (State.presentTogether_framed _ _)

theorem State.endHoldByFill_framed (s : State) (svc : Service) (odd : Bool) (n : Period) (r m : Nat) (h : Header) (o : Origin) :
    framed [.emitted, .path, .slots, .keys, .fixtures] s (s.endHoldByFill svc odd n r m h o) := by
  unfold State.endHoldByFill
  split
  · exact ((s.updateKey_framed _ _).andThen (cs := [.keys, .fixtures]) (State.applyOrigin_framed _ _ _)).andThen (State.finishHold_framed _ _ _ _ _)
  · exact (s.finishHold_framed _ _ _ _).into

theorem fillHolds_framed (svc : Service) (odd : Bool) (n : Period) (rs : List Slot) :
    ∀ s : State, framed [.emitted, .path, .slots, .keys, .fixtures] s (fillHolds svc odd n rs s) := by
  induction rs with
  | nil => exact framed.refl _
  | cons r rs ih =>
    intro s
    unfold fillHolds
    split
    · exact framed.ite ((s.endHoldByFill_framed _ _ _ _ _ _ _).trans (ih _)) (ih s)
    · exact ih s

theorem State.expireHold_framed (s : State) (r n : Nat) : framed [.emitted, .path, .slots] s (s.expireHold r n) := by
  unfold State.expireHold
  split
  · exact (s.finishHold_framed _ _ _ _).andThen (State.drain_framed _)
  · exact framed.refl _ _

theorem State.completeKey_framed (s : State) (cell : List Byte) :
    framed [.emitted, .path, .slots, .keys, .fixtures] s (State.completeKey cell s) := by
  unfold State.completeKey
  refine framed.ite ?_ (framed.refl _ _)
  split
  · exact (s.updateKey_framed _ _).andThen (fillHolds_framed _ _ _ _ _)
  · exact (s.updateKey_framed _ _).into

/-! ### Completions and grants -/

/-- The completion of a head cell changes what its effect changes, and the engine. -/
theorem State.complete_framed {bs : List Block} (s : State) (k : CtrlKind) {effect : List Byte → State → State}
    (he : ∀ cell s, framed bs s (effect cell s)) : framed (.engine :: bs) s (s.complete k effect) := by
  unfold State.complete
  split
  · exact ((he _ s).into (fun b hb => List.mem_cons_of_mem _ hb)).trans ((State.popCell_framed _).into (by simp))
  · exact framed.refl _ _

theorem State.advanceSeq_framed (s : State) (cell : List Byte) : framed [.purse] s (s.advanceSeq cell) :=
  framed.ite (framed.refl _ _) (s.setPurse_framed _)

/-- The completion of a grant changes what its owner changes, the last grant sequence of the purse, and the engine. -/
theorem State.completeGrant_framed {bs : List Block} (s : State) (is : List Byte → Bool) {owner : List Byte → State → State}
    (ho : ∀ cell s, framed bs s (owner cell s)) : framed (.engine :: .purse :: bs) s (s.completeGrant is owner) := by
  unfold State.completeGrant
  split
  · refine framed.ite ?_ ((State.popCell_framed _).into (by simp))
    exact (((s.advanceSeq_framed _).into (by simp)).trans ((ho _ _).into (fun b hb => by simp [hb]))).trans ((State.popCell_framed _).into (by simp))
  · exact framed.refl _ _

/-! ### Orders and reports -/

theorem State.withOrders_framed (s : State) (o : OrderUnit) : framed [.orders] s { s with orders := o } := by
  intro b hb; cases b <;> first | rfl | simp at hb

theorem State.wake_framed (s : State) : framed [.orders] s s.wake := framed_of_changesOnly s.wake_frame

theorem State.setOrderProducer_framed (s : State) (v : BitVec 32) : framed [.orders, .conds] s (s.setOrderProducer v) := by
  unfold State.setOrderProducer
  split
  · exact framed.ite (s.book_framed _ _).into
      (framed.ite (s.withOrders_framed _).into ((s.withOrders_framed _).andThen (State.wake_framed _)))
  · exact framed.refl _ _

theorem State.setReportConsumer_framed (s : State) (v : BitVec 32) : framed [.reports, .conds] s (s.setReportConsumer v) := by
  unfold State.setReportConsumer
  split
  · refine framed.ite (s.book_framed _ _).into ?_
    intro b hb; cases b <;> first | rfl | simp at hb
  · exact framed.refl _ _

theorem State.fetchOrder_framed (s : State) : framed [.orders, .emitted, .path] s s.fetchOrder := by
  unfold State.fetchOrder
  refine s.wake_framed.andThen (bs := [.orders, .emitted, .path]) ?_
  simp only []
  split
  · refine framed.ite ?_ (framed.refl _ _)
    exact (State.withOrders_framed _ _).andThen (State.present_framed _ _)
  · exact framed.refl _ _

theorem State.fetchAnswer_framed (s : State) (a : Answer) : framed [.orders, .emitted, .path] s (s.fetchAnswer a) := by
  unfold State.fetchAnswer
  split
  · exact (s.withOrders_framed _).andThen (State.present_framed _ _)
  · exact framed.refl _ _

theorem State.fetchReturned_framed (s : State) (a : Answer) : framed [.orders, .emitted, .path] s (s.fetchReturned a) := by
  unfold State.fetchReturned
  split
  · exact s.popOwn_framed.andThen (State.fetchAnswer_framed _ _)
  · exact framed.refl _ _

/-- Taking an order changes what its answer changes, and the order unit. -/
theorem State.takeOrder_framed {bs : List Block} (s : State) (is : Answer → Bool) (need : Nat) {f : Nat → Answer → State → List Report × State}
    (hf : ∀ slot a s, framed bs s (f slot a s).2) : framed (.orders :: bs) s (s.takeOrder is need f) := by
  unfold State.takeOrder
  split
  · rename_i slot a _
    refine framed.ite ?_ (framed.refl _ _)
    exact ((hf slot a s).into (fun b hb => List.mem_cons_of_mem _ hb)).trans ((State.withOrders_framed _ _).into (by simp))
  · exact framed.refl _ _

theorem State.buyFixture_framed (s : State) (t : Tag) (price : Nat) : framed [.purse, .log, .fixtures, .conds] s (s.buyFixture t price) :=
  (((s.setPurse_framed _).andThen (cs := [.purse, .log]) (State.addEntry_framed _ _ _ _)).andThen (cs := [.purse, .log, .fixtures])
    (State.updateFixture_framed _ _ _)).andThen (State.bookNearlyFull_framed _)

theorem State.buyPass_framed (s : State) (id : PassId) (price : Nat) :
    framed [.purse, .log, .passes, .fixtures, .conds] s (s.buyPass id price) :=
  ((((s.setPurse_framed _).andThen (cs := [.purse, .log]) (State.addEntry_framed _ _ _ _)).andThen (cs := [.purse, .log, .passes])
    (State.updatePass_framed _ _ _)).andThen (cs := [.purse, .log, .passes, .fixtures, .conds]) (State.propagate_framed _ _ _)).andThen
      (State.bookNearlyFull_framed _)

theorem State.cancelFixture_framed (s : State) (t : Tag) : framed [.purse, .log, .fixtures, .conds] s (s.cancelFixture t) :=
  ((s.refund_framed .viewer t _).andThen (cs := [.purse, .log, .fixtures]) (State.updateFixture_framed _ _ _)).andThen (State.bookNearlyFull_framed _)

theorem State.answerBuyFixture_framed (slot : Nat) (a : Answer) (s : State) :
    framed [.purse, .log, .fixtures, .conds] s (s.answerBuyFixture slot a).2 := by
  unfold State.answerBuyFixture
  simp only []
  split
  · exact s.buyFixture_framed _ _
  · exact framed.refl _ _

theorem State.answerBuyPass_framed (slot : Nat) (a : Answer) (s : State) :
    framed [.purse, .log, .passes, .fixtures, .conds] s (s.answerBuyPass slot a).2 := by
  unfold State.answerBuyPass
  simp only []
  split
  · exact s.buyPass_framed _ _
  · exact framed.refl _ _

theorem State.answerCancel_framed (slot : Nat) (a : Answer) (s : State) : framed [.purse, .log, .fixtures, .conds] s (s.answerCancel slot a).2 := by
  unfold State.answerCancel
  simp only []
  split
  · exact s.cancelFixture_framed _
  · exact framed.refl _ _

theorem State.answerBadOrder_state (slot : Nat) (a : Answer) (s : State) : (s.answerBadOrder slot a).2 = s := by
  unfold State.answerBadOrder
  split <;> rfl

theorem State.writeReport_framed (s : State) (r : Report) : framed [.emitted, .path, .reports] s (s.writeReport r) :=
  framed_of_changesOnly (s.writeReport_frame r)

theorem State.writePlaced_framed (s : State) : framed [.emitted, .path, .reports] s s.writePlaced := by
  unfold State.writePlaced
  split
  · rename_i p _
    refine framed.ite ((s.writeReport_framed (.placed p)).trans ?_) (framed.refl _ _)
    intro b hb; cases b <;> first | rfl | simp at hb
  · exact framed.refl _ _

theorem State.writeReply_framed (s : State) : framed [.emitted, .path, .reports, .orders] s s.writeReply := by
  unfold State.writeReply
  split
  · refine framed.ite ?_ (framed.refl _ _)
    simp only []
    split
    · exact ((s.writeReport_framed _).andThen (cs := [.emitted, .path, .reports, .orders]) (State.withOrders_framed _ _)).andThen (State.wake_framed _)
    · exact (s.writeReport_framed _).andThen (State.withOrders_framed _ _)
  · exact framed.refl _ _

theorem State.writeCondition_framed (s : State) : framed [.emitted, .path, .reports, .conds] s s.writeCondition := by
  unfold State.writeCondition
  split
  · exact framed.ite ((s.writeReport_framed _).andThen (State.unbook_framed _ _)) (framed.refl _ _)
  · exact framed.refl _ _

/-! ### Placement -/

theorem State.armWatch_framed (s : State) (r : Request) : framed [.placement, .emitted, .path] s (s.armWatch r) :=
  framed_of_changesOnly (s.armWatch_frame r)

theorem State.setPlacement_framed (s : State) (p : Placement) : framed [.placement] s { s with placement := p } := by
  intro b hb; cases b <;> first | rfl | simp at hb

theorem State.failPlacement_framed (s : State) (a : Addr) (c : PlacementResult) (i : Nat) :
    framed [.placement, .emitted, .path] s (s.failPlacement a c i) :=
  (s.setPlacement_framed _).andThen (State.present_framed _ _)

theorem State.completePlacement_framed (s : State) (a : Addr) (rs : List Region) :
    framed [.placement, .emitted, .path, .slots, .orders, .reports] s (s.completePlacement a rs) := by
  intro b hb; cases b <;> first | rfl | simp at hb

theorem State.headAnswer_framed (s : State) (a : Addr) (ans : Answer) : framed [.placement, .emitted, .path] s (s.headAnswer a ans) :=
  framed.ite (s.failPlacement_framed _ _ _) (framed.ite (s.failPlacement_framed _ _ _) (framed.ite (s.failPlacement_framed _ _ _)
    ((s.setPlacement_framed _).andThen (State.present_framed _ _))))

theorem State.descriptorAnswer_framed (s : State) (a : Addr) (head got : List Byte) (len : Nat) (ans : Answer) :
    framed [.placement, .emitted, .path, .slots, .orders, .reports] s (s.descriptorAnswer a head got len ans) := by
  unfold State.descriptorAnswer
  refine framed.ite (s.failPlacement_framed _ _ _).into (framed.ite ((s.setPlacement_framed _).andThen (State.present_framed _ _)) ?_)
  split
  · exact (s.failPlacement_framed _ _ _).into
  · exact s.completePlacement_framed _ _

theorem State.headReturned_framed (s : State) (a : Answer) : framed [.placement, .emitted, .path] s (s.headReturned a) := by
  unfold State.headReturned
  split
  · exact s.popOwn_framed.andThen (State.headAnswer_framed _ _ _)
  · exact framed.refl _ _

theorem State.descriptorsReturned_framed (s : State) (a : Answer) :
    framed [.placement, .emitted, .path, .slots, .orders, .reports] s (s.descriptorsReturned a) := by
  unfold State.descriptorsReturned
  split
  · exact s.popOwn_framed.andThen (State.descriptorAnswer_framed _ _ _ _ _ _)
  · exact framed.refl _ _

/-! ### The memory path -/

theorem State.bookShield_framed (s : State) (c : Cls) (lost : List Nat) : framed [.conds] s (s.bookShield c lost) := by
  unfold State.bookShield
  split
  · split
    · exact s.book_framed _ _
    · exact framed.refl _ _
  · exact framed.refl _ _

theorem State.noticeOrder_framed (s : State) (w : WriteReq) (kept : List Bool) : framed [.orders, .conds] s (s.noticeOrder w kept) := by
  unfold State.noticeOrder
  split
  · split
    · exact s.setOrderProducer_framed _
    · exact framed.refl _ _
  · exact framed.refl _ _

theorem State.noticeReport_framed (s : State) (w : WriteReq) (kept : List Bool) : framed [.reports, .conds] s (s.noticeReport w kept) := by
  unfold State.noticeReport
  split
  · split
    · exact s.setReportConsumer_framed _
    · exact framed.refl _ _
  · exact framed.refl _ _

theorem State.notices_framed (s : State) (c : Cls) (w : WriteReq) (kept : List Bool) :
    framed [.orders, .reports, .conds] s (s.notices c w kept) :=
  framed.ite ((s.noticeOrder_framed w kept).andThen (State.noticeReport_framed _ w kept)) (framed.refl _ _)

theorem State.takeOn_framed (s : State) (c : Cls) (req : Request) (parts : List Part) (answer : Option Answer) :
    framed [.path] s (s.takeOn c req parts answer) := by
  intro b hb; cases b <;> first | rfl | simp at hb

theorem State.takeRead_framed (s : State) (c : Cls) (r : ReadReq) : framed [.path, .emitted] s (s.takeRead c r) :=
  (s.takeOn_framed _ _ _ _).andThen (State.presentTogether_framed _ _)

theorem State.trackWrite_framed (s : State) (touched : List (Nat × Nat)) (whole : Option (Nat × Nat)) (cell : List Byte) :
    framed [.slots, .path] s (s.trackWrite touched whole cell) := by
  intro b hb; cases b <;> first | rfl | simp at hb

theorem State.handOverWrite_framed (s : State) (whole : Option (Nat × Nat)) (cell : List Byte) :
    framed [.engine, .keys, .conds] s (s.handOverWrite whole cell) :=
  framed.ite (s.handOver_framed cell) (framed.refl _ _)

theorem State.takeWrite_framed (s : State) (c : Cls) (w : WriteReq) :
    framed [.path, .emitted, .slots, .engine, .keys, .conds, .orders, .reports] s (s.takeWrite c w) := by
  unfold State.takeWrite
  refine framed.andThen (as := [.path, .slots, .engine, .keys, .conds, .orders, .reports]) ?_ (State.presentTogether_framed _ _)
  refine framed.andThen (as := [.path, .slots, .engine, .keys, .conds, .orders, .reports]) ?_ (State.takeOn_framed _ _ _ _ _)
  refine framed.andThen (as := [.path, .slots, .engine, .keys, .conds, .orders, .reports]) ?_ (State.bookShield_framed _ _ _)
  exact ((s.trackWrite_framed _ _ _).andThen (cs := [.path, .slots, .engine, .keys, .conds]) (State.handOverWrite_framed _ _ _)).andThen
    (State.notices_framed _ _ _ _)

theorem State.showPlacement_framed (s : State) (c : Cls) (r : Request) : framed [.placement, .emitted, .path] s (s.showPlacement c r) :=
  framed.ite (s.armWatch_framed r) (framed.refl _ _)

theorem State.takeRequest_framed (s : State) (r : Request) :
    framed [.path, .emitted, .slots, .engine, .keys, .conds, .orders, .reports, .placement] s (s.takeRequest r) := by
  unfold State.takeRequest
  refine framed.ite (framed.refl _ _) ?_
  refine framed.andThen (as := [.path, .emitted, .slots, .engine, .keys, .conds, .orders, .reports, .placement]) ?_ (State.drain_framed _)
  refine framed.andThen (as := [.path, .emitted, .slots, .engine, .keys, .conds, .orders, .reports]) ?_ (State.showPlacement_framed _ _ _)
  cases r with
  | read q => exact (s.takeRead_framed _ q).into
  | write w => exact s.takeWrite_framed _ w

theorem State.slateAnswer_framed (s : State) (a : Answer) : framed [.path, .emitted] s (s.slateAnswer a) := by
  unfold State.slateAnswer
  split
  · exact (s.popOwn_framed.andThen (cs := [.path]) (State.setInflight_framed _ _ _)).andThen (State.drain_framed _)
  · exact framed.refl _ _

theorem State.writeAcked_framed (s : State) : framed [.path] s s.writeAcked := by
  unfold State.writeAcked
  split
  · exact s.popOwn_framed
  · exact framed.refl _ _

/-! ### The retention store -/

theorem State.bookIfLost_framed {α : Type} (s : State) (j : Judged α) (x : SectionSet) : framed [.conds] s (s.bookIfLost j x) :=
  framed.ite (s.book_framed _ _) (framed.refl _ _)

theorem State.joinRefunds_framed (s : State) (t : Tag) : framed [.refunds] s (s.joinRefunds t) :=
  framed.ite (framed.refl _ _) (s.setRefunds_framed _)

theorem State.restoreRecord_framed (s : State) (r : FixtureRec) :
    framed [.purse, .log, .fixtures, .refunds, .conds] s (s.restoreRecord r) := by
  unfold State.restoreRecord
  split
  · unfold State.restoreQueued
    split
    · exact (s.updateFixture_framed _ _).andThen (State.joinRefunds_framed _ _)
    · split
      · exact (State.createFixture_framed ‹_›).andThen (State.joinRefunds_framed _ _)
      · exact (s.book_framed _ _).into
  · unfold State.restoreFixture
    split
    · exact framed.ite ((s.updateFixture_framed _ _).andThen (State.cancelEffect_framed _ _)) (s.updateFixture_framed _ _).into
    · split
      · exact (State.createFixture_framed ‹_›).into
      · exact (s.book_framed _ _).into

theorem State.restorePass_framed (s : State) (r : PassRec) : framed [.passes, .fixtures, .conds] s (s.restorePass r) := by
  unfold State.restorePass
  simp only []
  split
  · exact framed.ite (s.updatePass_framed _ _).into ((s.updatePass_framed _ _).andThen (State.propagate_framed _ _ _))
  · split
    · exact framed.ite (State.createPass_framed ‹_›).into ((State.createPass_framed ‹_›).andThen (State.propagate_framed _ _ _))
    · exact (s.book_framed _ _).into

theorem State.restoreRecords_framed (s : State) (f : S2Fields) :
    framed [.purse, .log, .fixtures, .refunds, .passes, .conds] s (s.restoreRecords f) :=
  (framed_foldl (fun s r => s.restoreRecord_framed r) f.fixtures s).andThen (framed_foldl (fun s r => s.restorePass_framed r) f.passes _)

theorem State.serveRestored_framed (s : State) : framed [.purse, .log, .fixtures, .refunds, .conds] s s.serveRestored := by
  have hserve : framed [.purse, .log, .fixtures, .refunds, .conds] s (s.serveRefunds.settleQueue s.refunds) :=
    (serveFrom_framed s.refunds s).andThen (State.settleQueue_framed _ _)
  exact framed.ite (hserve.andThen (State.book_framed _ _ _)) hserve

theorem State.takeCredit_framed (s : State) (c : RestoredCredit) : framed [.purse, .log] s (s.takeCredit c) := by
  intro b hb; cases b <;> first | rfl | simp at hb

theorem State.settleS2_framed (s : State) (b : Bool) (j : Judged S2Fields) : framed [] s (s.settleS2 b j) := by
  intro b _; cases b <;> rfl

theorem State.setStore_framed (s : State) (st : RetentionState) : framed [.store] s (s.setStore st) := by
  intro b hb; cases b <;> first | rfl | simp at hb

theorem State.handPlaced_framed (s : State) : framed [.placement, .reports] s s.handPlaced := framed_of_changesOnly s.handPlaced_frame

/-- What the end of the restore does before the retention unit leaves RESTORING: purse, log and tables take what the sections hold (R174, R175). -/
def State.restoredTables (j0 : Judged S0Fields) (j1 : Judged (List LogEntry)) (j2 : Judged S2Fields) (s : State) : State :=
  let c := restoredCredit j0 j1
  let s1 := s.takeCredit c
  let s2 := if c.reconciled then s1.bookLost (only .s1) else s1
  State.settleS2 s.store.dirty.s2 j2 (s2.restoreRecords (recordsOf j2)).serveRestored

theorem State.endRestore_eq (j0 : Judged S0Fields) (j1 : Judged (List LogEntry)) (j2 : Judged S2Fields) (st : RetentionState) (s : State) :
    s.endRestore j0 j1 j2 st = ((s.restoredTables j0 j1 j2).setStore st).handPlaced.wake := rfl

theorem State.restoredTables_framed (j0 : Judged S0Fields) (j1 : Judged (List LogEntry)) (j2 : Judged S2Fields) (s : State) :
    framed [.purse, .log, .fixtures, .refunds, .passes, .conds] s (s.restoredTables j0 j1 j2) := by
  have hcredit : framed [.purse, .log, .conds] s
      (if (restoredCredit j0 j1).reconciled then (s.takeCredit (restoredCredit j0 j1)).bookLost (only .s1) else s.takeCredit (restoredCredit j0 j1)) :=
    framed.ite ((s.takeCredit_framed _).andThen (State.book_framed _ _ _)) (s.takeCredit_framed _).into
  exact ((hcredit.andThen (cs := [.purse, .log, .fixtures, .refunds, .passes, .conds]) (State.restoreRecords_framed _ _)).andThen
    (cs := [.purse, .log, .fixtures, .refunds, .passes, .conds]) (State.serveRestored_framed _)).andThen (State.settleS2_framed _ _ _)

theorem State.endRestore_framed (j0 : Judged S0Fields) (j1 : Judged (List LogEntry)) (j2 : Judged S2Fields) (st : RetentionState) (s : State) :
    framed [.purse, .log, .fixtures, .refunds, .passes, .conds, .store, .placement, .reports, .orders] s (s.endRestore j0 j1 j2 st) := by
  rw [State.endRestore_eq]
  exact (((s.restoredTables_framed j0 j1 j2).andThen (cs := [.purse, .log, .fixtures, .refunds, .passes, .conds, .store]) (State.setStore_framed _ st)).andThen
    (cs := [.purse, .log, .fixtures, .refunds, .passes, .conds, .store, .placement, .reports]) (State.handPlaced_framed _)).andThen (State.wake_framed _)

/-- The end of the restore leaves the retention unit in the state given. -/
theorem State.endRestore_storeSt (j0 : Judged S0Fields) (j1 : Judged (List LogEntry)) (j2 : Judged S2Fields) (st : RetentionState) (s : State) :
    (s.endRestore j0 j1 j2 st).store.st = st := by
  rw [State.endRestore_eq]
  exact (((State.handPlaced_framed _).andThen (cs := [.placement, .reports, .orders]) (State.wake_framed _)).storeSt).trans rfl

theorem State.bus_framed (s : State) (t : BusTransaction) : framed [.emitted] s (s.bus t) := by
  intro b hb; cases b <;> first | rfl | simp at hb

/-- The blocks that the end of the restore, and a section read, may change. -/
def restoreBlocks : List Block := [.purse, .log, .fixtures, .refunds, .passes, .conds, .store, .placement, .reports, .orders, .emitted]

/-- A section judged, and the read of the next one. -/
theorem State.judged_framed {α : Type} (s : State) (j : Judged α) (x : SectionSet) (st : RetentionState) (t : BusTransaction) :
    framed [.conds, .store, .emitted] s (State.bus t ((s.bookIfLost j x).setStore st)) :=
  ((s.bookIfLost_framed j x).andThen (cs := [.conds, .store]) (State.setStore_framed _ st)).andThen (State.bus_framed _ t)

theorem State.sectionRead_framed (s : State) (r : SectionRead) : framed restoreBlocks s (s.sectionRead r) := by
  unfold State.sectionRead
  refine framed.ite (framed.refl _ _) ?_
  split
  · exact (s.judged_framed _ _ _ _).into
  · exact (s.judged_framed _ _ _ _).into
  · exact (s.bookIfLost_framed _ _).andThen (State.endRestore_framed _ _ _ _ _)
  · exact framed.refl _ _

theorem State.startPass_framed (s : State) : framed [.store, .emitted] s s.startPass := by
  rcases startPass_cases s with ⟨_, h⟩ | ⟨_, _, _, h⟩ <;> rw [h]
  · exact (s.setStore_framed _).into
  · intro b hb; cases b <;> first | rfl | simp at hb

theorem State.pollAcknowledged_framed (s : State) (p : Bool) : framed [.emitted] s (s.pollAcknowledged p) :=
  framed.ite (framed.refl _ _) (s.bus_framed _)

theorem State.pageDone_framed (s : State) : framed [.store, .emitted] s s.pageDone := by
  unfold State.pageDone
  refine framed.ite (framed.refl _ _) ?_
  split
  · refine framed.ite ?_ ?_
    · exact ((s.pollAcknowledged_framed _).andThen (cs := [.store, .emitted]) (State.setStore_framed _ _)).andThen (State.bus_framed _ _)
    · split
      · exact ((s.pollAcknowledged_framed _).andThen (cs := [.store, .emitted]) (State.setStore_framed _ _)).andThen (State.bus_framed _ _)
      · exact (s.pollAcknowledged_framed _).andThen (State.startPass_framed _)
  · exact framed.refl _ _

/-- The retention unit is replaced. -/
theorem State.withStore_framed (s : State) (r : Retention) : framed [.store] s { s with store := r } := by
  intro b hb; cases b <;> first | rfl | simp at hb

theorem State.loseBus_framed (s : State) : framed [.store] s s.loseBus := framed.ite (s.withStore_framed _) (framed.refl _ _)

theorem State.reissue_framed (s : State) : framed [.store, .emitted] s s.reissue := by
  unfold State.reissue
  split
  · exact (s.withStore_framed _).andThen (State.bus_framed _ _)
  · exact framed.refl _ _

theorem State.failRestore_framed (s : State) (j0 : Option (Judged S0Fields)) (j1 : Option (Judged (List LogEntry))) :
    framed restoreBlocks s (s.failRestore j0 j1) := by
  have hmaybe : ∀ (u : State) (b : Bool) (x : SectionSet), framed [.conds] u (if b then u.bookLost x else u) :=
    fun u _ x => framed.ite (u.book_framed _ _) (framed.refl _ _)
  exact (((hmaybe s _ _).andThen (cs := [.conds]) (hmaybe _ _ _)).andThen (cs := [.conds]) (State.book_framed _ _ _)).andThen
    (State.endRestore_framed _ _ _ _ _)

theorem State.storeFails_framed (s : State) (why : NoAck) : framed restoreBlocks s (s.storeFails why) := by
  unfold State.storeFails
  refine framed.ite ?_ (framed.refl _ _)
  split
  · exact ((s.withStore_framed _).andThen (cs := restoreBlocks) (State.failRestore_framed _ _ _)).andThen (State.book_framed _ _ _)
  · exact (s.withStore_framed _).andThen (State.book_framed _ _ _)
  · exact framed.refl _ _

/-! ### The frame of every command -/

/-- The blocks that a command may change, dirty marks apart. -/
def footprint : Instr → List Block
  | .powerOnReset => [.emitted, .path, .slots, .keys, .engine, .clock, .fixtures, .refunds, .passes, .purse, .log, .placement, .orders, .reports, .conds, .store]
  | .linkReset => [.path, .slots, .keys, .engine, .fixtures, .placement, .orders, .reports, .conds]
  | .upstreamRead _ | .upstreamWrite _ | .wholeCellWrite _ | .cellBreak _ | .gatedRead _ | .armingWrite _ | .orderProducerWrite _
  | .reportConsumerWrite _ => [.path, .emitted, .slots, .engine, .keys, .conds, .orders, .reports, .placement]
  | .gatedReadAnswer _ _ | .forwardedAnswer _ _ => [.emitted, .path, .slots, .keys, .fixtures]
  | .slateReadAnswer _ => [.path, .emitted]
  | .ownWriteAck _ => [.path]
  | .holdTimerExpiry _ _ => [.emitted, .path, .slots]
  | .unwrapCompletion => [.engine, .emitted, .path, .slots, .keys, .fixtures]
  | .announcement => [.engine, .purse, .log, .fixtures, .refunds, .conds]
  | .passCellCompletion => [.engine, .passes, .fixtures, .conds]
  | .timeCellAdoption => [.engine, .clock, .fixtures, .conds]
  | .groupSet | .zoneSet | .purseTopup | .limitsSet => [.engine, .purse]
  | .entitleFixture | .revokeFixture => [.engine, .purse, .fixtures, .conds]
  | .entitlePass | .revokePass => [.engine, .purse, .passes, .fixtures, .conds]
  | .logAck => [.engine, .purse, .log, .fixtures, .refunds, .conds]
  | .nightReset => [.engine, .purse, .fixtures, .passes]
  | .secondEvent => [.clock, .fixtures]
  | .placementHeadReadAnswer _ => [.placement, .emitted, .path]
  | .placementDescriptorReadAnswer _ => [.placement, .emitted, .path, .slots, .orders, .reports]
  | .orderFetch | .orderFetchAnswer _ => [.orders, .emitted, .path]
  | .buyFixture | .cancel => [.orders, .purse, .log, .fixtures, .conds]
  | .buyPass => [.orders, .purse, .log, .passes, .fixtures, .conds]
  | .quote | .quotePass | .purse | .logRead | .fixtureList | .badOrder => [.orders]
  | .placedReportWrite => [.emitted, .path, .reports]
  | .replyRecordWrite => [.emitted, .path, .reports, .orders]
  | .conditionWrite => [.emitted, .path, .reports, .conds]
  | .eepromSectionRead _ | .eepromNoAcknowledge _ => restoreBlocks
  | .writePassStart | .pageWriteComplete | .transactionReissue => [.store, .emitted]
  | .busArbitrationLoss => [.store]

/-- No command changes a block outside its footprint, dirty marks apart. -/
theorem after_framed (c : Instr) (s : State) : framed (footprint c) s (after c s) := by
  cases c with
  | powerOnReset => intro b hb; cases b <;> first | rfl | simp [footprint] at hb
  | linkReset => intro b hb; cases b <;> first | rfl | simp [footprint] at hb
  | upstreamRead | upstreamWrite | wholeCellWrite | cellBreak | gatedRead | armingWrite | orderProducerWrite | reportConsumerWrite =>
    exact s.takeRequest_framed _
  | gatedReadAnswer id a | forwardedAnswer id a => exact s.memoryAnswer_framed id a
  | slateReadAnswer a => exact s.slateAnswer_framed a
  | ownWriteAck => exact s.writeAcked_framed
  | holdTimerExpiry r n => exact s.expireHold_framed r n
  | unwrapCompletion => exact (s.complete_framed .key (fun cell s => s.completeKey_framed cell)).andThen (State.drain_framed _)
  | announcement => exact s.complete_framed .fixture (fun cell s => s.applyAnnouncement_framed cell)
  | passCellCompletion => exact s.complete_framed .pass (fun cell s => s.applyPassCell_framed cell)
  | timeCellAdoption => exact s.complete_framed .time (fun cell s => s.adoptTime_framed _)
  | groupSet | zoneSet | purseTopup | limitsSet => exact (s.completeGrant_framed _ (fun cell s => s.setPurse_framed _)).into
  | entitleFixture => exact s.completeGrant_framed _ (fun cell s => s.entitleFixture_framed _)
  | entitlePass => exact s.completeGrant_framed _ (fun cell s => s.entitlePass_framed _)
  | revokeFixture => exact s.completeGrant_framed _ (fun cell s => s.revokeFixture_framed _)
  | revokePass => exact s.completeGrant_framed _ (fun cell s => s.revokePass_framed _)
  | logAck => exact (s.completeGrant_framed _ (fun cell s => s.acknowledge_framed _)).into
  | nightReset => exact (s.completeGrant_framed _ (fun cell s => s.nightReset_framed)).into
  | secondEvent => exact s.secondEvent_framed
  | placementHeadReadAnswer a => exact s.headReturned_framed a
  | placementDescriptorReadAnswer a => exact s.descriptorsReturned_framed a
  | orderFetch => exact s.fetchOrder_framed
  | orderFetchAnswer a => exact s.fetchReturned_framed a
  | buyFixture => exact s.takeOrder_framed _ _ (fun slot a s => s.answerBuyFixture_framed slot a)
  | buyPass => exact s.takeOrder_framed _ _ (fun slot a s => s.answerBuyPass_framed slot a)
  | cancel => exact s.takeOrder_framed _ _ (fun slot a s => s.answerCancel_framed slot a)
  | quote | quotePass | purse | logRead | fixtureList => exact s.takeOrder_framed _ _ (fun _ _ s => framed.refl [] s)
  | badOrder => exact s.takeOrder_framed _ _ (fun slot a s => (s.answerBadOrder_state slot a).symm ▸ framed.refl [] s)
  | placedReportWrite => exact s.writePlaced_framed
  | replyRecordWrite => exact s.writeReply_framed
  | conditionWrite => exact s.writeCondition_framed
  | eepromSectionRead r => exact s.sectionRead_framed r
  | writePassStart => exact framed.ite s.startPass_framed (framed.refl _ _)
  | pageWriteComplete => exact s.pageDone_framed
  | busArbitrationLoss => exact s.loseBus_framed
  | eepromNoAcknowledge why => exact s.storeFails_framed why
  | transactionReissue => exact s.reissue_framed

/-- A clock cycle changes clock, fixtures and retention unit alone, and the record of the pins. -/
theorem State.cycle_framed (s : State) : framed [.store, .emitted, .clock, .fixtures] s s.busCycle.tick :=
  s.busCycle_framed.andThen (State.tick_framed _)

end Sys2Proof.Machine

/-! Proofs: the record of the pins, the clock cycle and the two resets. -/

namespace Sys2Proof.Machine

open Sys2Proof.Safety

set_option Elab.async false

/-! ### The record of the pins is never taken back -/

theorem emitted_prefix_of_framed {bs : List Block} {s t : State} (h : framed bs s t) (hb : .emitted ∉ bs := by decide) :
    s.emitted <+: t.emitted := by
  exact h.emitted hb ▸ List.prefix_refl s.emitted

theorem State.present_prefix (s : State) (es : List Emission) : s.emitted <+: (s.present es).emitted := List.prefix_append _ _

theorem State.presentTogether_prefix (s : State) (es : List Emission) : s.emitted <+: (s.presentTogether es).emitted := by
  obtain ⟨issued, -, h, -⟩ := s.presentTogether_spec es
  exact h ▸ List.prefix_append _ _

theorem State.drain_prefix (s : State) : s.emitted <+: s.drain.emitted := List.prefix_append _ _

/-- An update that leaves the record, and then one that lets it grow. -/
theorem emitted_prefix_after {bs : List Block} {s u t : State} (h : framed bs s u) (h' : u.emitted <+: t.emitted)
    (hb : .emitted ∉ bs := by decide) : s.emitted <+: t.emitted :=
  (emitted_prefix_of_framed h hb).trans h'

theorem State.bus_prefix (s : State) (t : BusTransaction) : s.emitted <+: (s.bus t).emitted := List.prefix_append _ _

theorem State.memoryAnswer_prefix (s : State) (id : Nat) (a : Answer) : s.emitted <+: (s.memoryAnswer id a).emitted := by
  unfold State.memoryAnswer
  split
  · exact List.prefix_refl _
  · rename_i e _
    split
    · exact List.prefix_refl _
    · split
      · exact emitted_prefix_after (s.setInflight_framed _ _) (State.drain_prefix _)
      · exact emitted_prefix_after ((settleParts_framed e.parts s).andThen (cs := [.slots, .keys, .fixtures, .path]) (State.setInflight_framed _ _ _))
          ((State.presentTogether_prefix _ _).trans (State.drain_prefix _))

theorem State.finishHold_prefix (s : State) (r n : Nat) (h : Header) (v : Verdict) : s.emitted <+: (s.finishHold r n h v).emitted := by
  rw [State.finishHold_eq]
  exact emitted_prefix_after (s.settleHold_framed r n h v) (State.presentTogether_prefix _ _)

theorem State.endHoldByFill_prefix (s : State) (svc : Service) (odd : Bool) (n : Period) (r m : Nat) (h : Header) (o : Origin) :
    s.emitted <+: (s.endHoldByFill svc odd n r m h o).emitted := by
  unfold State.endHoldByFill
  split
  · exact (emitted_prefix_of_framed ((s.updateKey_framed _ _).andThen (cs := [.keys, .fixtures]) (State.applyOrigin_framed _ _ _))).trans
      (State.finishHold_prefix _ _ _ _ _)
  · exact s.finishHold_prefix _ _ _ _

theorem fillHolds_prefix (svc : Service) (odd : Bool) (n : Period) (rs : List Slot) :
    ∀ s : State, s.emitted <+: (fillHolds svc odd n rs s).emitted := by
  induction rs with
  | nil => exact fun s => List.prefix_refl _
  | cons r rs ih =>
    intro s
    unfold fillHolds
    split
    · split
      · exact (s.endHoldByFill_prefix _ _ _ _ _ _ _).trans (ih _)
      · exact ih s
    · exact ih s

theorem State.completeKey_prefix (s : State) (cell : List Byte) : s.emitted <+: (State.completeKey cell s).emitted := by
  unfold State.completeKey
  simp only []
  split
  · split
    · exact emitted_prefix_after (s.updateKey_framed _ _) (fillHolds_prefix _ _ _ _ _)
    · exact List.prefix_refl _
  · exact List.prefix_refl _

theorem State.expireHold_prefix (s : State) (r n : Nat) : s.emitted <+: (s.expireHold r n).emitted := by
  unfold State.expireHold
  split
  · exact (s.finishHold_prefix _ _ _ _).trans (State.drain_prefix _)
  · exact List.prefix_refl _

theorem State.fetchOrder_prefix (s : State) : s.emitted <+: s.fetchOrder.emitted := by
  unfold State.fetchOrder
  refine (emitted_prefix_of_framed s.wake_framed).trans ?_
  simp only []
  split
  · split
    · exact List.prefix_append _ _
    · exact List.prefix_refl _
  · exact List.prefix_refl _

theorem State.fetchReturned_prefix (s : State) (a : Answer) : s.emitted <+: (s.fetchReturned a).emitted := by
  unfold State.fetchReturned State.fetchAnswer
  split
  · split
    · exact List.prefix_append _ _
    · exact List.prefix_refl _
  · exact List.prefix_refl _

theorem State.writeReport_prefix (s : State) (r : Report) : s.emitted <+: (s.writeReport r).emitted := by
  unfold State.writeReport
  split
  · exact List.prefix_append _ _
  · exact List.prefix_refl _

theorem State.writePlaced_prefix (s : State) : s.emitted <+: s.writePlaced.emitted := by
  unfold State.writePlaced
  split
  · split
    · exact s.writeReport_prefix _
    · exact List.prefix_refl _
  · exact List.prefix_refl _

theorem State.writeReply_prefix (s : State) : s.emitted <+: s.writeReply.emitted := by
  unfold State.writeReply
  split
  · split
    · simp only []
      split
      · exact (s.writeReport_prefix _).trans
          (emitted_prefix_of_framed ((State.withOrders_framed _ _).andThen (cs := [.orders]) (State.wake_framed _)))
      · exact s.writeReport_prefix _
    · exact List.prefix_refl _
  · exact List.prefix_refl _

theorem State.writeCondition_prefix (s : State) : s.emitted <+: s.writeCondition.emitted := by
  unfold State.writeCondition
  split
  · split
    · exact s.writeReport_prefix _
    · exact List.prefix_refl _
  · exact List.prefix_refl _

theorem State.completeArming_prefix (s : State) (a : Addr) : s.emitted <+: (s.completeArming a).emitted := by
  unfold State.completeArming
  simp only []
  split
  · exact List.prefix_append _ _
  · exact List.prefix_append _ _
  · exact List.prefix_refl _

theorem State.armWatch_prefix (s : State) (r : Request) : s.emitted <+: (s.armWatch r).emitted := by
  unfold State.armWatch
  split
  · exact List.prefix_refl _
  · split
    · exact List.prefix_refl _
    · split
      · split
        · split
          · split
            · exact s.completeArming_prefix _
            · exact List.prefix_refl _
          · exact List.prefix_refl _
        · exact List.prefix_refl _
      · exact List.prefix_refl _

theorem State.showPlacement_prefix (s : State) (c : Cls) (r : Request) : s.emitted <+: (s.showPlacement c r).emitted := by
  unfold State.showPlacement
  split
  · exact s.armWatch_prefix r
  · exact List.prefix_refl _

theorem State.takeWrite_prefix (s : State) (c : Cls) (w : WriteReq) : s.emitted <+: (s.takeWrite c w).emitted := by
  unfold State.takeWrite
  refine List.IsPrefix.trans ?_ (State.presentTogether_prefix _ _)
  refine List.IsPrefix.trans ?_ (emitted_prefix_of_framed (State.takeOn_framed _ _ _ _ _))
  refine List.IsPrefix.trans ?_ (emitted_prefix_of_framed (State.bookShield_framed _ _ _))
  refine List.IsPrefix.trans ?_ (emitted_prefix_of_framed (State.notices_framed _ _ _ _))
  exact (emitted_prefix_of_framed (s.trackWrite_framed _ _ _)).trans (emitted_prefix_of_framed (State.handOverWrite_framed _ _ _))

theorem State.takeRequest_prefix (s : State) (r : Request) : s.emitted <+: (s.takeRequest r).emitted := by
  unfold State.takeRequest
  simp only []
  split
  · exact List.prefix_refl _
  · refine List.IsPrefix.trans ?_ (State.drain_prefix _)
    refine List.IsPrefix.trans ?_ (State.showPlacement_prefix _ _ _)
    cases r with
    | read q => exact emitted_prefix_after (s.takeOn_framed _ _ _ _) (State.presentTogether_prefix _ _)
    | write w => exact s.takeWrite_prefix _ w

theorem State.slateAnswer_prefix (s : State) (a : Answer) : s.emitted <+: (s.slateAnswer a).emitted := by
  unfold State.slateAnswer
  split
  · exact emitted_prefix_after (s.popOwn_framed.andThen (cs := [.path]) (State.setInflight_framed _ _ _)) (State.drain_prefix _)
  · exact List.prefix_refl _

theorem State.headReturned_prefix (s : State) (a : Answer) : s.emitted <+: (s.headReturned a).emitted := by
  unfold State.headReturned
  split
  · unfold State.headAnswer
    simp only []
    repeat' split
    all_goals exact List.prefix_append _ _
  · exact List.prefix_refl _

theorem State.descriptorsReturned_prefix (s : State) (a : Answer) : s.emitted <+: (s.descriptorsReturned a).emitted := by
  unfold State.descriptorsReturned
  split
  · unfold State.descriptorAnswer
    simp only []
    split
    · exact List.prefix_append _ _
    split
    · exact List.prefix_append _ _
    · split
      · exact List.prefix_append _ _
      · exact List.prefix_append _ _
  · exact List.prefix_refl _

theorem State.endRestore_prefix (j0 : Judged S0Fields) (j1 : Judged (List LogEntry)) (j2 : Judged S2Fields) (st : RetentionState) (s : State) :
    s.emitted <+: (s.endRestore j0 j1 j2 st).emitted :=
  emitted_prefix_of_framed (s.endRestore_framed j0 j1 j2 st)

theorem State.sectionRead_prefix (s : State) (r : SectionRead) : s.emitted <+: (s.sectionRead r).emitted := by
  unfold State.sectionRead
  split
  · exact List.prefix_refl _
  · split
    · exact (emitted_prefix_of_framed (s.bookIfLost_framed _ _)).trans (State.bus_prefix _ _)
    · exact (emitted_prefix_of_framed (s.bookIfLost_framed _ _)).trans (State.bus_prefix _ _)
    · exact (emitted_prefix_of_framed (s.bookIfLost_framed _ _)).trans (State.endRestore_prefix _ _ _ _ _)
    · exact List.prefix_refl _

theorem State.startPass_prefix (s : State) : s.emitted <+: s.startPass.emitted := by
  rcases startPass_cases s with ⟨_, h⟩ | ⟨_, _, _, h⟩ <;> rw [h]
  · exact List.prefix_refl _
  · exact List.prefix_append _ _

theorem State.pollAcknowledged_prefix (s : State) (p : Bool) : s.emitted <+: (s.pollAcknowledged p).emitted := by
  cases p
  · exact s.bus_prefix _
  · exact List.prefix_refl _

theorem State.pageDone_prefix (s : State) : s.emitted <+: s.pageDone.emitted := by
  unfold State.pageDone
  split
  · exact List.prefix_refl _
  · split
    · rename_i polling _
      refine (s.pollAcknowledged_prefix polling).trans ?_
      simp only []
      split
      · exact List.prefix_append _ _
      · split
        · exact List.prefix_append _ _
        · exact State.startPass_prefix _
    · exact List.prefix_refl _

theorem State.failRestore_prefix (s : State) (j0 : Option (Judged S0Fields)) (j1 : Option (Judged (List LogEntry))) :
    s.emitted <+: (s.failRestore j0 j1).emitted := by
  have hmaybe : ∀ (u : State) (b : Bool) (x : SectionSet), framed [.conds] u (if b then u.bookLost x else u) :=
    fun u _ x => framed.ite (u.book_framed _ _) (framed.refl _ _)
  exact emitted_prefix_after (((hmaybe s _ _).andThen (cs := [.conds]) (hmaybe _ _ _)).andThen (cs := [.conds]) (State.book_framed _ _ _))
    (State.endRestore_prefix _ _ _ _ _)

theorem State.storeFails_prefix (s : State) (why : NoAck) : s.emitted <+: (s.storeFails why).emitted := by
  unfold State.storeFails
  split
  · split
    · exact emitted_prefix_after (s.withStore_framed _) ((State.failRestore_prefix _ _ _).trans (emitted_prefix_of_framed (State.book_framed _ _ _)))
    · exact emitted_prefix_of_framed ((s.withStore_framed _).andThen (cs := [.store, .conds]) (State.book_framed _ _ _))
    · exact List.prefix_refl _
  · exact List.prefix_refl _

theorem State.reissue_prefix (s : State) : s.emitted <+: s.reissue.emitted := by
  unfold State.reissue
  split
  · exact List.prefix_append _ _
  · exact List.prefix_refl _

/-- The record of what the part has put on its pins is never taken back. -/
theorem after_emitted_prefix (c : Instr) (s : State) : s.emitted <+: (after c s).emitted := by
  by_cases he : .emitted ∈ footprint c
  · cases c with
    | powerOnReset => exact List.prefix_append _ _
    | upstreamRead | upstreamWrite | wholeCellWrite | cellBreak | gatedRead | armingWrite | orderProducerWrite | reportConsumerWrite =>
      exact s.takeRequest_prefix _
    | gatedReadAnswer id a | forwardedAnswer id a => exact s.memoryAnswer_prefix id a
    | slateReadAnswer a => exact s.slateAnswer_prefix a
    | holdTimerExpiry r n => exact s.expireHold_prefix r n
    | unwrapCompletion =>
      refine List.IsPrefix.trans ?_ (State.drain_prefix _)
      unfold State.complete
      split
      · exact s.completeKey_prefix _
      · exact List.prefix_refl _
    | placementHeadReadAnswer a => exact s.headReturned_prefix a
    | placementDescriptorReadAnswer a => exact s.descriptorsReturned_prefix a
    | orderFetch => exact s.fetchOrder_prefix
    | orderFetchAnswer a => exact s.fetchReturned_prefix a
    | placedReportWrite => exact s.writePlaced_prefix
    | replyRecordWrite => exact s.writeReply_prefix
    | conditionWrite => exact s.writeCondition_prefix
    | eepromSectionRead r => exact s.sectionRead_prefix r
    | writePassStart =>
      change s.emitted <+: s.beginPass.emitted
      unfold State.beginPass
      split
      · exact s.startPass_prefix
      · exact List.prefix_refl _
    | pageWriteComplete => exact s.pageDone_prefix
    | eepromNoAcknowledge why => exact s.storeFails_prefix why
    | transactionReissue => exact s.reissue_prefix
    | _ => exact absurd he (by simp [footprint])
  · exact emitted_prefix_of_framed (after_framed c s) he

theorem pending_notMem_footprint (c : Instr) : .pending ∉ footprint c := by cases c <;> simp [footprint, restoreBlocks]

theorem unit_notMem_footprint (c : Instr) : .unit ∉ footprint c := by cases c <;> simp [footprint, restoreBlocks]

/-- Settles O3: no footprint holds the queue or the fuses, and the record of the pins only grows. -/
theorem everyCommandCompletesAndLeavesQueue : Obligations.EveryCommandCompletesAndLeavesQueue := by
  intro c s
  obtain ⟨es, hes⟩ := after_emitted_prefix c s
  exact ⟨after c s, es, exec_eq_after c s, (after_framed c s).pending (pending_notMem_footprint c),
    (after_framed c s).unit (unit_notMem_footprint c), hes.symm⟩

/-! ### Steps and the clock cycle -/

/-- Settles O1: with a command in front a step is that command on the queue's rest. -/
theorem stepRunsFrontCommand : Obligations.StepRunsFrontCommand := fun _ _ _ => rfl

/-- R172: what one cycle does to the retention unit. -/
theorem State.busCycle_busCycled (s : State) : busCycled s s.busCycle := by
  by_cases hway : pageUnderWay s
  · refine ⟨fun h => absurd hway h, fun _ => ?_⟩
    rcases busCycle_cases s with h | ⟨image, rest, page, polling, -, hst, ⟨-, h⟩ | ⟨-, h⟩⟩ <;> rw [h]
    · exact ⟨s.store.st, s.store.turns, [], by simp, .inl ⟨rfl, rfl⟩⟩
    · exact ⟨s.store.st, s.store.turns + 1, [], by simp, .inl ⟨rfl, rfl⟩⟩
    · exact ⟨_, _, _, rfl, .inr ⟨image, rest, page, polling, hst, rfl, rfl⟩⟩
  · refine ⟨fun _ => ?_, fun h => absurd h hway⟩
    rcases busCycle_cases s with h | ⟨image, rest, page, polling, hstop, hst, -⟩
    · exact h
    · exact absurd ⟨image, rest, page, polling, hst, hstop⟩ hway

theorem State.tick_unset {s : State} (h : s.clock.running = false) : s.tick = s := by simp [State.tick, h]

theorem State.tick_counts {s : State} (h : s.clock.running = true) (hsub : s.clock.sub + 1 < 24576000) :
    s.tick = { s with clock := { s.clock with sub := s.clock.sub + 1 } } := by
  simp [State.tick, h, cyclesPerSecond, Nat.not_le.mpr hsub]

theorem State.tick_second {s : State} (h : s.clock.running = true) (hsub : 24576000 ≤ s.clock.sub + 1) : s.tick = s.secondEvent := by
  simp [State.tick, h, cyclesPerSecond, hsub]

/-- Settles O2: the cycle of the bus leaves the clock, and the clock's own cycle then counts or ends the second. -/
theorem emptyQueueIsOneClockCycle : Obligations.EmptyQueueIsOneClockCycle := by
  intro s hempty
  have hstep : step s = .next s.busCycle.tick := by simp [step, hempty]
  have hclock : s.busCycle.clock = s.clock := s.busCycle_framed.clock
  refine ⟨s.busCycle, s.busCycle_busCycled, fun hrun => ?_, fun hrun hsub => ?_, fun hrun hsub => ?_⟩
  · rw [hstep, State.tick_unset (by rw [hclock, hrun])]
  · rw [hstep, State.tick_counts (by rw [hclock, hrun]) (by rw [hclock]; exact hsub), hclock]
  · rw [hstep, State.tick_second (by rw [hclock, hrun]) (by rw [hclock]; exact hsub)]
    rfl

/-! ### Resets -/

theorem Conditions.none_get (k : CondKind) : Conditions.none.get k = Cond.none := by cases k <;> rfl

/-- R170: ALERT without a view of the report ring. -/
theorem State.alert_of_noView {s : State} (h : s.reports.view = none) : s.alert = s.conds.highest.isSome := by
  simp [State.alert, h]

/-- Settles O13: every block is at its reset value. -/
theorem powerOnResetLeaves : Obligations.PowerOnResetLeaves := by
  intro s
  refine ⟨s.powerOn, rfl, rfl, rfl, rfl, rfl, rfl, rfl, rfl, rfl, rfl, rfl, rfl, rfl, rfl, rfl, rfl, Conditions.none_get, rfl, rfl, rfl, rfl, ?_⟩
  rw [State.alert_of_noView rfl]
  rfl

/-- After a link reset STORE_LOST alone can be booked. -/
theorem Conditions.storeLost_only_get (c : Cond) {k : CondKind} (hk : k ≠ .storeLost) : ({ Conditions.none with storeLost := c }).get k = Cond.none := by
  cases k
  case storeLost => exact absurd rfl hk
  all_goals rfl

theorem Conditions.storeLost_only_highest (c : Cond) : ({ Conditions.none with storeLost := c }).highest.isSome = c.booked := by
  cases h : c.booked <;> simp [Conditions.highest, rankOrder, Conditions.get, Conditions.none, Cond.none, h]

/-- Settles O14: what a link reset empties; ALERT then follows STORE_LOST alone. -/
theorem linkResetLeaves : Obligations.LinkResetLeaves := by
  intro s
  refine ⟨s.linkReset, rfl, ?_, rfl, rfl, rfl, rfl, rfl, rfl, rfl, rfl, rfl, fun k hk => Conditions.storeLost_only_get _ hk, ?_⟩
  · intro b hb; cases b <;> first | rfl | simp at hb
  · rw [State.alert_of_noView rfl]
    exact Conditions.storeLost_only_highest _

/-- In a table of free entries nothing is in use. -/
theorem not_inUse_replicate {α : Type} (n : Nat) (e : α) : ¬ inUse (List.replicate n (none : Option α)) e := by
  simp [inUse, List.mem_replicate]

theorem filterMap_replicate_none {α β : Type} (n : Nat) (f : α → β) : (List.replicate n (none : Option α)).filterMap (fun o => o.map f) = [] := by
  simp

end Sys2Proof.Machine

/-! Proofs: conditions kept through completions and orders, and the purse law with the numbering of the log (chapters 5 and 6). -/

namespace Sys2Proof.Machine

open Sys2Proof.Safety

set_option Elab.async false

/-! ### What completions, grants, orders and folds keep -/

theorem State.headCell_some {s : State} {k : CtrlKind} {cell : List Byte} (h : s.headCell k = some cell) :
    ∃ rest, s.engine.queue = ⟨k, cell⟩ :: rest := by
  unfold State.headCell at h
  split at h
  · rename_i c rest hq
    split at h
    · rename_i hk
      cases h
      exact ⟨rest, by rw [hq, ← hk]⟩
    · cases h
  · cases h

theorem State.complete_keeps {I : State → Prop} {s : State} {k : CtrlKind} {effect : List Byte → State → State} (hs : I s)
    (hpop : ∀ u, I u → I u.popCell) (heffect : ∀ cell, s.headCell k = some cell → I (effect cell s)) : I (s.complete k effect) := by
  unfold State.complete
  split
  · exact hpop _ (heffect _ ‹_›)
  · exact hs

theorem State.headGrant_some {s : State} {is : List Byte → Bool} {cell : List Byte} (h : s.headGrant is = some cell) :
    s.headCell .grant = some cell ∧ is cell = true := by
  unfold State.headGrant at h
  split at h
  · split at h
    · cases h; exact ⟨‹_›, ‹_›⟩
    · cases h
  · cases h

theorem State.completeGrant_keeps {I : State → Prop} {s : State} {is : List Byte → Bool} {owner : List Byte → State → State} (hs : I s)
    (hpop : ∀ u, I u → I u.popCell) (howner : ∀ cell, s.headGrant is = some cell → I (owner cell (s.advanceSeq cell))) :
    I (s.completeGrant is owner) := by
  unfold State.completeGrant
  split
  · split
    · exact hpop _ (howner _ ‹_›)
    · exact hpop _ hs
  · exact hs

theorem State.takeOrder_keeps {I : State → Prop} {s : State} {is : Answer → Bool} {need : Nat} {f : Nat → Answer → State → List Report × State}
    (hs : I s) (hreply : ∀ u rs, I u → I { u with orders := { u.orders with st := .replying rs } })
    (hf : ∀ slot a, s.orders.st = .fetching slot (some a) → I (f slot a s).2) : I (s.takeOrder is need f) := by
  unfold State.takeOrder
  split
  · split
    · exact hreply _ _ (hf _ _ ‹_›)
    · exact hs
  · exact hs

theorem foldl_keeps {α : Type} {I : State → Prop} {f : State → α → State} {xs : List α} (hf : ∀ x ∈ xs, ∀ s, I s → I (f s x)) :
    ∀ s, I s → I (xs.foldl f s) := by
  induction xs with
  | nil => exact fun _ hs => hs
  | cons x xs ih =>
    exact fun s hs => ih (fun y hy => hf y (List.mem_cons_of_mem _ hy)) _ (hf x List.mem_cons_self s hs)

/-! ### The credit invariant in two parts: the ledger of purse and log, and what the restore has judged -/

/-- Purse and log agree: the purse law in one sum, the credit ranges, the log's capacity and its numbering (R86, R88, R105). -/
structure Ledger (p : Purse) (l : PurchaseLog) : Prop where
  law : p.balance = p.reference + foldSum l.entries
  range : purseInRange p
  capacity : l.entries.length ≤ 64
  numbered : consecutive l.entries
  next : ∀ e, l.entries.getLast? = some e → l.next = e.seq + 1

/-- What the restore has judged good so far is in range (R174). -/
def JudgedSound (st : RetentionState) : Prop :=
  ∀ j0 j1, st = .restoring j0 j1 →
    (∀ f, j0 = some (.good f) → purseInRange (purseOf f)) ∧ ∀ es, j1 = some (.good es) → es.length ≤ 64 ∧ consecutive es

theorem JudgedSound.of_ne {st : RetentionState} (h : ∀ j0 j1, st ≠ .restoring j0 j1) : JudgedSound st := fun j0 j1 hst => absurd hst (h j0 j1)

theorem entryFold_bounds (e : LogEntry) : -65535 ≤ entryFold e ∧ entryFold e ≤ 65535 := by
  have := e.amount.isLt
  unfold entryFold
  split <;> omega

/-- 64 entries of at most 65,535 each bound the reference by the balance (Table 5-1). -/
theorem foldSum_bounds (es : List LogEntry) : -(65535 * es.length : Int) ≤ foldSum es ∧ foldSum es ≤ 65535 * es.length := by
  induction es with
  | nil => simp [foldSum]
  | cons e es ih =>
    have hcons : foldSum (e :: es) = entryFold e + foldSum es := by simp [foldSum]
    have := entryFold_bounds e
    rw [hcons, List.length_cons]
    push_cast
    omega

theorem creditSound_iff (s : State) : CreditSound s ∧ LogNumbered s ↔ Ledger s.purse s.log ∧ JudgedSound s.store.st := by
  constructor
  · rintro ⟨⟨hlaw, hrange, -, -, hcap, hjudged⟩, hnum, hnext, hjnum⟩
    refine ⟨⟨(purseLaw_iff s).mp hlaw, hrange, hcap, hnum, hnext⟩, fun j0 j1 hst => ⟨(hjudged j0 j1 hst).1, ?_⟩⟩
    rintro es rfl
    exact ⟨(hjudged _ _ hst).2 es rfl, hjnum _ _ hst⟩
  · rintro ⟨⟨hlaw, hrange, hcap, hnum, hnext⟩, hjudged⟩
    obtain ⟨hlow, hhigh⟩ := foldSum_bounds s.log.entries
    obtain ⟨hb, hb', -⟩ := id hrange
    refine ⟨⟨(purseLaw_iff s).mpr hlaw, hrange, by omega, by omega, hcap, fun j0 j1 hst => ⟨(hjudged j0 j1 hst).1, ?_⟩⟩, hnum, hnext, ?_⟩
    · exact fun es hes => ((hjudged j0 j1 hst).2 es hes).1
    · exact fun j0 es hst => ((hjudged _ _ hst).2 es rfl).2

/-! ### The ledger under the operations on purse and log -/

/-- The ledger reads four fields of the purse. -/
theorem Ledger.congr {p q : Purse} {l : PurchaseLog} (h : Ledger p l) (hb : q.balance = p.balance) (hr : q.reference = p.reference)
    (hs : q.spent = p.spent) (hc : q.cap = p.cap) : Ledger q l :=
  ⟨by rw [hb, hr]; exact h.law, by unfold purseInRange; rw [hb, hs, hc]; exact h.range, h.capacity, h.numbered, h.next⟩

/-- Balance and reference rise by the same amount. -/
theorem Ledger.raised {p q : Purse} {l : PurchaseLog} (h : Ledger p l) (hlaw : q.balance - q.reference = p.balance - p.reference)
    (hrange : purseInRange q) : Ledger q l :=
  ⟨by have := h.law; omega, hrange, h.capacity, h.numbered, h.next⟩

/-- A new entry keeps the ledger when the purse moves by what the entry folds. -/
theorem Ledger.entered {p q : Purse} {l : PurchaseLog} (h : Ledger p l) {e : LogEntry} (hroom : l.entries.length < 64) (hseq : e.seq = l.next)
    (hlaw : q.balance - q.reference = p.balance - p.reference + entryFold e) (hrange : purseInRange q) :
    Ledger q { entries := l.entries ++ [e], next := l.next + 1 } where
  law := by
    have := h.law
    have hone : foldSum [e] = entryFold e := by simp [foldSum]
    rw [foldSum_append, hone]
    omega
  range := hrange
  capacity := by rw [List.length_append, List.length_singleton]; exact hroom
  numbered := consecutive_append _ _ h.numbered (fun x hx => by rw [hseq]; exact h.next x hx)
  next := fun x hx => by
    rw [List.getLast?_concat, Option.some.injEq] at hx
    rw [← hx, hseq]

theorem Purse.refunded_inRange {p : Purse} (h : purseInRange p) (a : Credit) : purseInRange (p.refunded a) := by
  obtain ⟨hlow, hhigh, hspent, hcap⟩ := h
  have hcredit : credited p.balance a = min (a.toNat : Int) (16777215 - p.balance) := credited_eq _ _
  refine ⟨?_, ?_, ?_, hcap⟩
  · change -65535 ≤ p.balance + credited p.balance a
    omega
  · change p.balance + credited p.balance a ≤ 16777215
    omega
  · exact Nat.le_trans (Nat.sub_le _ _) hspent

theorem State.room_of_not_logFull {s : State} (h : s.logFull = false) : s.log.entries.length < 64 :=
  Nat.lt_of_not_le (of_decide_eq_false h)

/-- What the part owns of credit: the purse and the log agree. -/
def State.ledgered (s : State) : Prop := Ledger s.purse s.log

theorem State.ledgered_of_framed {bs : List Block} {s t : State} (h : framed bs s t) (hs : s.ledgered) (hp : .purse ∉ bs := by decide)
    (hl : .log ∉ bs := by decide) : t.ledgered := by
  rw [State.ledgered, h.purse hp, h.log hl]
  exact hs

theorem State.refund_ledgered {s : State} (h : s.ledgered) (hroom : s.logFull = false) (cause : Cause) (t : Tag) (a : Credit) :
    (s.refund cause t a).ledgered := by
  refine Ledger.entered (p := s.purse) (l := s.log) h (State.room_of_not_logFull hroom) rfl ?_ (Purse.refunded_inRange h.range a)
  change s.purse.balance + _ - (s.purse.reference - (_ - _)) = _ + (a.toNat : Int)
  omega

theorem State.setPurse_ledgered {s : State} (h : s.ledgered) {p : Purse} (hlaw : p.balance - p.reference = s.purse.balance - s.purse.reference)
    (hrange : purseInRange p) : (s.setPurse p).ledgered :=
  Ledger.raised h hlaw hrange

theorem serveFrom_ledgered (q : List Tag) : ∀ s : State, s.ledgered → (serveFrom q s).ledgered := by
  induction q with
  | nil => exact fun _ hs => hs
  | cons t rest ih =>
    intro s hs
    unfold serveFrom
    split
    · exact hs
    · refine ih _ ?_
      have hroom : s.logFull = false := by simpa using ‹¬ s.logFull = true›
      exact State.ledgered_of_framed ((State.updateFixture_framed _ t _).andThen (cs := [.fixtures, .refunds]) (State.setRefunds_framed _ rest))
        (State.refund_ledgered hs hroom .operator t _)

theorem State.removeEntries_ledgered {s : State} (h : s.ledgered) (k : Nat) : (s.removeEntries k).ledgered where
  law := by
    have hlaw := h.law
    have hsplit := foldSum_take_drop k s.log.entries
    simp only [State.removeEntries_purse, State.removeEntries_log]
    omega
  range := h.range
  capacity := by rw [State.removeEntries_log, List.length_drop]; exact Nat.le_trans (Nat.sub_le _ _) h.capacity
  numbered := consecutive_drop k _ h.numbered
  next := fun e he => h.next e (by
    have hsuffix : s.log.entries.drop k <:+ s.log.entries := List.drop_suffix k _
    obtain ⟨front, hfront⟩ := hsuffix
    rw [← hfront, List.getLast?_append, show (s.log.entries.drop k).getLast? = some e from he]
    rfl)

theorem State.acknowledge_ledgered {s : State} (h : s.ledgered) (n : Seq) : (s.acknowledge n).ledgered :=
  State.ledgered_of_framed (State.settleQueue_framed _ _) (serveFrom_ledgered _ _ (State.removeEntries_ledgered h _))

theorem State.cancelEffect_ledgered {s : State} (h : s.ledgered) (t : Tag) : (s.cancelEffect t).ledgered := by
  unfold State.cancelEffect
  split
  · split
    · split
      · exact State.ledgered_of_framed (((s.setRefunds_framed _).andThen (cs := [.refunds, .conds]) (State.book_framed _ _ _)).andThen
          (cs := [.refunds, .conds]) (State.book_framed _ _ _)) h
      · have hroom : s.logFull = false := by simpa using ‹¬ s.logFull = true›
        exact State.ledgered_of_framed (((State.updateFixture_framed _ t _).andThen (cs := [.fixtures, .conds]) (State.bookNearlyFull_framed _)).andThen
          (cs := [.fixtures, .conds]) (State.book_framed _ _ _)) (State.refund_ledgered h hroom .operator t _)
    · exact h
  · exact h

theorem State.applyAnnouncement_ledgered {s : State} (h : s.ledgered) (cell : List Byte) : (s.applyAnnouncement cell).ledgered := by
  have hupdate : ∀ t f, (s.updateFixture t f).ledgered := fun t f => State.ledgered_of_framed (s.updateFixture_framed t f) h
  unfold State.applyAnnouncement
  split
  · exact State.ledgered_of_framed (s.book_framed _ _) h
  · simp only []
    split
    · exact State.ledgered_of_framed (s.announceNew_framed _ _) h
    · split
      · unfold State.announceAwaiting
        simp only []
        split
        · exact State.cancelEffect_ledgered (hupdate _ _) _
        · exact hupdate _ _
      · unfold State.announceAgain
        simp only []
        split
        · exact State.cancelEffect_ledgered (hupdate _ _) _
        · exact hupdate _ _

/-! ### Purchases (R92 to R98) -/

/-- The last three checks of a purchase: room in the log, the cap, and the overdraft limit (Tables 5-3, 5-4). -/
theorem State.fundsCheck_accepted {s : State} {price : Nat} (h : s.fundsCheck price = .accepted) :
    s.logFull = false ∧ s.purse.spent + price ≤ s.purse.cap ∧ -(s.purse.overdraft.toNat : Int) ≤ s.purse.balance - price := by
  unfold State.fundsCheck at h
  obtain ⟨hfull, h⟩ := of_ite_ne h nofun
  obtain ⟨hcap, h⟩ := of_ite_ne h nofun
  obtain ⟨hcredit, -⟩ := of_ite_ne h nofun
  exact ⟨by simpa using hfull, Nat.le_of_not_lt hcap, Int.not_lt.mp hcredit⟩

theorem State.buyCheck_accepted {s : State} {t : Tag} {stated : Option Credit} (h : (s.buyCheck t stated).1 = .accepted) :
    ∃ e sch ph, s.fixture t = some e ∧ e.standing = .scheduled sch ph ∧ (s.buyCheck t stated).2 = fixturePrice sch s.now ∧
      s.buyScheduled e sch ph stated = .accepted := by
  by_cases hrun : s.clock.running = false
  · rw [State.buyCheck, if_pos hrun] at h
    cases h
  unfold State.buyCheck at h ⊢
  rw [if_neg hrun] at h ⊢
  split at h
  · cases h
  · rename_i e he
    split at h
    · cases h
    · rename_i sch ph hst
      exact ⟨e, sch, ph, he, hst, rfl, h⟩

theorem State.buyScheduled_accepted {s : State} {e : FixtureEntry} {sch : Schedule} {ph : Phase} {stated : Option Credit}
    (h : s.buyScheduled e sch ph stated = .accepted) :
    (ph = .onSale ∨ ph = .live) ∧ e.kind = .none ∧ blackedOut s.purse.zone sch = false ∧
      priceDiffers stated (fixturePrice sch s.now) = false ∧ s.fundsCheck (fixturePrice sch s.now) = .accepted := by
  unfold State.buyScheduled at h
  obtain ⟨hlisted, h⟩ := of_ite_ne h nofun
  obtain ⟨hended, h⟩ := of_ite_ne h nofun
  obtain ⟨hcancelled, h⟩ := of_ite_ne h nofun
  obtain ⟨hkind, h⟩ := of_ite_ne h nofun
  obtain ⟨hzone, h⟩ := of_ite_ne h nofun
  obtain ⟨hprice, h⟩ := of_ite_ne h nofun
  refine ⟨?_, Classical.not_not.mp hkind, by simpa using hzone, by simpa using hprice, h⟩
  cases ph with
  | onSale => exact .inl rfl
  | live => exact .inr rfl
  | listed => exact absurd rfl hlisted
  | ended => exact absurd (.inl rfl) hended
  | retired => exact absurd (.inr rfl) hended
  | cancelled => exact absurd rfl hcancelled

theorem State.passCheck_accepted {s : State} {id : PassId} {stated : Option Credit} (h : (s.passCheck id stated).1 = .accepted) :
    ∃ p sale, s.pass id = some p ∧ p.sale = some sale ∧ (s.passCheck id stated).2 = s.passPrice p sale ∧
      s.passScheduled p sale stated = .accepted := by
  by_cases hrun : s.clock.running = false
  · rw [State.passCheck, if_pos hrun] at h
    cases h
  unfold State.passCheck at h ⊢
  rw [if_neg hrun] at h ⊢
  split at h
  · cases h
  · rename_i p hp
    split at h
    · cases h
    · rename_i sale hsale
      exact ⟨p, sale, hp, hsale, rfl, h⟩

theorem State.passScheduled_accepted {s : State} {p : PassEntry} {sale : PassSale} {stated : Option Credit}
    (h : s.passScheduled p sale stated = .accepted) :
    sale.opens.toNat ≤ s.now.toNat ∧ s.now.toNat < sale.closes.toNat ∧ p.owned = false ∧ priceDiffers stated (s.passPrice p sale) = false ∧
      s.fundsCheck (s.passPrice p sale) = .accepted := by
  unfold State.passScheduled at h
  obtain ⟨h1, h⟩ := of_ite_ne h nofun
  obtain ⟨h2, h⟩ := of_ite_ne h nofun
  obtain ⟨h3, h⟩ := of_ite_ne h nofun
  obtain ⟨h4, h⟩ := of_ite_ne h nofun
  exact ⟨Nat.le_of_not_lt h1, Nat.lt_of_not_le h2, by simpa using h3, by simpa using h4, h⟩

theorem State.cancelCheck_accepted {s : State} {t : Tag} (h : s.cancelCheck t = .accepted) :
    ∃ e sch ph, s.fixture t = some e ∧ e.standing = .scheduled sch ph ∧ s.notCancellable e sch = false ∧ s.logFull = false := by
  unfold State.cancelCheck at h
  split at h
  · cases h
  · rename_i e he
    split at h
    · cases h
    · rename_i sch ph hst
      obtain ⟨h1, h⟩ := of_ite_ne h nofun
      obtain ⟨h2, -⟩ := of_ite_ne h nofun
      exact ⟨e, sch, ph, he, hst, by simpa using h1, by simpa using h2⟩

/-- A price of R90 or R91 fits the two bytes of a paid amount. -/
theorem fixturePrice_lt (sch : Schedule) (c : Seconds) : fixturePrice sch c < 65536 := by
  have hb := sch.base.isLt
  have hf := sch.floor.isLt
  unfold fixturePrice
  simp only []
  split <;> omega

theorem State.passPrice_lt (s : State) (p : PassEntry) (sale : PassSale) : s.passPrice p sale < 65536 :=
  Nat.lt_of_le_of_lt (Nat.sub_le _ _) sale.base.isLt

/-- An accepted debit and its entry keep the ledger: the check of the overdraft limit bounds the balance from below. -/
theorem State.debit_ledgered {s : State} (h : s.ledgered) {price : Nat} (hfunds : s.fundsCheck price = .accepted) (hprice : price < 65536)
    {kind : LogKind} (hkind : ∀ c, kind ≠ .refund c) (ident : BitVec 16) :
    (State.addEntry kind ident (BitVec.ofNat 16 price) (s.setPurse (s.purse.debited price))).ledgered := by
  obtain ⟨hroom, hcap, hcredit⟩ := State.fundsCheck_accepted hfunds
  obtain ⟨hlow, hhigh, hspent, hcapmax⟩ := h.range
  have hover := s.purse.overdraft.isLt
  have hfold : entryFold (newEntryOf s kind ident (BitVec.ofNat 16 price) (s.purse.balance - price)) = -(price : Int) := by
    cases kind <;> simp [entryFold, newEntryOf, Nat.mod_eq_of_lt hprice] at hkind ⊢
  refine Ledger.entered (p := s.purse) (l := s.log) h (State.room_of_not_logFull hroom) rfl (?_ : s.purse.balance - price - s.purse.reference = _)
    ⟨?_, ?_, Nat.min_le_right _ _, hcapmax⟩
  · refine Eq.trans ?_ (congrArg (s.purse.balance - s.purse.reference + ·) hfold.symm)
    omega
  · change -65535 ≤ s.purse.balance - price
    omega
  · change s.purse.balance - price ≤ 16777215
    omega

theorem State.answerBuyFixture_ledgered {s : State} (h : s.ledgered) (slot : Nat) (a : Answer) : (s.answerBuyFixture slot a).2.ledgered := by
  unfold State.answerBuyFixture
  simp only []
  split
  · rename_i haccepted
    obtain ⟨e, sch, ph, -, -, hprice, hsched⟩ := State.buyCheck_accepted haccepted
    obtain ⟨-, -, -, -, hfunds⟩ := State.buyScheduled_accepted hsched
    rw [hprice]
    exact State.ledgered_of_framed ((State.updateFixture_framed _ _ _).andThen (cs := [.fixtures, .conds]) (State.bookNearlyFull_framed _))
      (State.debit_ledgered h hfunds (fixturePrice_lt _ _) (by simp) _)
  · exact h

theorem State.answerBuyPass_ledgered {s : State} (h : s.ledgered) (slot : Nat) (a : Answer) : (s.answerBuyPass slot a).2.ledgered := by
  unfold State.answerBuyPass
  simp only []
  split
  · rename_i haccepted
    obtain ⟨p, sale, -, -, hprice, hsched⟩ := State.passCheck_accepted haccepted
    obtain ⟨-, -, -, -, hfunds⟩ := State.passScheduled_accepted hsched
    rw [hprice]
    exact State.ledgered_of_framed (((State.updatePass_framed _ _ _).andThen (cs := [.passes, .fixtures, .conds]) (State.propagate_framed _ _ _)).andThen
      (cs := [.passes, .fixtures, .conds]) (State.bookNearlyFull_framed _)) (State.debit_ledgered h hfunds (s.passPrice_lt _ _) (by simp) _)
  · exact h

theorem State.answerCancel_ledgered {s : State} (h : s.ledgered) (slot : Nat) (a : Answer) : (s.answerCancel slot a).2.ledgered := by
  unfold State.answerCancel
  simp only []
  split
  · rename_i haccepted
    obtain ⟨e, sch, ph, -, -, -, hroom⟩ := State.cancelCheck_accepted haccepted
    exact State.ledgered_of_framed ((State.updateFixture_framed _ _ _).andThen (cs := [.fixtures, .conds]) (State.bookNearlyFull_framed _))
      (State.refund_ledgered h hroom .viewer _ _)
  · exact h

/-! ### Grants to the purse -/

theorem State.advanceSeq_ledgered {s : State} (h : s.ledgered) (cell : List Byte) : (s.advanceSeq cell).ledgered := by
  unfold State.advanceSeq
  split
  · exact h
  · exact State.setPurse_ledgered h rfl h.range

theorem State.topup_ledgered {s : State} (h : s.ledgered) (amount : Nat) : (s.topup amount).ledgered := by
  obtain ⟨hlow, hhigh, hspent, hcap⟩ := h.range
  have happlied := topupApplied_eq s.purse.balance amount
  refine State.setPurse_ledgered h (by simp only []; omega) ⟨?_, ?_, hspent, hcap⟩
  · simp only []
    omega
  · simp only []
    omega

theorem State.setLimits_ledgered {s : State} (h : s.ledgered) (cap : Nat) (overdraft : Credit) : (s.setLimits cap overdraft).ledgered := by
  obtain ⟨hlow, hhigh, hspent, -⟩ := h.range
  exact State.setPurse_ledgered h rfl ⟨hlow, hhigh, hspent, Nat.min_le_right _ _⟩

theorem State.nightReset_ledgered {s : State} (h : s.ledgered) : s.nightReset.ledgered := by
  obtain ⟨hlow, hhigh, -, hcap⟩ := h.range
  exact State.ledgered_of_framed ((State.removeFixtures_framed _ _).andThen (cs := [.fixtures, .passes]) (State.setPasses_framed _ _))
    (State.setPurse_ledgered h (p := { s.purse with spent := 0 }) rfl ⟨hlow, hhigh, Nat.zero_le _, hcap⟩)

/-! ### The restore (R174, R175) -/

theorem nextAfter_last {es : List LogEntry} {whenEmpty : Seq} {e : LogEntry} (h : es.getLast? = some e) : nextAfter es whenEmpty = e.seq + 1 := by
  simp [nextAfter, h]

theorem Purse.defaults_inRange : purseInRange Purse.defaults := ⟨by decide, by decide, by decide, by decide⟩

/-- R174: the restore table gives a purse and a log that agree. -/
theorem restoredCredit_ledger {j0 : Judged S0Fields} {j1 : Judged (List LogEntry)} (h0 : ∀ f, j0 = .good f → purseInRange (purseOf f))
    (h1 : ∀ es, j1 = .good es → es.length ≤ 64 ∧ consecutive es) : Ledger (restoredCredit j0 j1).purse (restoredCredit j0 j1).log := by
  have hempty : ∀ (p : Purse) (n : Seq), purseInRange p → p.balance = p.reference → Ledger p { entries := [], next := n } := fun p n hp hlaw =>
    ⟨by simp [foldSum, hlaw], hp, Nat.zero_le _, trivial, by simp⟩
  rcases j0 with _ | _ | f <;> rcases j1 with _ | _ | es
  case good.good =>
    obtain ⟨hlen, hnum⟩ := h1 es rfl
    refine ⟨?_, h0 f rfl, hlen, hnum, fun e he => nextAfter_last he⟩
    simp only [restoredCredit, reconcile, purseOf]
    split
    · simp [lawReference]
    · rename_i hlaw
      simpa using hlaw
  case good.blank | good.lost => exact hempty _ _ (h0 f rfl) rfl
  case blank.good | lost.good =>
    obtain ⟨hlen, hnum⟩ := h1 es rfl
    refine ⟨?_, Purse.defaults_inRange, hlen, hnum, fun e he => nextAfter_last he⟩
    change (0 : Int) = 0 - foldSum es + foldSum es
    omega
  all_goals exact hempty _ _ Purse.defaults_inRange rfl

theorem State.restoreRecord_ledgered {s : State} (h : s.ledgered) (r : FixtureRec) : (s.restoreRecord r).ledgered := by
  unfold State.restoreRecord
  split
  · unfold State.restoreQueued
    split
    · exact State.ledgered_of_framed ((s.updateFixture_framed _ _).andThen (cs := [.fixtures, .refunds]) (State.joinRefunds_framed _ _)) h
    · split
      · exact State.ledgered_of_framed ((State.createFixture_framed ‹_›).andThen (cs := [.fixtures, .refunds]) (State.joinRefunds_framed _ _)) h
      · exact State.ledgered_of_framed (s.book_framed _ _) h
  · unfold State.restoreFixture
    split
    · have hupdate := State.ledgered_of_framed (s.updateFixture_framed r.tag (fun e => { e with kind := recordKind r, viewed := r.viewed })) h
      simp only []
      split
      · exact State.cancelEffect_ledgered hupdate _
      · exact hupdate
    · split
      · exact State.ledgered_of_framed (State.createFixture_framed ‹_›) h
      · exact State.ledgered_of_framed (s.book_framed _ _) h

theorem State.serveRestored_ledgered {s : State} (h : s.ledgered) : s.serveRestored.ledgered := by
  have hserve : (s.serveRefunds.settleQueue s.refunds).ledgered :=
    State.ledgered_of_framed (State.settleQueue_framed _ _) (serveFrom_ledgered _ _ h)
  unfold State.serveRestored
  simp only []
  split
  · exact State.ledgered_of_framed (State.book_framed _ _ _) hserve
  · exact hserve

theorem State.restoreRecords_ledgered {s : State} (h : s.ledgered) (f : S2Fields) : (s.restoreRecords f).ledgered :=
  foldl_keeps (I := State.ledgered) (fun r _ u hu => State.ledgered_of_framed (u.restorePass_framed r) hu) _
    (foldl_keeps (I := State.ledgered) (fun r _ _ hu => State.restoreRecord_ledgered hu r) s h)

theorem State.restoredTables_ledgered {j0 : Judged S0Fields} {j1 : Judged (List LogEntry)} (j2 : Judged S2Fields) (s : State)
    (h0 : ∀ f, j0 = .good f → purseInRange (purseOf f)) (h1 : ∀ es, j1 = .good es → es.length ≤ 64 ∧ consecutive es) :
    (s.restoredTables j0 j1 j2).ledgered := by
  have hcredit : (s.takeCredit (restoredCredit j0 j1)).ledgered := restoredCredit_ledger h0 h1
  unfold State.restoredTables
  refine State.ledgered_of_framed (State.settleS2_framed _ _ _) (State.serveRestored_ledgered (State.restoreRecords_ledgered ?_ _))
  split
  · exact State.ledgered_of_framed (State.book_framed _ _ _) hcredit
  · exact hcredit

theorem State.endRestore_ledgered {j0 : Judged S0Fields} {j1 : Judged (List LogEntry)} (j2 : Judged S2Fields) (st : RetentionState) (s : State)
    (h0 : ∀ f, j0 = .good f → purseInRange (purseOf f)) (h1 : ∀ es, j1 = .good es → es.length ≤ 64 ∧ consecutive es) :
    (s.endRestore j0 j1 j2 st).ledgered := by
  rw [State.endRestore_eq]
  exact State.ledgered_of_framed (((State.setStore_framed _ st).andThen (cs := [.store, .placement, .reports]) (State.handPlaced_framed _)).andThen
    (cs := [.store, .placement, .reports, .orders]) (State.wake_framed _)) (s.restoredTables_ledgered j2 h0 h1)

theorem judgeS0_good {x : SectionBytes S0Fields} {f : S0Fields} (h : judgeS0 x = .good f) : f = x.fields ∧ s0RangesOk x.fields = true := by
  unfold judgeS0 at h
  rcases judge_cases x (s0RangesOk x.fields) x.fields with ⟨-, hj⟩ | ⟨-, -, hj⟩ | ⟨-, -, hok, hj⟩ <;> rw [hj] at h
  · cases h
  · cases h
  · cases h; exact ⟨rfl, hok⟩

theorem judgeS1_good {x : SectionBytes S1Fields} {es : List LogEntry} (h : judgeS1 x = .good es) :
    es = x.fields.entries.take x.fields.count ∧ x.fields.count ≤ 64 ∧ consecutive es := by
  unfold judgeS1 at h
  simp only [] at h
  rcases judge_cases x _ (x.fields.entries.take x.fields.count) with ⟨-, hj⟩ | ⟨-, -, hj⟩ | ⟨-, -, hok, hj⟩ <;> rw [hj] at h
  · cases h
  · cases h
  · cases h
    simp only [Bool.and_eq_true, decide_eq_true_eq] at hok
    obtain ⟨⟨⟨hcount, -⟩, -⟩, hrises⟩ := hok
    exact ⟨rfl, hcount, (risesByOne_iff _).mp hrises⟩

theorem s0RangesOk_inRange {f : S0Fields} (h : s0RangesOk f = true) : purseInRange (purseOf f) := by
  simp only [s0RangesOk, balanceOk, within, Bool.and_eq_true, decide_eq_true_eq] at h
  obtain ⟨⟨⟨⟨hlow, hhigh⟩, -⟩, hspent⟩, hcap⟩ := h
  exact ⟨hlow, hhigh, hspent, hcap⟩

/-- The credit invariant of purse, log and retention state. -/
def State.credited (s : State) : Prop := s.ledgered ∧ JudgedSound s.store.st

theorem State.sectionRead_credited {s : State} (h : s.credited) (r : SectionRead) : (s.sectionRead r).credited := by
  obtain ⟨hledger, hjudged⟩ := id h
  unfold State.sectionRead
  split
  · exact h
  · split
    · rename_i x hst
      refine ⟨State.ledgered_of_framed (s.judged_framed _ _ _ _) hledger, ?_⟩
      rintro j0 j1 ⟨⟩
      refine ⟨fun f hf => ?_, by simp⟩
      obtain ⟨rfl, hok⟩ := judgeS0_good (Option.some.inj hf)
      exact s0RangesOk_inRange hok
    · rename_i j0 x hst
      refine ⟨State.ledgered_of_framed (s.judged_framed _ _ _ _) hledger, ?_⟩
      rintro _ _ ⟨⟩
      refine ⟨(hjudged _ _ hst).1, fun es hes => ?_⟩
      obtain ⟨rfl, hcount, hnum⟩ := judgeS1_good (Option.some.inj hes)
      exact ⟨Nat.le_trans (List.length_take_le _ _) hcount, hnum⟩
    · rename_i j0 j1 x hst
      obtain ⟨h0, h1⟩ := hjudged _ _ hst
      exact ⟨State.endRestore_ledgered _ _ _ (fun f hf => h0 f (hf ▸ rfl)) (fun es hes => h1 es (hes ▸ rfl)),
        JudgedSound.of_ne (by simp [State.endRestore_storeSt])⟩
    · exact h

theorem State.storeFails_credited {s : State} (h : s.credited) (why : NoAck) : (s.storeFails why).credited := by
  obtain ⟨hledger, hjudged⟩ := id h
  unfold State.storeFails
  split
  · split
    · rename_i j0 j1 hst
      obtain ⟨h0, h1⟩ := hjudged _ _ hst
      refine ⟨State.ledgered_of_framed (State.book_framed _ _ _) (State.endRestore_ledgered _ _ _ (fun f hf => h0 f ?_) (fun es hes => h1 es ?_)),
        JudgedSound.of_ne ?_⟩
      · cases j0 with
        | none => cases hf
        | some j => exact congrArg some hf
      · cases j1 with
        | none => cases hes
        | some j => exact congrArg some hes
      · intro j0' j1'
        change (State.endRestore _ _ _ _ _).store.st ≠ _
        simp [State.endRestore_storeSt]
    · exact ⟨State.ledgered_of_framed ((s.withStore_framed _).andThen (cs := [.store, .conds]) (State.book_framed _ _ _)) hledger,
        JudgedSound.of_ne (by simp [State.bookLost])⟩
    · exact h
  · exact h

/-! ### Every command keeps the credit invariant -/

/-- After RESTORING the retention unit judges nothing: an update of the write passes or the bus leaves RESTORING as it is, or does not enter it. -/
theorem State.startPass_storeSt (s : State) : ∀ j0 j1, s.startPass.store.st ≠ .restoring j0 j1 := by
  rcases startPass_cases s with ⟨_, h⟩ | ⟨_, _, _, h⟩ <;> rw [h]
  · simp
  · simp [State.bus, State.emit]

theorem State.pageDone_storeSt (s : State) : s.pageDone.store.st = s.store.st ∨ ∀ j0 j1, s.pageDone.store.st ≠ .restoring j0 j1 := by
  unfold State.pageDone
  split
  · exact .inl rfl
  · split
    · simp only []
      split
      · exact .inr (by simp [State.bus, State.emit])
      · split
        · exact .inr (by simp [State.bus, State.emit])
        · exact .inr (State.startPass_storeSt _)
    · exact .inl rfl

theorem State.reissue_storeSt (s : State) : s.reissue.store.st = s.store.st := by
  unfold State.reissue
  split <;> rfl

theorem State.loseBus_storeSt (s : State) : s.loseBus.store.st = s.store.st := by
  unfold State.loseBus
  split <;> rfl

theorem State.busCycle_storeSt (s : State) : s.busCycle.store.st = s.store.st ∨ ∀ j0 j1, s.busCycle.store.st ≠ .restoring j0 j1 := by
  rcases busCycle_cases s with h | ⟨_, _, _, _, _, _, ⟨_, h⟩ | ⟨_, h⟩⟩ <;> rw [h]
  · exact .inl rfl
  · exact .inl rfl
  · exact .inr (by simp)

theorem State.credited_of_framed {bs : List Block} {s t : State} (h : framed bs s t) (hs : s.credited) (hp : .purse ∉ bs := by decide)
    (hl : .log ∉ bs := by decide) (hst : .store ∉ bs := by decide) : t.credited :=
  ⟨State.ledgered_of_framed h hs.1 hp hl, h.storeSt hst ▸ hs.2⟩

/-- An update of the retention unit alone that judges nothing. -/
theorem State.credited_of_store {s t : State} (h : framed [.store, .emitted] s t) (hs : s.credited)
    (hst : t.store.st = s.store.st ∨ ∀ j0 j1, t.store.st ≠ .restoring j0 j1) : t.credited := by
  refine ⟨State.ledgered_of_framed h hs.1, ?_⟩
  rcases hst with hst | hst
  · exact hst ▸ hs.2
  · exact JudgedSound.of_ne hst

/-- A step whose purse and log agree afterwards, and that leaves the retention unit alone. -/
theorem State.credited_of_ledgered {bs : List Block} {s t : State} (h : framed bs s t) (hs : s.credited) (ht : t.ledgered)
    (hst : .store ∉ bs := by decide) : t.credited :=
  ⟨ht, h.storeSt hst ▸ hs.2⟩

theorem State.grant_ledgered {s : State} (h : s.ledgered) {is : List Byte → Bool} {owner : List Byte → State → State}
    (howner : ∀ cell u, u.ledgered → (owner cell u).ledgered) : (s.completeGrant is owner).ledgered :=
  State.completeGrant_keeps h (fun _ hu => hu) (fun cell _ => howner cell _ (State.advanceSeq_ledgered h cell))

/-- R86, R88, R105, R174: every command keeps the credit invariant. -/
theorem after_credited (c : Instr) (s : State) (h : s.credited) : (after c s).credited := by
  have hledger := h.1
  have hframe := after_framed c s
  cases c with
  | powerOnReset =>
    refine ⟨⟨rfl, Purse.defaults_inRange, Nat.zero_le _, trivial, fun e he => by cases he⟩, ?_⟩
    rintro _ _ ⟨⟩
    simp
  | announcement =>
    exact State.credited_of_ledgered hframe h
      (State.complete_keeps hledger (fun _ hu => hu) (fun cell _ => State.applyAnnouncement_ledgered hledger cell))
  | groupSet => exact State.credited_of_ledgered hframe h (State.grant_ledgered hledger (fun _ u hu => State.setPurse_ledgered hu rfl hu.range))
  | zoneSet => exact State.credited_of_ledgered hframe h (State.grant_ledgered hledger (fun _ u hu => State.setPurse_ledgered hu rfl hu.range))
  | purseTopup => exact State.credited_of_ledgered hframe h (State.grant_ledgered hledger (fun _ u hu => State.topup_ledgered hu _))
  | limitsSet => exact State.credited_of_ledgered hframe h (State.grant_ledgered hledger (fun _ u hu => State.setLimits_ledgered hu _ _))
  | entitleFixture =>
    exact State.credited_of_ledgered hframe h
      (State.grant_ledgered hledger (fun _ u hu => State.ledgered_of_framed (u.entitleFixture_framed _) hu))
  | entitlePass =>
    exact State.credited_of_ledgered hframe h
      (State.grant_ledgered hledger (fun _ u hu => State.ledgered_of_framed (u.entitlePass_framed _) hu))
  | revokeFixture =>
    exact State.credited_of_ledgered hframe h
      (State.grant_ledgered hledger (fun _ u hu => State.ledgered_of_framed (u.revokeFixture_framed _) hu))
  | revokePass =>
    exact State.credited_of_ledgered hframe h
      (State.grant_ledgered hledger (fun _ u hu => State.ledgered_of_framed (u.revokePass_framed _) hu))
  | logAck => exact State.credited_of_ledgered hframe h (State.grant_ledgered hledger (fun _ u hu => State.acknowledge_ledgered hu _))
  | nightReset => exact State.credited_of_ledgered hframe h (State.grant_ledgered hledger (fun _ u hu => State.nightReset_ledgered hu))
  | buyFixture =>
    exact State.credited_of_ledgered hframe h
      (State.takeOrder_keeps hledger (fun _ _ hu => hu) (fun slot a _ => State.answerBuyFixture_ledgered hledger slot a))
  | buyPass =>
    exact State.credited_of_ledgered hframe h
      (State.takeOrder_keeps hledger (fun _ _ hu => hu) (fun slot a _ => State.answerBuyPass_ledgered hledger slot a))
  | cancel =>
    exact State.credited_of_ledgered hframe h
      (State.takeOrder_keeps hledger (fun _ _ hu => hu) (fun slot a _ => State.answerCancel_ledgered hledger slot a))
  | eepromSectionRead r => exact State.sectionRead_credited h r
  | eepromNoAcknowledge why => exact State.storeFails_credited h why
  | writePassStart =>
    change s.beginPass.credited
    unfold State.beginPass
    split
    · exact State.credited_of_store s.startPass_framed h (.inr s.startPass_storeSt)
    · exact h
  | pageWriteComplete => exact State.credited_of_store hframe h s.pageDone_storeSt
  | busArbitrationLoss => exact State.credited_of_store hframe.into h (.inl s.loseBus_storeSt)
  | transactionReissue => exact State.credited_of_store hframe h (.inl s.reissue_storeSt)
  | _ => exact State.credited_of_framed hframe h (by simp [footprint]) (by simp [footprint]) (by simp [footprint])

theorem cycle_credited (s : State) (h : s.credited) : s.busCycle.tick.credited :=
  State.credited_of_framed (State.tick_framed _) (State.credited_of_store s.busCycle_framed h s.busCycle_storeSt)

/-- Settles O4: purse and log are a ledger in every state, and every command keeps it. -/
theorem purseLawAndNumberingAreKept : Obligations.PurseLawAndNumberingAreKept := by
  intro s t hcredit hnumbered hstep
  refine (creditSound_iff t).mpr ?_
  exact step_keeps (I := State.credited) (W := fun _ => True) (fun _ _ hs => hs) cycle_credited (fun c u _ hu => after_credited c u hu)
    (fun _ _ _ => trivial) ((creditSound_iff s).mp ⟨hcredit, hnumbered⟩) hstep

end Sys2Proof.Machine

/-! Proofs: the requests in flight. No command adds a request but the one that takes it from the link; ready answers are returned in the step that makes them ready
(R144, R145). -/

namespace Sys2Proof.Machine

open Sys2Proof.Safety

set_option Elab.async false

/-! ### What an update leaves of the class lists -/

/-- Serial number and class of each request in flight, in arrival order: what the class lists consist of. -/
def requestKeys (es : List Inflight) : List (Nat × Cls) := es.map (fun e => (e.id, e.cls))

theorem requestKeys_map {f : Inflight → Inflight} (hf : ∀ e, (f e).id = e.id ∧ (f e).cls = e.cls) (es : List Inflight) :
    requestKeys (es.map f) = requestKeys es := by
  unfold requestKeys
  rw [List.map_map]
  exact List.map_congr_left (fun e _ => by simp [(hf e).1, (hf e).2])

/-- The requests in flight, the next serial number and the region map stand. -/
def requestsStand (s t : State) : Prop := t.path.inflight = s.path.inflight ∧ t.path.nextId = s.path.nextId ∧ mapKept s t

theorem requestsStand.refl (s : State) : requestsStand s s := ⟨rfl, rfl, rfl⟩

theorem requestsStand.trans {s t u : State} (h : requestsStand s t) (h' : requestsStand t u) : requestsStand s u :=
  ⟨h'.1.trans h.1, h'.2.1.trans h.2.1, Eq.trans h'.2.2 h.2.2⟩

theorem requestsStand_of_path {s t : State} (h : t.path = s.path) : requestsStand s t := by
  rw [requestsStand, mapKept, h]
  exact ⟨rfl, rfl, rfl⟩

/-- No request is added: those in flight afterwards were so before, in their order; no serial number is given, and the map stands. -/
def addsNoRequest (s t : State) : Prop :=
  (requestKeys t.path.inflight).Sublist (requestKeys s.path.inflight) ∧ t.path.nextId = s.path.nextId ∧ mapKept s t

theorem addsNoRequest.refl (s : State) : addsNoRequest s s := ⟨List.Sublist.refl _, rfl, rfl⟩

theorem addsNoRequest.trans {s t u : State} (h : addsNoRequest s t) (h' : addsNoRequest t u) : addsNoRequest s u :=
  ⟨h'.1.trans h.1, h'.2.1.trans h.2.1, Eq.trans h'.2.2 h.2.2⟩

theorem requestsStand.addsNoRequest {s t : State} (h : requestsStand s t) : addsNoRequest s t := by
  obtain ⟨hin, hid, hmap⟩ := h
  exact ⟨hin ▸ List.Sublist.refl _, hid, hmap⟩

theorem addsNoRequest_of_path {s t : State} (h : t.path = s.path) : addsNoRequest s t := (requestsStand_of_path h).addsNoRequest

theorem addsNoRequest_of_map {s t : State} {f : Inflight → Inflight} (hf : ∀ e, (f e).id = e.id ∧ (f e).cls = e.cls)
    (h : t.path.inflight = s.path.inflight.map f) (hid : t.path.nextId = s.path.nextId) (hmap : mapKept s t) : addsNoRequest s t := by
  rw [addsNoRequest, h, requestKeys_map hf]
  exact ⟨List.Sublist.refl _, hid, hmap⟩

theorem State.drain_addsNoRequest (s : State) : addsNoRequest s s.drain := ⟨(drainList_sublist _ _).map _, rfl, rfl⟩

theorem State.present_requestsStand (s : State) (es : List Emission) : requestsStand s (s.present es) := ⟨rfl, rfl, rfl⟩

theorem State.presentTogether_requestsStand (s : State) (es : List Emission) : requestsStand s (s.presentTogether es) := by
  obtain ⟨_, -, -, -, hmap, hin, hid, -⟩ := s.presentTogether_spec es
  exact ⟨hin, hid, hmap⟩

theorem State.presentTogether_addsNoRequest (s : State) (es : List Emission) : addsNoRequest s (s.presentTogether es) :=
  (s.presentTogether_requestsStand es).addsNoRequest

theorem State.popOwn_requestsStand (s : State) : requestsStand s s.popOwn := ⟨rfl, rfl, rfl⟩

theorem State.popOwn_addsNoRequest (s : State) : addsNoRequest s s.popOwn := s.popOwn_requestsStand.addsNoRequest

theorem State.setInflight_addsNoRequest (s : State) (id : Nat) (f : Inflight → Inflight) (hf : ∀ e, (f e).id = e.id ∧ (f e).cls = e.cls) :
    addsNoRequest s (s.setInflight id f) :=
  addsNoRequest_of_map (f := fun e => if e.id = id then f e else e) (fun e => by split <;> simp [hf e]) rfl rfl rfl

theorem State.settleHold_addsNoRequest (s : State) (r n : Nat) (h : Header) (v : Verdict) : addsNoRequest s (s.settleHold r n h v) :=
  addsNoRequest_of_map (f := fun e => { e with parts := e.parts.map (Part.endHold r n h v) }) (fun _ => ⟨rfl, rfl⟩) rfl rfl rfl

theorem State.finishHold_addsNoRequest (s : State) (r n : Nat) (h : Header) (v : Verdict) : addsNoRequest s (s.finishHold r n h v) := by
  rw [State.finishHold_eq]
  exact (s.settleHold_addsNoRequest r n h v).trans (State.presentTogether_addsNoRequest _ _)

theorem State.trackWrite_addsNoRequest (s : State) (touched : List (Nat × Nat)) (whole : Option (Nat × Nat)) (cell : List Byte) :
    addsNoRequest s (s.trackWrite touched whole cell) :=
  addsNoRequest_of_map (f := fun e => { e with parts := e.parts.map (Part.stale touched) }) (fun _ => ⟨rfl, rfl⟩) rfl rfl rfl

theorem fillHolds_addsNoRequest (svc : Service) (odd : Bool) (n : Period) (rs : List Slot) : ∀ s : State, addsNoRequest s (fillHolds svc odd n rs s) := by
  induction rs with
  | nil => exact addsNoRequest.refl
  | cons r rs ih =>
    intro s
    unfold fillHolds
    split
    · split
      · refine addsNoRequest.trans ?_ (ih _)
        unfold State.endHoldByFill
        split
        · exact (addsNoRequest_of_path ((s.updateKey_framed _ _).andThen (cs := [.keys, .fixtures]) (State.applyOrigin_framed _ _ _)).path).trans
            (State.finishHold_addsNoRequest _ _ _ _ _)
        · exact s.finishHold_addsNoRequest _ _ _ _
      · exact ih s
    · exact ih s

theorem State.completeKey_addsNoRequest (s : State) (cell : List Byte) : addsNoRequest s (State.completeKey cell s) := by
  unfold State.completeKey
  simp only []
  split
  · split
    · exact (addsNoRequest_of_path (s.updateKey_framed _ _).path).trans (fillHolds_addsNoRequest _ _ _ _ _)
    · exact addsNoRequest_of_path rfl
  · exact addsNoRequest.refl s

/-! ### The answers of memory, of the unit's own reads, and the ends of holds: what they return, they drain -/

/-- The state before ready answers are returned, or nothing happened at all (R145). -/
def drainedFrom (s t : State) : Prop := t = s ∨ ∃ u, addsNoRequest s u ∧ t = u.drain

theorem State.memoryAnswer_drained (s : State) (id : Nat) (a : Answer) : drainedFrom s (s.memoryAnswer id a) := by
  unfold State.memoryAnswer
  split
  · exact .inl rfl
  · rename_i e _
    split
    · exact .inl rfl
    · split
      · exact .inr ⟨_, s.setInflight_addsNoRequest id (fun e => { e with answer := some a, parts := [] }) (fun _ => ⟨rfl, rfl⟩), rfl⟩
      · refine .inr ⟨_, ?_, rfl⟩
        exact ((addsNoRequest_of_path (settleParts_framed e.parts s).path).trans
          (State.setInflight_addsNoRequest _ id (fun e' => { e' with answer := some a, parts := (settleParts e.parts s).1 }) (fun _ => ⟨rfl, rfl⟩))).trans
          (State.presentTogether_addsNoRequest _ _)

theorem State.slateAnswer_drained (s : State) (a : Answer) : drainedFrom s (s.slateAnswer a) := by
  unfold State.slateAnswer
  split
  · rename_i id region slot _ _
    exact .inr ⟨_, s.popOwn_addsNoRequest.trans
      (State.setInflight_addsNoRequest _ id (fun e => { e with parts := e.parts.map (supplySlate region slot a) }) (fun _ => ⟨rfl, rfl⟩)), rfl⟩
  · exact .inl rfl

theorem State.expireHold_drained (s : State) (r n : Nat) : drainedFrom s (s.expireHold r n) := by
  unfold State.expireHold
  split
  · exact .inr ⟨_, s.finishHold_addsNoRequest _ _ _ _, rfl⟩
  · exact .inl rfl

theorem execUnwrap_drained (s : State) : drainedFrom s (s.complete .key State.completeKey).drain := by
  refine .inr ⟨_, ?_, rfl⟩
  unfold State.complete
  split
  · exact (s.completeKey_addsNoRequest _).trans (addsNoRequest_of_path rfl)
  · exact addsNoRequest.refl s

/-! ### Own requests leave the class lists alone -/

theorem State.writeReport_requestsStand (s : State) (r : Report) : requestsStand s (s.writeReport r) := by
  unfold State.writeReport
  split
  · exact ⟨rfl, rfl, rfl⟩
  · exact requestsStand.refl s

theorem State.wake_requestsStand (s : State) : requestsStand s s.wake := requestsStand_of_path s.wake_framed.path

theorem State.completeArming_requestsStand (s : State) (a : Addr) : requestsStand s (s.completeArming a) := by
  unfold State.completeArming
  simp only []
  split <;> exact ⟨rfl, rfl, rfl⟩

theorem State.armWatch_requestsStand (s : State) (r : Request) : requestsStand s (s.armWatch r) := by
  unfold State.armWatch State.startRun
  split
  · exact requestsStand.refl s
  · split
    · exact ⟨rfl, rfl, rfl⟩
    · split
      · split
        · split
          · split
            · exact s.completeArming_requestsStand _
            · exact ⟨rfl, rfl, rfl⟩
          · exact ⟨rfl, rfl, rfl⟩
        · exact ⟨rfl, rfl, rfl⟩
      · exact ⟨rfl, rfl, rfl⟩

theorem State.showPlacement_requestsStand (s : State) (c : Cls) (r : Request) : requestsStand s (s.showPlacement c r) := by
  unfold State.showPlacement
  split
  · exact s.armWatch_requestsStand r
  · exact requestsStand.refl s

/-- A head read's answer, the commands of order unit and report writer, and an own write's acknowledgment: they leave the requests in flight and the map. -/
def leavesRequests : Instr → Bool
  | .ownWriteAck _ | .placementHeadReadAnswer _ | .orderFetch | .orderFetchAnswer _ | .placedReportWrite | .replyRecordWrite
  | .conditionWrite => true
  | _ => false

theorem after_requestsStand {c : Instr} (hc : leavesRequests c = true) (s : State) : requestsStand s (after c s) := by
  cases c with
  | ownWriteAck =>
    change requestsStand s s.writeAcked
    unfold State.writeAcked
    split <;> exact ⟨rfl, rfl, rfl⟩
  | placementHeadReadAnswer a =>
    change requestsStand s (s.headReturned a)
    unfold State.headReturned State.headAnswer
    split
    · simp only []
      repeat' split
      all_goals exact ⟨rfl, rfl, rfl⟩
    · exact requestsStand.refl s
  | orderFetch =>
    change requestsStand s s.fetchOrder
    unfold State.fetchOrder
    refine s.wake_requestsStand.trans ?_
    simp only []
    split
    · split <;> exact ⟨rfl, rfl, rfl⟩
    · exact ⟨rfl, rfl, rfl⟩
  | orderFetchAnswer a =>
    change requestsStand s (s.fetchReturned a)
    unfold State.fetchReturned State.fetchAnswer
    split
    · split <;> exact ⟨rfl, rfl, rfl⟩
    · exact requestsStand.refl s
  | placedReportWrite =>
    change requestsStand s s.writePlaced
    unfold State.writePlaced
    split
    · split
      · exact s.writeReport_requestsStand _
      · exact requestsStand.refl s
    · exact requestsStand.refl s
  | replyRecordWrite =>
    change requestsStand s s.writeReply
    unfold State.writeReply
    split
    · split
      · simp only []
        split
        · exact (s.writeReport_requestsStand _).trans
            (requestsStand_of_path ((State.withOrders_framed _ _).andThen (cs := [.orders]) (State.wake_framed _)).path)
        · exact s.writeReport_requestsStand _
      · exact requestsStand.refl s
    · exact requestsStand.refl s
  | conditionWrite =>
    change requestsStand s s.writeCondition
    unfold State.writeCondition
    split
    · split
      · exact s.writeReport_requestsStand _
      · exact requestsStand.refl s
    · exact requestsStand.refl s
  | _ => exact absurd hc (by simp [leavesRequests])

/-- A descriptor read's answer leaves the requests in flight too; the map it may set. -/
theorem State.descriptorsReturned_inflight (s : State) (a : Answer) :
    (s.descriptorsReturned a).path.inflight = s.path.inflight ∧ (s.descriptorsReturned a).path.nextId = s.path.nextId := by
  unfold State.descriptorsReturned State.descriptorAnswer
  split
  · simp only []
    split
    · exact ⟨rfl, rfl⟩
    split
    · exact ⟨rfl, rfl⟩
    · split <;> exact ⟨rfl, rfl⟩
  · exact ⟨rfl, rfl⟩

/-! ### A request taken (R144) -/

/-- A request joins the requests in flight of a state, which are otherwise those that stood; the next serial number is given. -/
def addsRequest (c : Cls) (s t : State) : Prop :=
  (requestKeys t.path.inflight).Sublist (requestKeys s.path.inflight ++ [(s.path.nextId, c)]) ∧ t.path.nextId = s.path.nextId + 1 ∧ mapKept s t

theorem addsRequest.then {c : Cls} {s t u : State} (h : addsRequest c s t) (h' : addsNoRequest t u) : addsRequest c s u :=
  ⟨h'.1.trans h.1, h'.2.1.trans h.2.1, Eq.trans h'.2.2 h.2.2⟩

theorem addsNoRequest.takeOn {s t : State} (h : addsNoRequest s t) (c : Cls) (req : Request) (parts : List Part) (answer : Option Answer) :
    addsRequest c s (t.takeOn c req parts answer) := by
  obtain ⟨hkeys, hid, hmap⟩ := h
  refine ⟨?_, congrArg (· + 1) hid, hmap⟩
  · change (requestKeys (t.path.inflight ++ [{ id := t.path.nextId, cls := c, req := req, parts := parts, answer := answer }])).Sublist _
    rw [requestKeys, List.map_append, List.map_singleton, hid]
    exact hkeys.append_right _

theorem State.takeRead_addsRequest (s : State) (c : Cls) (r : ReadReq) : addsRequest c s (s.takeRead c r) :=
  ((addsNoRequest.refl s).takeOn c _ _ _).then (State.presentTogether_addsNoRequest _ _)

/-- What a write does before it joins its class list: tracker, message engine, host index words and SHIELD_HIT (R144). -/
def State.writeShown (c : Cls) (w : WriteReq) (s : State) : State :=
  let kept := keptEnables s.path.regions c w
  let touched := touchedSlots s.path.regions w.addr kept
  let whole := wholeCellSlot s.path.regions w.addr kept
  State.bookShield c (lostAddrs s.path.regions c w)
    (State.notices c w kept (State.handOverWrite whole w.data (s.trackWrite touched whole w.data)))

/-- The requests that a taken write presents: itself unless no enable is left, and the slate reads of the held parts it settles (R147, R17). -/
def State.writePresents (s : State) (c : Cls) (w : WriteReq) : List Emission :=
  let kept := keptEnables s.path.regions c w
  (if kept.contains true then [Emission.forward s.path.nextId c (.write { w with cls := c, enables := kept })] else []) ++
    s.heldSlateReads (touchedSlots s.path.regions w.addr kept) 0

/-- The answer that a write has when it joins its class list: with no enable left it is acknowledged at once (R147). -/
def writeAnswer (kept : List Bool) : Option Answer := if kept.contains true then none else some { data := [], err := false }

theorem State.takeWrite_eq (s : State) (c : Cls) (w : WriteReq) :
    s.takeWrite c w = State.presentTogether (s.writePresents c w)
      ((s.writeShown c w).takeOn c (.write { w with cls := c, enables := keptEnables s.path.regions c w }) []
        (writeAnswer (keptEnables s.path.regions c w))) := rfl

theorem State.writeShown_path (s : State) (c : Cls) (w : WriteReq) :
    (s.writeShown c w).path = (s.trackWrite (touchedSlots s.path.regions w.addr (keptEnables s.path.regions c w))
      (wholeCellSlot s.path.regions w.addr (keptEnables s.path.regions c w)) w.data).path :=
  (((State.handOverWrite_framed _ _ _).andThen (cs := [.engine, .keys, .conds, .orders, .reports]) (State.notices_framed _ c w _)).andThen
    (cs := [.engine, .keys, .conds, .orders, .reports]) (State.bookShield_framed _ c _)).path

theorem State.takeWrite_addsRequest (s : State) (c : Cls) (w : WriteReq) : addsRequest c s (s.takeWrite c w) := by
  rw [State.takeWrite_eq]
  refine addsRequest.then (addsNoRequest.takeOn ?_ c _ _ _) (State.presentTogether_addsNoRequest _ _)
  exact (s.trackWrite_addsNoRequest _ _ _).trans (addsNoRequest_of_path (s.writeShown_path c w))

theorem State.takeRequest_full {s : State} {r : Request} (h : 32 ≤ (s.classList (handled (requestClass r))).length) : s.takeRequest r = s := by
  simp only [State.takeRequest, h, if_true]

theorem State.takeRequest_read {s : State} {r : ReadReq} (h : roomFor (handled r.cls) s) :
    s.takeRequest (.read r) = ((s.takeRead (handled r.cls) r).showPlacement (handled r.cls) (.read r)).drain := by
  simp only [State.takeRequest, requestClass, Nat.not_le.mpr h, if_false]

theorem State.takeRequest_write {s : State} {w : WriteReq} (h : roomFor (handled w.cls) s) :
    s.takeRequest (.write w) = ((s.takeWrite (handled w.cls) w).showPlacement (handled w.cls) (.write w)).drain := by
  simp only [State.takeRequest, requestClass, Nat.not_le.mpr h, if_false]

/-- R144: a request waits on the link, or joins its class list; ready answers then leave. -/
theorem State.takeRequest_adds (s : State) (r : Request) :
    s.takeRequest r = s ∨ (roomFor (handled (requestClass r)) s ∧ ∃ u, addsRequest (handled (requestClass r)) s u ∧ s.takeRequest r = u.drain) := by
  by_cases h : 32 ≤ (s.classList (handled (requestClass r))).length
  · exact .inl (State.takeRequest_full h)
  · have hroom : roomFor (handled (requestClass r)) s := Nat.lt_of_not_le h
    refine .inr ⟨hroom, ?_⟩
    cases r with
    | read q =>
      exact ⟨_, (s.takeRead_addsRequest _ q).then (State.showPlacement_requestsStand _ _ _).addsNoRequest, State.takeRequest_read hroom⟩
    | write w =>
      exact ⟨_, (s.takeWrite_addsRequest _ w).then (State.showPlacement_requestsStand _ _ _).addsNoRequest, State.takeRequest_write hroom⟩

/-! ### Every command, as the class lists see it -/

/-- A command that takes no request adds none; one that takes a request had room for it; and ready answers leave at its end (R144, R145). -/
def passesRequests (s t : State) : Prop :=
  requestsStand s t ∨ ∃ u, t = u.drain ∧ (addsNoRequest s u ∨ ∃ cls, roomFor cls s ∧ addsRequest cls s u)

theorem drainedFrom.passesRequests {s t : State} (h : drainedFrom s t) : passesRequests s t := by
  rcases h with rfl | ⟨u, hu, rfl⟩
  · exact .inl (requestsStand.refl _)
  · exact .inr ⟨u, rfl, .inl hu⟩

theorem State.takeRequest_passesRequests (s : State) (r : Request) : passesRequests s (s.takeRequest r) := by
  rcases s.takeRequest_adds r with h | ⟨hroom, u, hu, h⟩
  · rw [h]
    exact .inl (requestsStand.refl s)
  · exact .inr ⟨u, h, .inr ⟨_, hroom, hu⟩⟩

/-- The two resets empty the class lists and the map; a descriptor read's answer may set the map. -/
def setsMap : Instr → Bool
  | .powerOnReset | .linkReset | .placementDescriptorReadAnswer _ => true
  | _ => false

theorem after_passesRequests {c : Instr} (hc : setsMap c = false) (s : State) : passesRequests s (after c s) := by
  cases c with
  | powerOnReset | linkReset | placementDescriptorReadAnswer => exact absurd hc (by simp [setsMap])
  | upstreamRead r | gatedRead r => exact s.takeRequest_passesRequests (.read r)
  | upstreamWrite w | wholeCellWrite w | cellBreak w | orderProducerWrite w | reportConsumerWrite w =>
    exact s.takeRequest_passesRequests (.write w)
  | armingWrite r => exact s.takeRequest_passesRequests r
  | gatedReadAnswer id a | forwardedAnswer id a => exact (s.memoryAnswer_drained id a).passesRequests
  | slateReadAnswer a => exact (s.slateAnswer_drained a).passesRequests
  | holdTimerExpiry r n => exact (s.expireHold_drained r n).passesRequests
  | unwrapCompletion => exact (execUnwrap_drained s).passesRequests
  | ownWriteAck | placementHeadReadAnswer | orderFetch | orderFetchAnswer | placedReportWrite | replyRecordWrite | conditionWrite =>
    exact .inl (after_requestsStand rfl s)
  | _ => exact .inl (requestsStand_of_path ((after_framed _ s).path (by simp [footprint, restoreBlocks])))

theorem passesRequests.mapKept {s t : State} (h : passesRequests s t) : mapKept s t := by
  rcases h with ⟨-, -, h⟩ | ⟨u, rfl, ⟨-, -, h⟩ | ⟨_, -, -, -, h⟩⟩
  · exact h
  · exact Eq.trans (u.drain_addsNoRequest).2.2 h
  · exact Eq.trans (u.drain_addsNoRequest).2.2 h

/-- What any command does to the requests in flight. -/
theorem after_requests (c : Instr) (s : State) :
    (after c s).path.inflight = [] ∨ ((after c s).path.inflight = s.path.inflight ∧ (after c s).path.nextId = s.path.nextId) ∨
      ∃ u, after c s = u.drain ∧ (addsNoRequest s u ∨ ∃ cls, roomFor cls s ∧ addsRequest cls s u) := by
  cases hc : setsMap c with
  | false =>
    rcases after_passesRequests hc s with ⟨hin, hid, -⟩ | h
    · exact .inr (.inl ⟨hin, hid⟩)
    · exact .inr (.inr h)
  | true =>
    cases c with
    | powerOnReset | linkReset => exact .inl rfl
    | placementDescriptorReadAnswer a => exact .inr (.inl (s.descriptorsReturned_inflight a))
    | _ => exact absurd hc (by simp [setsMap])

/-! ### No ready answer stays the oldest, and serial numbers stay distinct (R144, R145) -/

theorem noReadyOldest_of_inflight {s t : State} (h : t.path.inflight = s.path.inflight) (hs : NoReadyOldest s) : NoReadyOldest t := by
  intro c e he
  rw [State.classList, h] at he
  exact hs c e he

theorem State.drain_noReadyOldest (s : State) : NoReadyOldest s.drain := by
  intro c e he
  obtain ⟨_, -, -, -, hhead, -⟩ := drainList_spec c s.path.inflight []
  exact hhead (by simp) e he

theorem after_noReadyOldest (c : Instr) (s : State) (h : NoReadyOldest s) : NoReadyOldest (after c s) := by
  rcases after_requests c s with hin | ⟨hin, -⟩ | ⟨u, hu, -⟩
  · intro c e he
    simp [State.classList, hin] at he
  · exact noReadyOldest_of_inflight hin h
  · exact hu ▸ u.drain_noReadyOldest

/-- Distinct numbers below the next, of the keys alone. -/
def keysNumbered (ks : List (Nat × Cls)) (next : Nat) : Prop := (ks.map Prod.fst).Nodup ∧ ∀ k ∈ ks, k.1 < next

theorem requestsNumbered_iff (s : State) : RequestsNumbered s ↔ keysNumbered (requestKeys s.path.inflight) s.path.nextId := by
  simp [RequestsNumbered, keysNumbered, requestKeys, Function.comp_def]

theorem keysNumbered.thinned {ks ls : List (Nat × Cls)} {next : Nat} (h : keysNumbered ks next) (hsub : ls.Sublist ks) : keysNumbered ls next :=
  ⟨h.1.sublist (hsub.map _), fun k hk => h.2 k (hsub.subset hk)⟩

theorem keysNumbered.added {ks : List (Nat × Cls)} {next : Nat} (h : keysNumbered ks next) (c : Cls) : keysNumbered (ks ++ [(next, c)]) (next + 1) := by
  constructor
  · rw [List.map_append, List.nodup_append]
    refine ⟨h.1, by simp, ?_⟩
    rintro a ha b hb rfl
    obtain ⟨k, hk, rfl⟩ := List.mem_map.mp ha
    exact absurd (h.2 k hk) (by rw [List.mem_singleton.mp hb]; exact Nat.lt_irrefl _)
  · intro k hk
    rcases List.mem_append.mp hk with hk | hk
    · exact Nat.lt_succ_of_lt (h.2 k hk)
    · rw [List.mem_singleton.mp hk]
      exact Nat.lt_succ_self _

theorem after_numbered (c : Instr) (s : State) (h : RequestsNumbered s) : RequestsNumbered (after c s) := by
  rw [requestsNumbered_iff] at h
  rcases after_requests c s with hin | ⟨hin, hid⟩ | ⟨u, hu, hadd⟩
  · rw [requestsNumbered_iff, hin]; exact ⟨List.nodup_nil, fun _ hk => nomatch hk⟩
  · rw [requestsNumbered_iff, hin, hid]; exact h
  · rw [hu]
    refine State.drain_numbered u ((requestsNumbered_iff u).mpr ?_)
    rcases hadd with ⟨hsub, hid, -⟩ | ⟨cls, -, hsub, hid, -⟩
    · rw [hid]; exact h.thinned hsub
    · rw [hid]; exact (h.added cls).thinned hsub

/-- Settles O11: a command either leaves the class lists or ends with the drain; a request taken gets the next number. -/
theorem readyAnswersAreReturned : Obligations.ReadyAnswersAreReturned := by
  constructor
  · intro s t hs hstep
    exact step_keeps (I := NoReadyOldest) (W := fun _ => True) (fun _ _ h => h) (fun u hu => noReadyOldest_of_inflight (by rw [u.cycle_framed.path]) hu)
      (fun c u _ hu => after_noReadyOldest c u hu) (fun _ _ _ => trivial) hs hstep
  · intro s t hs hstep
    exact step_keeps (I := RequestsNumbered) (W := fun _ => True) (fun _ _ h => h)
      (fun u hu => by rw [RequestsNumbered, u.cycle_framed.path]; exact hu)
      (fun c u _ hu => after_numbered c u hu) (fun _ _ _ => trivial) hs hstep

/-- The class list of a class holds at most as many as the keys of that class. -/
theorem State.classList_length (s : State) (c : Cls) : (s.classList c).length = (requestKeys s.path.inflight).countP (fun k => k.2 == c) := by
  rw [State.classList, ← List.countP_eq_length_filter, requestKeys, List.countP_map]
  rfl

/-- Table 0-4: a class list holds at most 32 requests, since a request is taken only with room. -/
theorem after_classList (c : Instr) (s : State) (h : ∀ cls, (s.classList cls).length ≤ 32) : ∀ cls, ((after c s).classList cls).length ≤ 32 := by
  intro cls
  have hs := h cls
  rw [State.classList_length] at hs ⊢
  rcases after_requests c s with hin | ⟨hin, -⟩ | ⟨u, hu, hadd⟩
  · rw [hin]; exact Nat.zero_le _
  · rw [hin]; exact hs
  · rw [hu]
    refine Nat.le_trans (u.drain_addsNoRequest.1.countP_le) ?_
    rcases hadd with ⟨hsub, -⟩ | ⟨cls', hroom, hsub, -⟩
    · exact Nat.le_trans hsub.countP_le hs
    · refine Nat.le_trans hsub.countP_le ?_
      rw [roomFor, State.classList_length] at hroom
      rw [List.countP_append]
      by_cases heq : cls' = cls
      · subst heq
        simp
        omega
      · simp [heq]
        omega

end Sys2Proof.Machine

/-! Proofs: the placement unit (chapter 10). What a record that passes its checks gives, and what stands with each placement state. -/

namespace Sys2Proof.Machine

open Sys2Proof.Safety

set_option Elab.async false

/-! ### The placement record (R158) -/

/-- A region as a record that passes its checks gives it (R158, Table 10-1). -/
def regionSound (r : Region) : Prop :=
  r.base.toNat % 128 = 0 ∧ r.size % 128 = 0 ∧ 0 < r.size ∧ r.base.toNat + r.size ≤ 4294967296 ∧ sizeAllowed r.kind r.size = true

/-- Two regions share no byte. -/
def regionsApart (a b : Region) : Prop := a.base.toNat + a.size ≤ b.base.toNat ∨ b.base.toNat + b.size ≤ a.base.toNat

theorem acceptRegion_some {lower : List Region} {d : Descriptor} {r : Region} (h : acceptRegion lower d = some r) :
    regionSound r ∧ regionKind d.kind = some r.kind ∧ r.writers = d.writers ∧ r.readers = d.readers ∧ r.base = d.base ∧ r.size = d.size.toNat := by
  unfold acceptRegion at h
  split at h
  · cases h
  · rename_i k hk
    split at h
    · rename_i hok
      obtain ⟨hbase, hpos, hsize, hend, hallowed, -⟩ := hok
      cases h
      exact ⟨⟨hbase, hsize, Nat.pos_of_ne_zero hpos, hend, hallowed⟩, hk, rfl, rfl, rfl, rfl⟩
    · cases h

theorem regionsApart_of_not_overlaps {a b : Region} (h : a.overlaps b = false) : regionsApart a b := by
  simp only [Region.overlaps, Bool.and_eq_false_iff, decide_eq_false_iff_not, Nat.not_lt] at h
  exact h.symm

/-- The descriptor scan accepts one region for each descriptor, each sound and apart from those before it (R158). -/
theorem scanFrom_ok (ds : List Descriptor) : ∀ {lower rs : List Region}, scanFrom lower ds = .ok rs →
    (∀ r ∈ lower, regionSound r) → lower.Pairwise (fun a b => regionsApart b a) →
    (∀ r ∈ rs, regionSound r) ∧ rs.Pairwise (fun a b => regionsApart b a) ∧ rs.length = lower.length + ds.length := by
  induction ds with
  | nil =>
    intro lower rs h hsound hapart
    cases h
    exact ⟨hsound, hapart, rfl⟩
  | cons d ds ih =>
    intro lower rs h hsound hapart
    unfold scanFrom at h
    split at h
    · cases h
    · rename_i r hr
      split at h
      · cases h
      · rename_i hover
        have hnew : ∀ q ∈ lower, regionsApart r q := fun q hq =>
          regionsApart_of_not_overlaps (by simpa using fun ho => hover (List.any_eq_true.mpr ⟨q, hq, ho⟩))
        obtain ⟨h1, h2, h3⟩ := ih h
          (fun q hq => by
            rcases List.mem_append.mp hq with hq | hq
            · exact hsound q hq
            · rw [List.mem_singleton.mp hq]; exact (acceptRegion_some hr).1)
          (List.pairwise_append.mpr ⟨hapart, List.pairwise_singleton _ _, fun a ha b hb => by rw [List.mem_singleton.mp hb]; exact hnew a ha⟩)
        exact ⟨h1, h2, by rw [h3, List.length_append, List.length_singleton, List.length_cons]; omega⟩

/-- What a record that passes gives: its descriptors' regions, sound and apart, one ring of each needed kind, and at most 4,096 cells (R158). -/
theorem checkRecord_ok {head ds : List Byte} {rs : List Region} (h : checkRecord head ds = .ok rs) :
    (∀ r ∈ rs, regionSound r) ∧ rs.Pairwise (fun a b => regionsApart b a) ∧ rs.length = headCount head ∧
      (hasKind rs .cellRing = true ∧ hasKind rs .slate = true ∧ hasKind rs .orderRing = true ∧ hasKind rs .reportRing = true) ∧
      totalCells rs ≤ 4096 := by
  unfold checkRecord at h
  obtain ⟨hsum, h⟩ := of_ite_ne h nofun
  split at h
  · cases h
  · rename_i rs' hscan
    obtain ⟨hkinds, h⟩ := of_ite_ne h nofun
    obtain ⟨hcells, h⟩ := of_ite_ne h nofun
    cases h
    obtain ⟨h1, h2, h3⟩ := scanFrom_ok _ hscan (fun _ hr => nomatch hr) List.Pairwise.nil
    refine ⟨h1, h2, by simpa using h3, ?_, Nat.le_of_not_lt hcells⟩
    simpa [and_assoc] using hkinds

theorem mapSound_of_checkRecord {head ds : List Byte} {rs : List Region} (h : checkRecord head ds = .ok rs) : mapSound rs := by
  obtain ⟨hsound, hapart, -⟩ := checkRecord_ok h
  refine ⟨fun r hr => ?_, hapart.imp (fun hab => hab.symm)⟩
  obtain ⟨hbase, hsize, hpos, hend, -⟩ := hsound r hr
  exact ⟨hbase, hsize, hpos, hend⟩

theorem mapSound_nil : mapSound [] := ⟨fun _ hr => (nomatch hr), List.Pairwise.nil⟩

/-- A fresh view of a ring of the map: its capacity is (size - 128) / 64, within the bounds that the sizes of Table 10-1 give (R160). -/
theorem ringView_sound {rs : List Region} {k : RegionKind} {lo : Nat} (hkind : hasKind rs k = true) (hsound : ∀ r ∈ rs, regionSound r)
    (hlo : 0 < lo) (hsize : ∀ n, sizeAllowed k n = true → 64 * lo + 128 ≤ n ∧ n ≤ 16512) : ∃ v, ringView rs k = some v ∧ viewSound lo v := by
  obtain ⟨r, hr, hrk⟩ := List.any_eq_true.mp hkind
  cases hf : rs.find? (fun r => r.kind == k) with
  | none => exact absurd hrk (List.find?_eq_none.mp hf r hr)
  | some g =>
    have hgk : g.kind = k := by simpa using List.find?_some hf
    obtain ⟨-, -, -, -, hallowed⟩ := hsound g (List.mem_of_find?_eq_some hf)
    obtain ⟨hmin, hmax⟩ := hsize g.size (hgk ▸ hallowed)
    refine ⟨_, by rw [ringView, hf]; rfl, ?_⟩
    simp only [viewSound]
    omega

theorem orderView_sound {head ds : List Byte} {rs : List Region} (h : checkRecord head ds = .ok rs) :
    ∃ v, ringView rs .orderRing = some v ∧ viewSound 4 v := by
  obtain ⟨hsound, -, -, ⟨-, -, hkind, -⟩, -⟩ := checkRecord_ok h
  exact ringView_sound hkind hsound (by decide) (fun n hn => by simp [sizeAllowed] at hn; omega)

theorem reportView_sound {head ds : List Byte} {rs : List Region} (h : checkRecord head ds = .ok rs) :
    ∃ v, ringView rs .reportRing = some v ∧ viewSound 16 v := by
  obtain ⟨hsound, -, -, ⟨-, -, -, hkind⟩, -⟩ := checkRecord_ok h
  exact ringView_sound hkind hsound (by decide) (fun n hn => by simp [sizeAllowed] at hn; omega)

/-! ### Order unit and report writer through any step -/

/-- The order unit of a part that is not PLACED: no view and IDLE. -/
def OrderUnit.bare (o : OrderUnit) : Prop := o.view = none ∧ o.st = .idle

/-- The order unit of a part that is PLACED: a sound view (R162). -/
def OrderUnit.viewed (o : OrderUnit) : Prop := ∃ v, o.view = some v ∧ viewSound 4 v

/-- The report writer of a part that is not PLACED: no view and no PLACED report. -/
def ReportWriter.bare (r : ReportWriter) : Prop := r.view = none ∧ r.placed = none

/-- The report writer of a part that is PLACED: a sound view (R168). -/
def ReportWriter.viewed (r : ReportWriter) : Prop := ∃ v, r.view = some v ∧ viewSound 16 v

/-- What the rings' units keep in every step that neither places the part nor resets it: both a bare unit and a sound view stay so. -/
structure ringsKept (s t : State) : Prop where
  ordersBare : s.orders.bare → t.orders.bare
  ordersViewed : s.orders.viewed → t.orders.viewed
  reportsBare : s.reports.bare → t.reports.bare
  reportsViewed : s.reports.viewed → t.reports.viewed

theorem ringsKept.refl (s : State) : ringsKept s s := ⟨id, id, id, id⟩

theorem ringsKept.trans {s t u : State} (h : ringsKept s t) (h' : ringsKept t u) : ringsKept s u :=
  ⟨h'.1 ∘ h.1, h'.2 ∘ h.2, h'.3 ∘ h.3, h'.4 ∘ h.4⟩

theorem ringsKept_of_same {s t : State} (ho : t.orders = s.orders) (hr : t.reports = s.reports) : ringsKept s t :=
  ⟨fun h => ho ▸ h, fun h => ho ▸ h, fun h => hr ▸ h, fun h => hr ▸ h⟩

theorem ringsKept_of_framed {bs : List Block} {s t : State} (h : framed bs s t) (ho : .orders ∉ bs := by decide) (hr : .reports ∉ bs := by decide) :
    ringsKept s t :=
  ringsKept_of_same (h.orders ho) (h.reports hr)

/-- A change of the order unit alone. -/
theorem ringsKept_of_orders {s t : State} (hr : t.reports = s.reports) (hbare : s.orders.bare → t.orders.bare)
    (hviewed : s.orders.viewed → t.orders.viewed) : ringsKept s t :=
  ⟨hbare, hviewed, fun h => hr ▸ h, fun h => hr ▸ h⟩

/-- A change of the report writer alone. -/
theorem ringsKept_of_reports {s t : State} (ho : t.orders = s.orders) (hbare : s.reports.bare → t.reports.bare)
    (hviewed : s.reports.viewed → t.reports.viewed) : ringsKept s t :=
  ⟨fun h => ho ▸ h, fun h => ho ▸ h, hbare, hviewed⟩

theorem OrderUnit.not_bare_of_view {o : OrderUnit} {v : RingView} (h : o.view = some v) : ¬ o.bare := fun hb => by simp [hb.1] at h

theorem ReportWriter.not_bare_of_view {r : ReportWriter} {v : RingView} (h : r.view = some v) : ¬ r.bare := fun hb => by simp [hb.1] at h

/-- The order unit's view is the one that stood, and it was not bare. -/
theorem ringsKept_of_orderSt {s t : State} (hr : t.reports = s.reports) (hview : t.orders.view = s.orders.view) (hnot : ¬ s.orders.bare) :
    ringsKept s t :=
  ringsKept_of_orders hr (fun h => absurd h hnot) (fun ⟨v, hv, hs⟩ => ⟨v, hview.trans hv, hs⟩)

theorem State.wake_ringsKept (s : State) : ringsKept s s.wake := by
  unfold State.wake
  split
  · rename_i v _ hv
    split
    · exact ringsKept_of_orderSt rfl rfl (OrderUnit.not_bare_of_view hv)
    · exact ringsKept.refl s
  · exact ringsKept.refl s

theorem RingView.produced_sound {lo : Nat} {v : RingView} (h : viewSound lo v) : viewSound lo v.produced := by
  obtain ⟨hlo, hhi, hprod, hcons⟩ := h
  exact ⟨hlo, hhi, Nat.mod_lt _ (by omega), hcons⟩

theorem State.writeReport_ringsKept (s : State) (r : Report) : ringsKept s (s.writeReport r) := by
  unfold State.writeReport
  split
  · rename_i v hv
    refine ringsKept_of_reports rfl (fun h => absurd h (ReportWriter.not_bare_of_view hv)) ?_
    rintro ⟨v', hv', hs⟩
    obtain rfl : v = v' := by simpa [hv] using hv'
    exact ⟨_, rfl, RingView.produced_sound hs⟩
  · exact ringsKept.refl s

theorem State.setOrderProducer_ringsKept (s : State) (v : BitVec 32) : ringsKept s (s.setOrderProducer v) := by
  unfold State.setOrderProducer
  split
  · rename_i w hw
    split
    · exact ringsKept_of_same rfl rfl
    · rename_i hcap
      have hnot := OrderUnit.not_bare_of_view hw
      have hproduced : ∀ st, ringsKept s { s with orders := { st := st, view := some { w with prod := v.toNat } } } := fun st => by
        refine ringsKept_of_orders rfl (fun h => absurd h hnot) ?_
        rintro ⟨w', hw', hs⟩
        obtain rfl : w = w' := by simpa [hw] using hw'
        obtain ⟨hlo, hhi, -, hcons⟩ := hs
        exact ⟨_, rfl, hlo, hhi, Nat.lt_of_not_le hcap, hcons⟩
      simp only []
      split
      · exact hproduced _
      · exact (hproduced s.orders.st).trans (State.wake_ringsKept _)
  · exact ringsKept.refl s

theorem State.setReportConsumer_ringsKept (s : State) (v : BitVec 32) : ringsKept s (s.setReportConsumer v) := by
  unfold State.setReportConsumer
  split
  · rename_i w hw
    split
    · exact ringsKept_of_same rfl rfl
    · rename_i hcap
      refine ringsKept_of_reports rfl (fun h => absurd h (ReportWriter.not_bare_of_view hw)) ?_
      rintro ⟨w', hw', hs⟩
      obtain rfl : w = w' := by simpa [hw] using hw'
      obtain ⟨hlo, hhi, hprod, -⟩ := hs
      exact ⟨_, rfl, hlo, hhi, hprod, Nat.lt_of_not_le hcap⟩
  · exact ringsKept.refl s

theorem State.notices_ringsKept (s : State) (c : Cls) (w : WriteReq) (kept : List Bool) : ringsKept s (s.notices c w kept) := by
  have horder : ringsKept s (s.noticeOrder w kept) := by
    unfold State.noticeOrder
    split
    · split
      · exact s.setOrderProducer_ringsKept _
      · exact ringsKept.refl s
    · exact ringsKept.refl s
  have hreport : ∀ u : State, ringsKept u (u.noticeReport w kept) := fun u => by
    unfold State.noticeReport
    split
    · split
      · exact u.setReportConsumer_ringsKept _
      · exact ringsKept.refl u
    · exact ringsKept.refl u
  unfold State.notices
  split
  · exact horder.trans (hreport _)
  · exact ringsKept.refl s

theorem State.takeRequest_ringsKept (s : State) (r : Request) : ringsKept s (s.takeRequest r) := by
  by_cases hroom : roomFor (handled (requestClass r)) s
  · have hafter : ∀ u : State, ringsKept u (u.showPlacement (handled (requestClass r)) r).drain := fun u =>
      ringsKept_of_framed ((u.showPlacement_framed _ r).andThen (cs := [.placement, .emitted, .path]) (State.drain_framed _))
    cases r with
    | read q =>
      rw [State.takeRequest_read hroom]
      exact (ringsKept_of_framed (s.takeRead_framed _ q)).trans (hafter _)
    | write w =>
      rw [State.takeRequest_write hroom, State.takeWrite_eq]
      refine ringsKept.trans ?_ (hafter _)
      refine ringsKept.trans ?_ (ringsKept_of_framed ((State.takeOn_framed _ _ _ _ _).andThen (cs := [.path, .emitted]) (State.presentTogether_framed _ _)))
      exact ((ringsKept_of_framed ((s.trackWrite_framed _ _ _).andThen (cs := [.slots, .path, .engine, .keys, .conds]) (State.handOverWrite_framed _ _ _))).trans
        (State.notices_ringsKept _ _ _ _)).trans (ringsKept_of_framed (State.bookShield_framed _ _ _))
  · rw [State.takeRequest_full (Nat.le_of_not_lt hroom)]
    exact ringsKept.refl s

theorem State.fetchOrder_ringsKept (s : State) : ringsKept s s.fetchOrder := by
  unfold State.fetchOrder
  refine s.wake_ringsKept.trans ?_
  simp only []
  split
  · rename_i v _ hv
    split
    · refine ringsKept_of_orders rfl (fun h => absurd h (OrderUnit.not_bare_of_view hv)) ?_
      rintro ⟨v', hv', hs⟩
      obtain rfl : v = v' := by simpa [hv] using hv'
      obtain ⟨hlo, hhi, hprod, hcons⟩ := hs
      exact ⟨_, rfl, hlo, hhi, hprod, Nat.mod_lt _ (by omega)⟩
    · exact ringsKept.refl _
  · exact ringsKept.refl _

theorem State.fetchReturned_ringsKept (s : State) (a : Answer) : ringsKept s (s.fetchReturned a) := by
  unfold State.fetchReturned State.fetchAnswer
  split
  · split
    · rename_i hv
      exact ringsKept_of_orderSt rfl rfl (OrderUnit.not_bare_of_view hv)
    · exact ringsKept_of_same rfl rfl
  · exact ringsKept.refl s

theorem State.takeOrder_ringsKept {s : State} {is : Answer → Bool} {need : Nat} {f : Nat → Answer → State → List Report × State} {bs : List Block}
    (hf : ∀ slot a s, framed bs s (f slot a s).2) (ho : .orders ∉ bs := by decide) (hr : .reports ∉ bs := by decide) :
    ringsKept s (s.takeOrder is need f) := by
  unfold State.takeOrder
  split
  · rename_i slot a hst
    split
    · have hview : (f slot a s).2.orders.view = s.orders.view := congrArg OrderUnit.view ((hf slot a s).orders ho)
      exact ringsKept_of_orderSt ((hf slot a s).reports hr) hview (fun h => by simp [h.2] at hst)
    · exact ringsKept.refl s
  · exact ringsKept.refl s

theorem State.writePlaced_ringsKept (s : State) : ringsKept s s.writePlaced := by
  unfold State.writePlaced
  split
  · split
    · exact (s.writeReport_ringsKept _).trans (ringsKept_of_reports rfl (fun h => ⟨h.1, rfl⟩) (fun h => h))
    · exact ringsKept.refl s
  · exact ringsKept.refl s

theorem State.writeReply_ringsKept (s : State) : ringsKept s s.writeReply := by
  unfold State.writeReply
  split
  · rename_i r rest hst
    have hnot : ¬ (s.writeReport r).orders.bare := fun h => by
      rw [(s.writeReport_framed r).orders] at h
      simp [h.2] at hst
    split
    · refine (s.writeReport_ringsKept r).trans ?_
      simp only []
      split
      · refine ringsKept.trans ?_ (State.wake_ringsKept _)
        exact ringsKept_of_orderSt rfl rfl hnot
      · exact ringsKept_of_orderSt rfl rfl hnot
    · exact ringsKept.refl s
  · exact ringsKept.refl s

theorem State.writeCondition_ringsKept (s : State) : ringsKept s s.writeCondition := by
  unfold State.writeCondition
  split
  · split
    · exact (s.writeReport_ringsKept _).trans (ringsKept_of_framed (State.unbook_framed _ _))
    · exact ringsKept.refl s
  · exact ringsKept.refl s

/-- A reset, a descriptor read's answer and the end of a restore set views or reports anew; every other command keeps what the rings' units rest on. -/
def setsRings : Instr → Bool
  | .powerOnReset | .linkReset | .placementDescriptorReadAnswer _ | .eepromSectionRead _ | .eepromNoAcknowledge _ => true
  | _ => false

theorem after_ringsKept {c : Instr} (hc : setsRings c = false) (s : State) : ringsKept s (after c s) := by
  cases c with
  | powerOnReset | linkReset | placementDescriptorReadAnswer | eepromSectionRead | eepromNoAcknowledge => exact absurd hc (by simp [setsRings])
  | upstreamRead | upstreamWrite | wholeCellWrite | cellBreak | gatedRead | armingWrite | orderProducerWrite | reportConsumerWrite =>
    exact s.takeRequest_ringsKept _
  | orderFetch => exact s.fetchOrder_ringsKept
  | orderFetchAnswer a => exact s.fetchReturned_ringsKept a
  | buyFixture => exact State.takeOrder_ringsKept (fun slot a s => s.answerBuyFixture_framed slot a)
  | buyPass => exact State.takeOrder_ringsKept (fun slot a s => s.answerBuyPass_framed slot a)
  | cancel => exact State.takeOrder_ringsKept (fun slot a s => s.answerCancel_framed slot a)
  | quote | quotePass | purse | logRead | fixtureList => exact State.takeOrder_ringsKept (bs := []) (fun _ _ s => framed.refl [] s)
  | badOrder => exact State.takeOrder_ringsKept (bs := []) (fun slot a s => by rw [s.answerBadOrder_state slot a]; exact framed.refl [] s)
  | placedReportWrite => exact s.writePlaced_ringsKept
  | replyRecordWrite => exact s.writeReply_ringsKept
  | conditionWrite => exact s.writeCondition_ringsKept
  | _ => exact ringsKept_of_framed (after_framed _ s) (by simp [footprint]) (by simp [footprint])

/-! ### The slot table: its records stay, whatever they hold -/

/-- Ring and number of each slot record. -/
def slotKeys (s : State) : List (Nat × Nat) := s.slots.map (fun x => (x.region, x.number))

theorem slotKeys_of_map {s t : State} {f : Slot → Slot} (hf : ∀ x, (f x).region = x.region ∧ (f x).number = x.number)
    (h : t.slots = s.slots.map f) : slotKeys t = slotKeys s := by
  rw [slotKeys, h, List.map_map]
  exact List.map_congr_left (fun x _ => by simp [(hf x).1, (hf x).2])

theorem slotKeys_of_framed {bs : List Block} {s t : State} (h : framed bs s t) (hb : .slots ∉ bs := by decide) : slotKeys t = slotKeys s := by
  rw [slotKeys, h.slots hb, slotKeys]

theorem State.latch_slotKeys (s : State) (r n : Nat) (v : Verdict) : slotKeys (s.latch r n v) = slotKeys s :=
  slotKeys_of_map (fun x => by split <;> (try split) <;> exact ⟨rfl, rfl⟩) rfl

theorem State.trackWrite_slotKeys (s : State) (touched : List (Nat × Nat)) (whole : Option (Nat × Nat)) (cell : List Byte) :
    slotKeys (s.trackWrite touched whole cell) = slotKeys s :=
  slotKeys_of_map (fun x => by unfold Slot.afterWrite; split <;> (try split) <;> exact ⟨rfl, rfl⟩) rfl

theorem settleParts_slotKeys (ps : List Part) : ∀ s : State, slotKeys (settleParts ps s).2 = slotKeys s := by
  induction ps with
  | nil => exact fun _ => rfl
  | cons p ps ih =>
    intro s
    refine (ih _).trans ?_
    unfold settlePart
    split
    · rfl
    · split
      · exact (State.latch_slotKeys _ _ _ _).trans (slotKeys_of_framed (s.runChain_framed _))
      · rfl
      · rfl
    · rfl

theorem State.finishHold_slotKeys (s : State) (r n : Nat) (h : Header) (v : Verdict) : slotKeys (s.finishHold r n h v) = slotKeys s := by
  rw [State.finishHold_eq]
  exact (slotKeys_of_framed (State.presentTogether_framed _ _)).trans (s.latch_slotKeys r n v)

theorem fillHolds_slotKeys (svc : Service) (odd : Bool) (n : Period) (rs : List Slot) : ∀ s : State, slotKeys (fillHolds svc odd n rs s) = slotKeys s := by
  induction rs with
  | nil => exact fun _ => rfl
  | cons r rs ih =>
    intro s
    unfold fillHolds
    split
    · split
      · refine (ih _).trans ?_
        unfold State.endHoldByFill
        split
        · exact (State.finishHold_slotKeys _ _ _ _ _).trans
            (slotKeys_of_framed ((s.updateKey_framed _ _).andThen (cs := [.keys, .fixtures]) (State.applyOrigin_framed _ _ _)))
        · exact s.finishHold_slotKeys _ _ _ _
      · exact ih s
    · exact ih s

/-- Only a reset or a placement replaces the slot table's records (R2, R22). -/
theorem after_slotKeys {c : Instr} (hc : setsMap c = false) (s : State) : slotKeys (after c s) = slotKeys s := by
  have htaken : ∀ r, slotKeys (s.takeRequest r) = slotKeys s := by
    intro r
    by_cases hroom : roomFor (handled (requestClass r)) s
    · have hafter : ∀ u : State, slotKeys (u.showPlacement (handled (requestClass r)) r).drain = slotKeys u := fun u =>
        slotKeys_of_framed ((u.showPlacement_framed _ r).andThen (cs := [.placement, .emitted, .path]) (State.drain_framed _))
      cases r with
      | read q =>
        rw [State.takeRequest_read hroom]
        exact (hafter _).trans (slotKeys_of_framed (s.takeRead_framed _ q))
      | write w =>
        rw [State.takeRequest_write hroom, State.takeWrite_eq]
        refine (hafter _).trans ?_
        refine (slotKeys_of_framed ((State.takeOn_framed _ _ _ _ _).andThen (cs := [.path, .emitted]) (State.presentTogether_framed _ _))).trans ?_
        refine (slotKeys_of_framed (((State.handOverWrite_framed _ _ _).andThen (cs := [.engine, .keys, .conds, .orders, .reports])
          (State.notices_framed _ _ _ _)).andThen (cs := [.engine, .keys, .conds, .orders, .reports]) (State.bookShield_framed _ _ _))).trans ?_
        exact s.trackWrite_slotKeys _ _ _
    · rw [State.takeRequest_full (Nat.le_of_not_lt hroom)]
  have hanswer : ∀ id a, slotKeys (s.memoryAnswer id a) = slotKeys s := by
    intro id a
    unfold State.memoryAnswer
    split
    · rfl
    · split
      · rfl
      · split
        · rfl
        · exact (slotKeys_of_framed ((State.presentTogether_framed _ _).andThen (cs := [.emitted, .path]) (State.drain_framed _))).trans
            (settleParts_slotKeys _ s)
  cases c with
  | powerOnReset | linkReset | placementDescriptorReadAnswer => exact absurd hc (by simp [setsMap])
  | upstreamRead | upstreamWrite | wholeCellWrite | cellBreak | gatedRead | armingWrite | orderProducerWrite | reportConsumerWrite => exact htaken _
  | gatedReadAnswer id a | forwardedAnswer id a => exact hanswer id a
  | holdTimerExpiry r n =>
    change slotKeys (s.expireHold r n) = _
    unfold State.expireHold
    split
    · exact s.finishHold_slotKeys _ _ _ _
    · rfl
  | unwrapCompletion =>
    change slotKeys (s.complete .key State.completeKey).drain = _
    rw [slotKeys_of_framed (State.drain_framed _)]
    unfold State.complete State.completeKey
    split
    · simp only []
      split
      · split
        · exact (fillHolds_slotKeys _ _ _ _ _).trans (slotKeys_of_framed (s.updateKey_framed _ _))
        · rfl
      · rfl
    · rfl
  | _ => exact slotKeys_of_framed (after_framed _ s) (by simp [footprint, restoreBlocks])

/-! ### The retention unit enters RESTORING at power-on alone -/

theorem State.restoring_of_st {s : State} (h : ∀ j0 j1, s.store.st ≠ .restoring j0 j1) : s.restoring = false := by
  unfold State.restoring
  split
  · exact absurd ‹_› (h _ _)
  · rfl

theorem State.startPass_restoring (s : State) : s.startPass.restoring = false := State.restoring_of_st s.startPass_storeSt

theorem State.beginPass_restoring (s : State) : s.beginPass.restoring = s.restoring := by
  unfold State.beginPass
  split
  · rename_i hidle
    rw [s.startPass_restoring, State.restoring_of_st (by simp [hidle])]
  · rfl

theorem State.pageDone_restoring (s : State) : s.pageDone.restoring = s.restoring := by
  unfold State.pageDone
  split
  · rfl
  · split
    · rename_i hst
      rw [State.restoring_of_st (s := s) (by simp [hst])]
      simp only []
      split
      · rfl
      · split
        · rfl
        · exact State.startPass_restoring _
    · rfl

theorem State.busCycle_restoring (s : State) : s.busCycle.restoring = s.restoring := by
  rcases busCycle_cases s with h | ⟨_, _, _, _, _, hst, ⟨_, h⟩ | ⟨_, h⟩⟩ <;> rw [h]
  · rfl
  · rw [State.restoring_of_st (s := s) (by simp [hst])]
    rfl

/-- A power-on reset begins the restore; a section read, and a memory that does not acknowledge, may end it. -/
def movesRestore : Instr → Bool
  | .powerOnReset | .eepromSectionRead _ | .eepromNoAcknowledge _ => true
  | _ => false

theorem after_restoring {c : Instr} (hc : movesRestore c = false) (s : State) : (after c s).restoring = s.restoring := by
  cases c with
  | powerOnReset | eepromSectionRead | eepromNoAcknowledge => exact absurd hc (by simp [movesRestore])
  | writePassStart => exact s.beginPass_restoring
  | pageWriteComplete => exact s.pageDone_restoring
  | busArbitrationLoss => exact (congrArg (fun st => (State.setStore st s).restoring) s.loseBus_storeSt).trans rfl
  | transactionReissue => exact (congrArg (fun st => (State.setStore st s).restoring) s.reissue_storeSt).trans rfl
  | _ => exact (after_framed _ s).restoring (by simp [footprint])

end Sys2Proof.Machine

/-! Proofs: what stands with the placement state (R2, R146, R154, R155, R162, R168). -/

namespace Sys2Proof.Machine

open Sys2Proof.Safety

set_option Elab.async false

/-- What stands with each placement state, but for the retention unit: of PlacementSound all save that a pending report stands while RESTORING alone. -/
structure placementStands (s : State) : Prop where
  unplaced : s.placement.st ≠ .placed → s.path.regions = [] ∧ slotKeys s = [] ∧ s.orders.bare ∧ s.reports.bare
  placed : s.placement.st = .placed → mapSound s.path.regions ∧ s.orders.viewed ∧ s.reports.viewed
  pending : s.placement.pendingReport = true → s.placement.st = .placed
  quiet : reading s → s.placement.run = none

theorem slotKeys_eq_nil {s : State} : slotKeys s = [] ↔ s.slots = [] := List.map_eq_nil_iff

theorem placementSound_iff (s : State) :
    PlacementSound s ↔ placementStands s ∧ (s.placement.pendingReport = true → s.restoring = true) := by
  constructor
  · rintro ⟨hun, hpl, hpend, hquiet⟩
    refine ⟨⟨fun h => ?_, hpl, fun h => (hpend h).1, hquiet⟩, fun h => (hpend h).2⟩
    obtain ⟨hmap, hslots, hview, hidle, hrview, hplaced⟩ := hun h
    exact ⟨hmap, slotKeys_eq_nil.mpr hslots, ⟨hview, hidle⟩, hrview, hplaced⟩
  · rintro ⟨⟨hun, hpl, hpend, hquiet⟩, hrest⟩
    refine ⟨fun h => ?_, hpl, fun h => ⟨hpend h, hrest h⟩, hquiet⟩
    obtain ⟨hmap, hslots, ⟨hview, hidle⟩, hrview, hplaced⟩ := hun h
    exact ⟨hmap, slotKeys_eq_nil.mp hslots, hview, hidle, hrview, hplaced⟩

/-- A move of the placement unit that neither places the part nor takes its map away, and forgets the run before READING. -/
structure placementMoves (s t : State) : Prop where
  placed : t.placement.st = .placed ↔ s.placement.st = .placed
  pending : t.placement.pendingReport = true → s.placement.pendingReport = true
  quiet : reading t → reading s ∧ t.placement.run = s.placement.run ∨ t.placement.run = none

theorem placementMoves_of_same {s t : State} (h : t.placement = s.placement) : placementMoves s t :=
  ⟨by rw [h], by rw [h]; exact id, fun ht => .inl ⟨by unfold reading at ht ⊢; rwa [← h], by rw [h]⟩⟩

theorem placementMoves_of_framed {bs : List Block} {s t : State} (h : framed bs s t) (hb : .placement ∉ bs := by decide) : placementMoves s t :=
  placementMoves_of_same (h.placement hb)

theorem placementMoves.of_start {s s' t : State} (h : placementMoves s' t) (hs : s'.placement = s.placement) : placementMoves s t := by
  refine ⟨?_, fun hp => ?_, fun ht => ?_⟩
  · rw [← hs]; exact h.placed
  · rw [← hs]; exact h.pending hp
  · have hq := h.quiet ht
    unfold reading at hq ⊢
    rwa [hs] at hq

theorem placementMoves.onto {s t t' : State} (h : placementMoves s t) (ht : t'.placement = t.placement) : placementMoves s t' := by
  refine ⟨?_, fun hp => ?_, fun hq => ?_⟩
  · rw [ht]; exact h.placed
  · exact h.pending (ht ▸ hp)
  · unfold reading at hq
    rw [ht] at hq ⊢
    exact h.quiet hq

theorem placementStands.moved {s t : State} (h : placementStands s) (hmap : mapKept s t) (hslots : slotKeys t = slotKeys s) (hrings : ringsKept s t)
    (hmoves : placementMoves s t) : placementStands t where
  unplaced hst := by
    obtain ⟨hregions, hkeys, ho, hr⟩ := h.unplaced (mt hmoves.placed.mpr hst)
    exact ⟨hmap.trans hregions, hslots.trans hkeys, hrings.ordersBare ho, hrings.reportsBare hr⟩
  placed hst := by
    obtain ⟨hsound, ho, hr⟩ := h.placed (hmoves.placed.mp hst)
    exact ⟨by rw [show t.path.regions = s.path.regions from hmap]; exact hsound, hrings.ordersViewed ho, hrings.reportsViewed hr⟩
  pending hp := hmoves.placed.mpr (h.pending (hmoves.pending hp))
  quiet ht := by
    rcases hmoves.quiet ht with ⟨hs, hrun⟩ | hrun
    · exact hrun.trans (h.quiet hs)
    · exact hrun

theorem not_reading_of_st {s : State} (h : ∀ a x g, s.placement.st ≠ .reading a x g) : ¬ reading s := fun ⟨a, x, g, hst⟩ => h a x g hst

/-! ### The arming watch and the head read -/

theorem State.setRun_moves {s : State} (hnot : ¬ reading s) (r : Option ArmingRun) : placementMoves s (s.setRun r) :=
  ⟨Iff.rfl, id, fun h => absurd h hnot⟩

theorem State.completeArming_moves (s : State) (a : Addr) : placementMoves s (s.completeArming a) := by
  unfold State.completeArming
  split
  · rename_i hst
    exact ⟨by simp [State.present, hst], id, fun _ => .inr rfl⟩
  · exact ⟨Iff.rfl, id, fun _ => .inr rfl⟩
  · exact ⟨Iff.rfl, id, fun _ => .inr rfl⟩

theorem State.armWatch_moves (s : State) (r : Request) : placementMoves s (s.armWatch r) := by
  unfold State.armWatch
  split
  · exact placementMoves_of_same rfl
  · rename_i hnot
    have hnot' : ¬ reading s := not_reading_of_st (fun a x g h => hnot a x g h)
    have hstart : ∀ w, placementMoves s (s.startRun w) := fun w => State.setRun_moves hnot' _
    split
    · exact State.setRun_moves hnot' _
    · split
      · split
        · split
          · split
            · exact s.completeArming_moves _
            · exact State.setRun_moves hnot' _
          · exact hstart _
        · exact hstart _
      · exact State.setRun_moves hnot' _

theorem State.failPlacement_moves {s : State} (hnot : s.placement.st ≠ .placed) (a : Addr) (c : PlacementResult) (i : Nat) :
    placementMoves s (s.failPlacement a c i) :=
  ⟨⟨fun h => (nomatch h), fun h => absurd h hnot⟩, id, fun ⟨_, _, _, h⟩ => nomatch h⟩

/-- The unit goes on READING, with what it has read so far. -/
theorem readOn_moves {s : State} (hr : reading s) (es : List Emission) (a : Addr) (head : Option (List Byte)) (got : List Byte) :
    placementMoves s (State.present es { s with placement := { s.placement with st := .reading a head got } }) := by
  obtain ⟨_, _, _, hst⟩ := id hr
  exact ⟨by simp [State.present, hst], id, fun _ => .inl ⟨hr, rfl⟩⟩

theorem State.headAnswer_moves {s : State} (hr : reading s) (a : Addr) (ans : Answer) : placementMoves s (s.headAnswer a ans) := by
  have hnot : s.placement.st ≠ .placed := by obtain ⟨_, _, _, hst⟩ := hr; simp [hst]
  unfold State.headAnswer
  simp only []
  split
  · exact State.failPlacement_moves hnot _ _ _
  · split
    · exact State.failPlacement_moves hnot _ _ _
    · split
      · exact State.failPlacement_moves hnot _ _ _
      · exact readOn_moves hr _ _ _ _

theorem State.headReturned_moves (s : State) (a : Answer) : placementMoves s (s.headReturned a) := by
  unfold State.headReturned
  split
  · rename_i hst
    exact (State.headAnswer_moves (s := s.popOwn) ⟨_, _, _, hst⟩ _ _).of_start rfl
  · exact placementMoves_of_same rfl

/-! ### The descriptor reads: the part may be placed -/

/-- A placed part stands as the record that passed its checks gives it (R160). -/
theorem State.completePlacement_stands {head ds : List Byte} {rs : List Region} (h : checkRecord head ds = .ok rs) (s : State) (a : Addr) :
    placementStands (s.completePlacement a rs) where
  unplaced hst := absurd rfl hst
  placed _ := ⟨mapSound_of_checkRecord h, orderView_sound h, reportView_sound h⟩
  pending _ := rfl
  quiet := fun ⟨_, _, _, hst⟩ => by cases hst

/-- A descriptor read's answer places the part as a record that passed its checks gives it, or moves the placement unit alone. -/
theorem State.descriptorsReturned_cases (s : State) (a : Answer) :
    (∃ addr head got ds rs, checkRecord head ds = .ok rs ∧ s.placement.st = .reading addr (some head) got ∧
        s.descriptorsReturned a = s.popOwn.completePlacement addr rs) ∨
      (placementMoves s (s.descriptorsReturned a) ∧ framed [.placement, .emitted, .path] s (s.descriptorsReturned a) ∧
        mapKept s (s.descriptorsReturned a)) := by
  unfold State.descriptorsReturned
  split
  · rename_i addr head got _ hst
    have hr : reading s.popOwn := ⟨_, _, _, hst⟩
    have hnot : s.placement.st ≠ .placed := by simp [hst]
    have hfail : ∀ c i, placementMoves s (s.popOwn.failPlacement addr c i) ∧ framed [.placement, .emitted, .path] s (s.popOwn.failPlacement addr c i) ∧
        mapKept s (s.popOwn.failPlacement addr c i) := fun c i =>
      ⟨(State.failPlacement_moves (s := s.popOwn) hnot addr c i).of_start rfl, s.popOwn_framed.andThen (State.failPlacement_framed _ _ _ _), rfl⟩
    unfold State.descriptorAnswer
    simp only []
    split
    · exact .inr (hfail _ _)
    · split
      · exact .inr ⟨(readOn_moves hr _ _ _ _).of_start rfl,
          (s.popOwn_framed.andThen (cs := [.placement, .path]) (State.setPlacement_framed _ _)).andThen (State.present_framed _ _), rfl⟩
      · split
        · exact .inr (hfail _ _)
        · rename_i rs hok
          exact .inl ⟨_, _, _, _, rs, hok, hst, rfl⟩
  · exact .inr ⟨placementMoves_of_same rfl, framed.refl _ s, rfl⟩

/-! ### The end of the restore: the pending report is handed over (R161) -/

theorem placementStands_of_framed {bs : List Block} {s t : State} (h : framed bs s t) (hs : placementStands s) (hp : .path ∉ bs := by decide)
    (hsl : .slots ∉ bs := by decide) (ho : .orders ∉ bs := by decide) (hr : .reports ∉ bs := by decide) (hpl : .placement ∉ bs := by decide) :
    placementStands t :=
  hs.moved (congrArg MemoryPath.regions (h.path hp)) (slotKeys_of_framed h hsl) (ringsKept_of_framed h ho hr) (placementMoves_of_framed h hpl)

theorem State.wake_stands {s : State} (h : placementStands s) : placementStands s.wake :=
  h.moved (congrArg MemoryPath.regions s.wake_framed.path) (slotKeys_of_framed s.wake_framed) s.wake_ringsKept (placementMoves_of_framed s.wake_framed)

theorem State.handPlaced_stands {s : State} (h : placementStands s) : placementStands s.handPlaced ∧ s.handPlaced.placement.pendingReport = false := by
  unfold State.handPlaced
  split
  · rename_i hp
    have hst := h.pending hp
    exact ⟨⟨fun hnot => absurd hst hnot, fun _ => ⟨(h.placed hst).1, (h.placed hst).2.1, (h.placed hst).2.2⟩, fun hf => (nomatch hf), h.quiet⟩, rfl⟩
  · rename_i hp
    exact ⟨h, by simpa using hp⟩

theorem State.endRestore_placement {j0 : Judged S0Fields} {j1 : Judged (List LogEntry)} {j2 : Judged S2Fields} {st : RetentionState} {s : State}
    (h : placementStands s) : placementStands (s.endRestore j0 j1 j2 st) ∧ (s.endRestore j0 j1 j2 st).placement.pendingReport = false := by
  rw [State.endRestore_eq]
  have htables := placementStands_of_framed
    ((s.restoredTables_framed j0 j1 j2).andThen (cs := [.purse, .log, .fixtures, .refunds, .passes, .conds, .store]) (State.setStore_framed _ st)) h
  obtain ⟨hstands, hnone⟩ := State.handPlaced_stands htables
  exact ⟨State.wake_stands hstands, by rw [(State.wake_framed _).placement]; exact hnone⟩

theorem State.restoring_of_storeSt {s t : State} (h : t.store.st = s.store.st) : t.restoring = s.restoring := by
  unfold State.restoring
  rw [h]

theorem State.sectionRead_placement {s : State} (h : PlacementSound s) (r : SectionRead) : PlacementSound (s.sectionRead r) := by
  rw [placementSound_iff] at h ⊢
  obtain ⟨hstands, hpend⟩ := h
  unfold State.sectionRead
  split
  · exact ⟨hstands, hpend⟩
  · split
    · exact ⟨placementStands_of_framed (s.judged_framed _ _ _ _) hstands, fun _ => rfl⟩
    · exact ⟨placementStands_of_framed (s.judged_framed _ _ _ _) hstands, fun _ => rfl⟩
    · obtain ⟨hs, hnone⟩ := State.endRestore_placement (placementStands_of_framed (s.bookIfLost_framed _ _) hstands)
      exact ⟨hs, fun hp => absurd (hnone.symm.trans hp) (by decide)⟩
    · exact ⟨hstands, hpend⟩

theorem placementSound_of_handed {s : State} (h : placementStands s) (hnone : s.placement.pendingReport = false) (x : SectionSet) :
    PlacementSound (s.bookLost x) := by
  have hframed : framed [.conds] s (s.bookLost x) := s.book_framed _ _
  rw [placementSound_iff]
  refine ⟨placementStands_of_framed hframed h, fun hp => ?_⟩
  rw [hframed.placement, hnone] at hp
  cases hp

theorem State.failRestore_placement {j0 : Option (Judged S0Fields)} {j1 : Option (Judged (List LogEntry))} {s : State} (h : placementStands s) :
    placementStands (s.failRestore j0 j1) ∧ (s.failRestore j0 j1).placement.pendingReport = false := by
  have hbooked : ∀ (u : State) x, placementStands u → placementStands (u.bookLost x) := fun u x hu =>
    placementStands_of_framed (u.book_framed _ _) hu
  unfold State.failRestore
  refine State.endRestore_placement (hbooked _ _ ?_)
  split <;> split <;> simp only [h, hbooked]

theorem State.storeFails_placement {s : State} (h : PlacementSound s) (why : NoAck) : PlacementSound (s.storeFails why) := by
  obtain ⟨hstands, hpend⟩ := (placementSound_iff s).mp h
  unfold State.storeFails
  split
  · split
    · rename_i j0 j1 _
      obtain ⟨hs, hnone⟩ := State.failRestore_placement (j0 := j0) (j1 := j1) (placementStands_of_framed (s.withStore_framed _) hstands)
      exact placementSound_of_handed hs hnone _
    · rename_i hst
      have hnone : s.placement.pendingReport = false := by
        refine Classical.byContradiction fun hp => ?_
        exact absurd (hpend (by simpa using hp)) (by simp [State.restoring, hst])
      exact placementSound_of_handed (placementStands_of_framed (s.withStore_framed { s.store with st := .offline, awaitingStop := false }) hstands) hnone _
    · exact h
  · exact h

/-! ### Every command -/

theorem State.takeRequest_moves (s : State) (r : Request) : placementMoves s (s.takeRequest r) := by
  by_cases hroom : roomFor (handled (requestClass r)) s
  · have hshown : ∀ u : State, u.placement = s.placement → placementMoves s (u.showPlacement (handled (requestClass r)) r).drain := fun u hu => by
      have hmove : placementMoves u (u.showPlacement (handled (requestClass r)) r) := by
        unfold State.showPlacement
        split
        · exact u.armWatch_moves r
        · exact placementMoves_of_same rfl
      exact (hmove.onto (State.drain_framed _).placement).of_start hu
    cases r with
    | read q =>
      rw [State.takeRequest_read hroom]
      exact hshown _ (s.takeRead_framed _ q).placement
    | write w =>
      rw [State.takeRequest_write hroom]
      exact hshown _ (s.takeWrite_framed _ w).placement
  · rw [State.takeRequest_full (Nat.le_of_not_lt hroom)]
    exact placementMoves_of_same rfl

theorem placementSound_of_moved {s t : State} (h : PlacementSound s) (hmap : mapKept s t) (hslots : slotKeys t = slotKeys s) (hrings : ringsKept s t)
    (hmoves : placementMoves s t) (hrestoring : t.restoring = s.restoring) : PlacementSound t := by
  rw [placementSound_iff] at h ⊢
  exact ⟨h.1.moved hmap hslots hrings hmoves, fun hp => hrestoring.trans (h.2 (hmoves.pending hp))⟩

theorem placementMoves_of_command {c : Instr} (hmap : setsMap c = false) (hrings : setsRings c = false) (s : State) : placementMoves s (after c s) := by
  cases c with
  | powerOnReset | linkReset | placementDescriptorReadAnswer => exact absurd hmap (by simp [setsMap])
  | eepromSectionRead | eepromNoAcknowledge => exact absurd hrings (by simp [setsRings])
  | upstreamRead | upstreamWrite | wholeCellWrite | cellBreak | gatedRead | armingWrite | orderProducerWrite | reportConsumerWrite =>
    exact s.takeRequest_moves _
  | placementHeadReadAnswer a => exact s.headReturned_moves a
  | _ => exact placementMoves_of_framed (after_framed _ s) (by simp [footprint])

theorem after_placement (c : Instr) (s : State) (h : PlacementSound s) : PlacementSound (after c s) := by
  have hmoved : setsMap c = false → setsRings c = false → movesRestore c = false → PlacementSound (after c s) := fun hm hr ht =>
    placementSound_of_moved h (after_passesRequests hm s).mapKept (after_slotKeys hm s) (after_ringsKept hr s) (placementMoves_of_command hm hr s)
      (after_restoring ht s)
  cases c with
  | powerOnReset | linkReset => exact ⟨fun _ => ⟨rfl, rfl, rfl, rfl, rfl, rfl⟩, fun h => (nomatch h), fun h => (nomatch h), fun _ => rfl⟩
  | placementDescriptorReadAnswer a =>
    change PlacementSound (s.descriptorsReturned a)
    rcases s.descriptorsReturned_cases a with ⟨addr, head, _, ds, rs, hok, -, heq⟩ | ⟨hmoves, hframed, hmap⟩
    · rw [heq, placementSound_iff]
      exact ⟨State.completePlacement_stands hok _ _, fun hp => hp⟩
    · exact placementSound_of_moved h hmap (slotKeys_of_framed hframed) (ringsKept_of_framed hframed) hmoves hframed.restoring
  | eepromSectionRead r => exact State.sectionRead_placement h r
  | eepromNoAcknowledge why => exact State.storeFails_placement h why
  | _ => exact hmoved rfl rfl rfl

theorem cycle_placement (s : State) (h : PlacementSound s) : PlacementSound s.busCycle.tick :=
  placementSound_of_moved h (congrArg MemoryPath.regions s.cycle_framed.path) (slotKeys_of_framed s.cycle_framed) (ringsKept_of_framed s.cycle_framed)
    (placementMoves_of_framed s.cycle_framed) (s.busCycle.tick_framed.restoring.trans s.busCycle_restoring)

/-- Settles O9: every command but a reset, a placement and the end of the restore keeps map, slot records, views and pending report with the placement state. -/
theorem placementStaysSound : Obligations.PlacementStaysSound := fun _ _ hs h =>
  step_keeps (W := fun _ => True) (fun _ _ h => h) cycle_placement (fun c s _ h => after_placement c s h) (fun _ _ _ => trivial) hs h

end Sys2Proof.Machine

/-! Proofs: every held part waits on a slot that is HELD (R18 to R22). -/

namespace Sys2Proof.Machine

open Sys2Proof.Safety

set_option Elab.async false

/-- The slot is HELD. -/
def heldSlot (s : State) (r n : Nat) : Prop := ∃ h o svc odd m, s.slotAt r n = some (.program h (.held o svc odd m))

/-- Of these parts each held one waits on a HELD slot. -/
def holdsOn (s : State) (ps : List Part) : Prop := ∀ p ∈ ps, p.serving = .held → heldSlot s p.region p.slot

theorem holdsSound_iff (s : State) : HoldsSound s ↔ ∀ e ∈ s.path.inflight, holdsOn s e.parts := Iff.rfl

theorem State.slotAt_of_slots {s t : State} (h : t.slots = s.slots) (r n : Nat) : t.slotAt r n = s.slotAt r n := by
  unfold State.slotAt
  rw [h]

theorem heldSlot_of_slots {s t : State} (h : t.slots = s.slots) {r n : Nat} : heldSlot t r n ↔ heldSlot s r n := by
  unfold heldSlot
  rw [State.slotAt_of_slots h]

/-- HELD slots stay, and what is in flight was. -/
theorem holdsSound_of_subset {s t : State} (h : HoldsSound s) (hslots : ∀ r n, heldSlot s r n → heldSlot t r n)
    (hsub : ∀ e ∈ t.path.inflight, e ∈ s.path.inflight) : HoldsSound t :=
  fun e he p hp hheld => hslots _ _ (h e (hsub e he) p hp hheld)

theorem holdsSound_of_same {s t : State} (h : HoldsSound s) (hslots : t.slots = s.slots) (hinflight : t.path.inflight = s.path.inflight) : HoldsSound t :=
  holdsSound_of_subset h (fun _ _ => (heldSlot_of_slots hslots).mpr) (fun _ he => hinflight ▸ he)

theorem holdsSound_drain {s : State} (h : HoldsSound s) : HoldsSound s.drain :=
  holdsSound_of_subset h (fun _ _ => (heldSlot_of_slots s.drain_framed.slots).mpr) (fun _ he => (drainList_sublist _ _).subset he)

theorem holdsSound_presentTogether {s : State} (h : HoldsSound s) (es : List Emission) : HoldsSound (s.presentTogether es) :=
  holdsSound_of_same h (s.presentTogether_framed es).slots (s.presentTogether_requestsStand es).1

/-! ### Memory's answers (R13, R17) -/

theorem latch_heldSlot {s : State} {r n : Nat} {h : Header} (hst : s.slotAt r n = some (.program h .undecided)) (v : Verdict) {r' n' : Nat}
    (hheld : heldSlot s r' n') : heldSlot (s.latch r n v) r' n' := by
  obtain ⟨h', o, svc, odd, m, hst'⟩ := hheld
  refine ⟨h', o, svc, odd, m, ?_⟩
  rw [State.latch_slotAt]
  split
  · rename_i heq
    obtain ⟨rfl, rfl⟩ := heq
    simp [hst] at hst'
  · exact hst'

theorem servingOf_held {h : Header} {v : Verdict} (hs : servingOf h v = .held) : ∃ o svc odd m, v = .held o svc odd m := by
  cases v with
  | held o svc odd m => exact ⟨o, svc, odd, m, rfl⟩
  | undecided | clear | slate => simp [servingOf] at hs

theorem servingAt_held {o : Option SlotState} (hs : servingAt o = .held) : ∃ h k svc odd m, o = some (.program h (.held k svc odd m)) := by
  unfold servingAt at hs
  split at hs
  · obtain ⟨k, svc, odd, m, rfl⟩ := servingOf_held hs
    exact ⟨_, k, svc, odd, m, rfl⟩
  all_goals cases hs

/-- A part settled by an answer lies where it lay; HELD slots stay; and a part that is held afterwards waits on a HELD slot (R13, R17). -/
theorem settlePart_holds (p : Part) (s : State) :
    (settlePart p s).1.region = p.region ∧ (settlePart p s).1.slot = p.slot ∧ (∀ r n, heldSlot s r n → heldSlot (settlePart p s).2 r n) ∧
      (holdsOn s [p] → holdsOn (settlePart p s).2 [(settlePart p s).1]) := by
  unfold settlePart
  split
  · exact ⟨rfl, rfl, fun _ _ h => h, fun _ q hq hheld => by rw [List.mem_singleton.mp hq] at hheld; cases hheld⟩
  · split
    · rename_i h hst
      have hslot : ∀ r n, (s.runChain h).2.slotAt r n = s.slotAt r n := State.slotAt_of_slots (s.runChain_framed h).slots
      have hst' := (hslot p.region p.slot).trans hst
      refine ⟨rfl, rfl, fun r n hr => latch_heldSlot hst' _ ((heldSlot_of_slots (s.runChain_framed h).slots).mpr hr), fun _ q hq hheld => ?_⟩
      rw [List.mem_singleton.mp hq] at hheld ⊢
      obtain ⟨o, svc, odd, m, hv⟩ := servingOf_held hheld
      refine ⟨h, o, svc, odd, m, ?_⟩
      change ((s.runChain h).2.latch p.region p.slot (s.runChain h).1).slotAt p.region p.slot = _
      rw [State.latch_slotAt, if_pos ⟨rfl, rfl⟩, hst', hv]
      rfl
    · rename_i h v _ hst
      refine ⟨rfl, rfl, fun _ _ h => h, fun _ q hq hheld => ?_⟩
      rw [List.mem_singleton.mp hq] at hheld ⊢
      obtain ⟨o, svc, odd, m, rfl⟩ := servingOf_held hheld
      exact ⟨h, o, svc, odd, m, hst⟩
    · exact ⟨rfl, rfl, fun _ _ h => h, fun _ q hq hheld => by rw [List.mem_singleton.mp hq] at hheld; cases hheld⟩
  · exact ⟨rfl, rfl, fun _ _ h => h, fun h => h⟩

theorem settleParts_holds (ps : List Part) : ∀ s : State, (∀ r n, heldSlot s r n → heldSlot (settleParts ps s).2 r n) ∧
    (holdsOn s ps → holdsOn (settleParts ps s).2 (settleParts ps s).1) := by
  induction ps with
  | nil => exact fun s => ⟨fun _ _ h => h, fun _ p hp => nomatch hp⟩
  | cons p ps ih =>
    intro s
    obtain ⟨hregion, hslot, hkeep, hpart⟩ := settlePart_holds p s
    obtain ⟨hrest, hparts⟩ := ih (settlePart p s).2
    refine ⟨fun r n h => hrest r n (hkeep r n h), fun hps q hq hheld => ?_⟩
    rcases List.mem_cons.mp hq with rfl | hq
    · exact hrest _ _ (hpart (fun q hq => hps q (by rw [List.mem_singleton.mp hq]; exact List.mem_cons_self)) _ List.mem_cons_self hheld)
    · exact hparts (fun q hq hheld => hkeep _ _ (hps q (List.mem_cons_of_mem _ hq) hheld)) q hq hheld

/-- A replacement of one request's record: the others stand, and the new parts are sound. -/
theorem holdsSound_setInflight {s : State} (h : HoldsSound s) (id : Nat) (f : Inflight → Inflight)
    (hf : ∀ e ∈ s.path.inflight, e.id = id → holdsOn s (f e).parts) : HoldsSound (s.setInflight id f) := by
  intro e he
  obtain ⟨e', he', rfl⟩ := List.mem_map.mp he
  split
  · exact hf e' he' ‹_›
  · exact h e' he'

theorem State.memoryAnswer_holds {s : State} (h : HoldsSound s) (id : Nat) (a : Answer) : HoldsSound (s.memoryAnswer id a) := by
  unfold State.memoryAnswer
  split
  · exact h
  · rename_i e hfind
    split
    · exact h
    · split
      · exact holdsSound_drain (holdsSound_setInflight h id _ (fun _ _ _ p hp => nomatch hp))
      · obtain ⟨hkeep, hparts⟩ := settleParts_holds e.parts s
        have hsettled : HoldsSound (settleParts e.parts s).2 := holdsSound_of_subset h hkeep (fun _ he => by rwa [(settleParts_framed e.parts s).path] at he)
        exact holdsSound_drain (holdsSound_presentTogether (holdsSound_setInflight hsettled id _ (fun _ _ _ => hparts (h e (List.mem_of_find?_eq_some hfind)))) _)

/-- A slate read's answer holds no part. -/
theorem State.slateAnswer_holds {s : State} (h : HoldsSound s) (a : Answer) : HoldsSound (s.slateAnswer a) := by
  unfold State.slateAnswer
  split
  · rename_i id region slot rest _
    refine holdsSound_drain (holdsSound_setInflight (s := s.popOwn) h id _ (fun e he _ p hp hheld => ?_))
    obtain ⟨q, hq, rfl⟩ := List.mem_map.mp hp
    unfold supplySlate at hheld ⊢
    split at hheld
    · split at hheld
      · cases hheld
      · simp_all
    · exact h e he q hq hheld
  · exact h

/-! ### The end of a hold (R20, R21) -/

theorem Part.endHold_held {r n : Nat} {h : Header} {v : Verdict} (hv : endServing h v ≠ .held) {p : Part} (hp : (p.endHold r n h v).serving = .held) :
    p.serving = .held ∧ p.endHold r n h v = p ∧ ¬ (p.region = r ∧ p.slot = n) := by
  unfold Part.endHold at hp ⊢
  split at hp
  · exact absurd hp hv
  · rename_i hnot
    rw [if_neg hnot]
    refine ⟨hp, rfl, fun ⟨hr, hn⟩ => hnot ?_⟩
    simp [Part.heldOn, hp, hr, hn]

theorem State.finishHold_holds {s : State} (hs : HoldsSound s) (r n : Nat) {h : Header} {v : Verdict} (hv : endServing h v ≠ .held) :
    HoldsSound (s.finishHold r n h v) := by
  rw [State.finishHold_eq]
  refine holdsSound_presentTogether (fun e he p hp hheld => ?_) _
  obtain ⟨e', he', rfl⟩ := List.mem_map.mp he
  obtain ⟨q, hq, rfl⟩ := List.mem_map.mp hp
  obtain ⟨hheld', heq, hnot⟩ := Part.endHold_held hv hheld
  rw [heq]
  obtain ⟨h', o, svc, odd, m, hst⟩ := hs e' he' q hq hheld'
  refine ⟨h', o, svc, odd, m, ?_⟩
  change (s.latch r n v).slotAt _ _ = _
  rw [State.latch_slotAt, if_neg hnot, hst]

theorem State.expireHold_holds {s : State} (hs : HoldsSound s) (r n : Nat) : HoldsSound (s.expireHold r n) := by
  unfold State.expireHold
  split
  · exact holdsSound_drain (State.finishHold_holds hs r n (nofun : endServing _ (.slate 4) ≠ .held))
  · exact hs

theorem fillHolds_holds (svc : Service) (odd : Bool) (n : Period) (rs : List Slot) : ∀ s : State, HoldsSound s → HoldsSound (fillHolds svc odd n rs s) := by
  induction rs with
  | nil => exact fun _ h => h
  | cons r rs ih =>
    intro s hs
    unfold fillHolds
    split
    · rename_i h o _ _ _ _
      split
      · refine ih _ ?_
        unfold State.endHoldByFill
        split
        · have hframed := (s.updateKey_framed svc (fun e => some { e with lastUse := s.now })).andThen (cs := [.keys, .fixtures])
            (State.applyOrigin_framed _ o h.tag)
          exact State.finishHold_holds (holdsSound_of_same hs hframed.slots (congrArg MemoryPath.inflight hframed.path)) _ _ (nofun)
        · exact State.finishHold_holds hs _ _ (nofun)
      · exact ih s hs
    · exact ih s hs

theorem State.completeKey_holds {s : State} (hs : HoldsSound s) (cell : List Byte) : HoldsSound (State.completeKey cell s) := by
  unfold State.completeKey
  simp only []
  split
  · split
    · exact fillHolds_holds _ _ _ _ _ (holdsSound_of_same hs (s.updateKey_framed _ _).slots (congrArg MemoryPath.inflight (s.updateKey_framed _ _).path))
    · exact holdsSound_of_same hs (s.updateKey_framed _ _).slots (congrArg MemoryPath.inflight (s.updateKey_framed _ _).path)
  · exact hs

/-! ### Requests taken (R9, R17) -/

/-- The slot that a write covers whole is one that it touches (R4, R5). -/
theorem wholeCellSlot_touched {rs : List Region} {a : Addr} {kept : List Bool} {x : Nat × Nat} (h : wholeCellSlot rs a kept = some x) :
    x ∈ touchedSlots rs a kept := by
  unfold wholeCellSlot at h
  split at h
  · rename_i hall
    obtain ⟨hlen, hall⟩ := hall
    split at h
    · rename_i r n hbyte
      cases h
      refine List.mem_filterMap.mpr ⟨0, List.mem_range.mpr (by omega), ?_⟩
      have hfirst : kept.getD 0 false = true := by
        cases kept with
        | nil => cases hlen
        | cons b bs =>
          have hb : b = true := by simpa using (List.all_eq_true.mp hall) b List.mem_cons_self
          simp [hb]
      rw [if_pos hfirst, hbyte]
      rfl
    · cases h
  · cases h

theorem Part.stale_held {touched : List (Nat × Nat)} {p : Part} (h : (p.stale touched).serving = .held) :
    p.serving = .held ∧ p.stale touched = p ∧ (p.region, p.slot) ∉ touched := by
  unfold Part.stale at h ⊢
  split at h
  · split at h
    · cases h
    · cases h
    · simp_all
  · rename_i hnot
    rw [if_neg hnot]
    exact ⟨h, rfl, by simpa using hnot⟩

theorem State.trackWrite_holds {s : State} (hs : HoldsSound s) {touched : List (Nat × Nat)} {whole : Option (Nat × Nat)}
    (hwhole : ∀ x, whole = some x → x ∈ touched) (cell : List Byte) : HoldsSound (s.trackWrite touched whole cell) := by
  intro e he p hp hheld
  obtain ⟨e', he', rfl⟩ := List.mem_map.mp he
  obtain ⟨q, hq, rfl⟩ := List.mem_map.mp hp
  obtain ⟨hheld', heq, hnot⟩ := Part.stale_held hheld
  rw [heq]
  obtain ⟨h', o, svc, odd, m, hst⟩ := hs e' he' q hq hheld'
  refine ⟨h', o, svc, odd, m, ?_⟩
  rw [State.trackWrite_slotAt, hst, Option.map_some, if_neg (fun hw => hnot (hwhole _ hw)), if_neg hnot]

theorem State.takeOn_holds {s : State} (hs : HoldsSound s) (c : Cls) (req : Request) {ps : List Part} (hps : holdsOn s ps) (answer : Option Answer) :
    HoldsSound (s.takeOn c req ps answer) := by
  intro e he
  rcases List.mem_append.mp he with he | he
  · exact hs e he
  · rw [List.mem_singleton.mp he]
    exact hps

theorem State.gateParts_holds (s : State) (c : Cls) (a : Addr) (len : Nat) : holdsOn s (s.gateParts c a len) := by
  intro p hp hheld
  obtain ⟨q, _, rfl⟩ := List.mem_map.mp hp
  exact servingAt_held hheld

theorem State.takeRequest_holds {s : State} (hs : HoldsSound s) (r : Request) : HoldsSound (s.takeRequest r) := by
  by_cases hroom : roomFor (handled (requestClass r)) s
  · have hafter : ∀ u : State, HoldsSound u → HoldsSound (u.showPlacement (handled (requestClass r)) r).drain := fun u hu =>
      holdsSound_drain (holdsSound_of_same hu (u.showPlacement_framed _ r).slots (u.showPlacement_requestsStand _ r).1)
    cases r with
    | read q =>
      rw [State.takeRequest_read hroom]
      exact hafter _ (holdsSound_presentTogether (State.takeOn_holds hs _ _ (s.gateParts_holds _ _ _) _) _)
    | write w =>
      rw [State.takeRequest_write hroom, State.takeWrite_eq]
      refine hafter _ (holdsSound_presentTogether (State.takeOn_holds (ps := []) ?_ _ _ (fun _ hp => (nomatch hp)) _) _)
      have htracked := State.trackWrite_holds hs (fun _ => wholeCellSlot_touched (rs := s.path.regions) (a := w.addr)
        (kept := keptEnables s.path.regions (handled (requestClass (.write w))) w)) w.data
      refine holdsSound_of_same htracked ?_ (congrArg MemoryPath.inflight (s.writeShown_path _ w))
      exact (((State.handOverWrite_framed _ _ _).andThen (cs := [.engine, .keys, .conds, .orders, .reports]) (State.notices_framed _ _ _ _)).andThen
        (cs := [.engine, .keys, .conds, .orders, .reports]) (State.bookShield_framed _ _ _)).slots
  · rw [State.takeRequest_full (Nat.le_of_not_lt hroom)]
    exact hs

/-! ### Every command -/

theorem after_holds (c : Instr) (s : State) (hplace : PlacementSound s) (hs : HoldsSound s) : HoldsSound (after c s) := by
  have hstand : leavesRequests c = true → .slots ∉ footprint c → HoldsSound (after c s) := fun hc hslots =>
    holdsSound_of_same hs ((after_framed c s).slots hslots) (after_requestsStand hc s).1
  cases c with
  | powerOnReset | linkReset => exact fun e he => nomatch he
  | upstreamRead | upstreamWrite | wholeCellWrite | cellBreak | gatedRead | armingWrite | orderProducerWrite | reportConsumerWrite =>
    exact State.takeRequest_holds hs _
  | gatedReadAnswer id a | forwardedAnswer id a => exact State.memoryAnswer_holds hs id a
  | slateReadAnswer a => exact State.slateAnswer_holds hs a
  | holdTimerExpiry r n => exact State.expireHold_holds hs r n
  | unwrapCompletion =>
    refine holdsSound_drain (State.complete_keeps (I := HoldsSound) hs (fun s h => ?_) (fun cell _ => State.completeKey_holds hs cell))
    exact holdsSound_of_same h s.popCell_framed.slots (congrArg MemoryPath.inflight s.popCell_framed.path)
  | placementDescriptorReadAnswer a =>
    change HoldsSound (s.descriptorsReturned a)
    have hinflight := (s.descriptorsReturned_inflight a).1
    rcases s.descriptorsReturned_cases a with ⟨_, _, _, _, _, _, hread, -⟩ | ⟨-, hframed, -⟩
    · intro e he p hp hheld
      obtain ⟨_, _, _, _, _, hst⟩ := hs e (hinflight ▸ he) p hp hheld
      have hnil : s.slots = [] := (hplace.1 (by simp [hread])).2.1
      simp [State.slotAt, hnil] at hst
    · exact holdsSound_of_same hs hframed.slots hinflight
  | ownWriteAck | placementHeadReadAnswer | orderFetch | orderFetchAnswer | placedReportWrite | replyRecordWrite | conditionWrite =>
    exact hstand rfl (by simp [footprint])
  | _ =>
    exact holdsSound_of_same hs ((after_framed _ s).slots (by simp [footprint, restoreBlocks]))
      (congrArg MemoryPath.inflight ((after_framed _ s).path (by simp [footprint, restoreBlocks])))

/-- Settles O10: a held part's slot is HELD; the part leaves its hold with the slot, by a write, a fill or the timer. -/
theorem heldPartsKeepHeldSlots : Obligations.HeldPartsKeepHeldSlots := by
  intro s t hplace hs h
  refine (step_keeps (I := fun s => PlacementSound s ∧ HoldsSound s) (W := fun _ => True) (fun _ _ h => h) (fun s h => ?_) (fun c s _ h => ?_)
    (fun _ _ _ => trivial) ⟨hplace, hs⟩ h).2
  · exact ⟨cycle_placement s h.1, holdsSound_of_same h.2 s.cycle_framed.slots (congrArg MemoryPath.inflight s.cycle_framed.path)⟩
  · exact ⟨after_placement c s h.1, after_holds c s h.1 h.2⟩

end Sys2Proof.Machine

/-! Proofs: the tables of fixtures and passes (sections 4.1, 4.6) and the conditions' counts. In every step each entry stays at its place with its key, goes out of
use, or is a new one whose key no entry holds: so the keys stay distinct and nonzero, and the capacities of Table 0-4 stand. -/

namespace Sys2Proof.Machine

open Sys2Proof.Safety

set_option Elab.async false

/-! ### Tables with free and used entries -/

section
variable {α : Type} {n : Nat}

/-- No two entries in use hold one key. -/
def keyed (key : α → BitVec n) (t : List (Option α)) : Prop := (t.filterMap (fun o => o.map key)).Nodup

/-- What a table keeps through a step: its length, distinct and nonzero keys, and entries of size at most 16. -/
structure entriesKept (key : α → BitVec n) (size : α → Nat) (t t' : List (Option α)) : Prop where
  length : t'.length = t.length
  distinct : keyed key t → keyed key t'
  nonzero : (∀ e, inUse t e → key e ≠ 0) → ∀ e, inUse t' e → key e ≠ 0
  sized : (∀ e, inUse t e → size e ≤ 16) → ∀ e, inUse t' e → size e ≤ 16

variable {key : α → BitVec n} {size : α → Nat} {t t' t'' : List (Option α)}

theorem entriesKept.refl (key : α → BitVec n) (size : α → Nat) (t : List (Option α)) : entriesKept key size t t := ⟨rfl, id, id, id⟩

theorem entriesKept.trans (h : entriesKept key size t t') (h' : entriesKept key size t' t'') : entriesKept key size t t'' :=
  ⟨h'.length.trans h.length, h'.distinct ∘ h.distinct, h'.nonzero ∘ h.nonzero, h'.sized ∘ h.sized⟩

theorem keys_sublist {g : α → Option α} (hkey : ∀ e e', g e = some e' → key e' = key e) (t : List (Option α)) :
    ((t.map (fun o => o.bind g)).filterMap (fun o => o.map key)).Sublist (t.filterMap (fun o => o.map key)) := by
  induction t with
  | nil => exact List.Sublist.refl _
  | cons o os ih =>
    cases o with
    | none => exact ih
    | some e =>
      cases hg : g e with
      | none => simpa [hg] using ih.cons (key e)
      | some e' => simpa [hg, hkey e e' hg] using ih

theorem inUse_bind {g : α → Option α} {e' : α} (h : inUse (t.map (fun o => o.bind g)) e') : ∃ e, inUse t e ∧ g e = some e' := by
  obtain ⟨o, ho, heq⟩ := List.mem_map.mp h
  obtain ⟨e, rfl, hg⟩ := Option.bind_eq_some_iff.mp heq
  exact ⟨e, ho, hg⟩

/-- Each entry stays with its key, or goes out of use. -/
theorem entriesKept_bind {g : α → Option α} (hg : ∀ e e', g e = some e' → key e' = key e ∧ size e' ≤ max 16 (size e)) :
    entriesKept key size t (t.map (fun o => o.bind g)) where
  length := List.length_map _
  distinct h := h.sublist (keys_sublist (fun e e' he => (hg e e' he).1) t)
  nonzero h e' he' := by
    obtain ⟨e, he, hge⟩ := inUse_bind he'
    rw [(hg e e' hge).1]
    exact h e he
  sized h e' he' := by
    obtain ⟨e, he, hge⟩ := inUse_bind he'
    have hsize := (hg e e' hge).2
    have hold := h e he
    omega

theorem entriesKept_map {f : α → α} (hf : ∀ e, key (f e) = key e ∧ size (f e) ≤ max 16 (size e)) : entriesKept key size t (t.map (Option.map f)) := by
  have heq : t.map (Option.map f) = t.map (fun o => o.bind (fun e => some (f e))) := List.map_congr_left (fun o _ => by cases o <;> rfl)
  rw [heq]
  exact entriesKept_bind (fun e e' he => by cases he; exact hf e)

/-- The entries that a test picks out stay with their key, or go out of use; the others stand. -/
theorem entriesKept_update {p : α → Bool} {f : α → Option α} (hf : ∀ e e', f e = some e' → key e' = key e ∧ size e' ≤ max 16 (size e)) :
    entriesKept key size t (tableUpdate t p f) :=
  entriesKept_bind (fun e e' he => by
    split at he
    · exact hf e e' he
    · cases he; exact ⟨rfl, by omega⟩)

theorem inUse_set {i : Nat} {x e : α} (h : inUse (t.set i (some x)) e) : e = x ∨ inUse t e := by
  rcases List.mem_or_eq_of_mem_set h with h | h
  · exact .inr h
  · exact .inl (by simpa using h)

theorem inUse_of_free (i : Nat) {e : α} (h : inUse (t.set i none) e) : inUse t e := by
  rcases List.mem_or_eq_of_mem_set h with h | h
  · exact h
  · cases h

theorem keyed_set {x : α} (hfresh : ∀ e, inUse t e → key e ≠ key x) (h : keyed key t) (i : Nat) : keyed key (t.set i (some x)) := by
  unfold keyed at h ⊢
  by_cases hi : i < t.length
  · rw [List.set_eq_take_append_cons_drop, if_pos hi, List.filterMap_append, List.filterMap_cons_some (f := fun o => Option.map key o) (a := some x) (b := key x) rfl, List.perm_middle.nodup_iff]
    rw [← List.filterMap_append]
    have hsub : (t.take i ++ t.drop (i + 1)).Sublist t := by
      conv => rhs; rw [← List.take_append_drop i t]
      exact (List.Sublist.refl _).append (by rw [← List.drop_drop]; exact List.drop_sublist _ _)
    refine List.nodup_cons.mpr ⟨fun hmem => ?_, h.sublist (hsub.filterMap _)⟩
    obtain ⟨o, ho, hk⟩ := List.mem_filterMap.mp hmem
    obtain ⟨e, rfl, he⟩ := Option.map_eq_some_iff.mp hk
    exact hfresh e (hsub.subset ho) he
  · rwa [List.set_eq_of_length_le (by omega)]

/-- A new entry, whose nonzero key no entry holds, takes a place. -/
theorem entriesKept_set {x : α} (hzero : key x ≠ 0) (hfresh : ∀ e, inUse t e → key e ≠ key x) (hsize : size x ≤ 16) (i : Nat) :
    entriesKept key size t (t.set i (some x)) where
  length := List.length_set
  distinct h := keyed_set hfresh h i
  nonzero h e he := by
    rcases inUse_set he with rfl | he
    · exact hzero
    · exact h e he
  sized h e he := by
    rcases inUse_set he with rfl | he
    · exact hsize
    · exact h e he

end

/-! ### What fixture table, pass table and conditions keep -/

/-- The blackout zones that an entry keeps. -/
def FixtureEntry.zones (e : FixtureEntry) : Nat :=
  match e.standing with
  | .awaiting => 0
  | .scheduled sch _ => sch.blackout.length

/-- Every condition's count is within its range (R169). -/
def countsBounded (c : Conditions) : Prop := ∀ k, (c.get k).count ≤ 65535

/-- What the tables and the conditions keep in every step. -/
structure tablesKept (s t : State) : Prop where
  fixtures : entriesKept FixtureEntry.tag FixtureEntry.zones s.fixtures t.fixtures
  passes : entriesKept PassEntry.id (fun p => p.members.length) s.passes t.passes
  conds : countsBounded s.conds → countsBounded t.conds

theorem tablesKept.refl (s : State) : tablesKept s s := ⟨.refl _ _ _, .refl _ _ _, id⟩

theorem tablesKept.trans {s t u : State} (h : tablesKept s t) (h' : tablesKept t u) : tablesKept s u :=
  ⟨h.fixtures.trans h'.fixtures, h.passes.trans h'.passes, h'.conds ∘ h.conds⟩

theorem tablesKept.ite {s t u : State} {c : Prop} [Decidable c] (h : tablesKept s t) (h' : tablesKept s u) : tablesKept s (if c then t else u) := by
  split
  · exact h
  · exact h'

theorem tablesKept_foldl {α : Type} {f : State → α → State} {xs : List α} (hf : ∀ x ∈ xs, ∀ s, tablesKept s (f s x)) (s : State) :
    tablesKept s (xs.foldl f s) :=
  foldl_keeps (I := tablesKept s) (fun x hx _ hs => hs.trans (hf x hx _)) s (.refl s)

theorem tablesKept_of_same {s t : State} (hf : t.fixtures = s.fixtures) (hp : t.passes = s.passes) (hc : t.conds = s.conds) : tablesKept s t :=
  ⟨hf ▸ .refl _ _ _, hp ▸ .refl _ _ _, fun h => hc ▸ h⟩

theorem tablesKept_of_framed {bs : List Block} {s t : State} (h : framed bs s t) (hf : .fixtures ∉ bs := by decide) (hp : .passes ∉ bs := by decide)
    (hc : .conds ∉ bs := by decide) : tablesKept s t :=
  tablesKept_of_same (h.fixtures hf) (h.passes hp) (h.conds hc)

theorem tablesKept_of_conds {s t : State} (h : framed [.conds] s t) (hc : countsBounded s.conds → countsBounded t.conds) : tablesKept s t :=
  ⟨h.fixtures ▸ .refl _ _ _, h.passes ▸ .refl _ _ _, hc⟩

theorem tablesKept_of_fixtures {bs : List Block} {s t : State} (h : framed bs s t)
    (hkept : entriesKept FixtureEntry.tag FixtureEntry.zones s.fixtures t.fixtures) (hp : .passes ∉ bs := by decide) (hc : .conds ∉ bs := by decide) :
    tablesKept s t :=
  ⟨hkept, h.passes hp ▸ .refl _ _ _, fun hs => h.conds hc ▸ hs⟩

theorem tablesKept_of_passes {bs : List Block} {s t : State} (h : framed bs s t)
    (hkept : entriesKept PassEntry.id (fun p => p.members.length) s.passes t.passes) (hf : .fixtures ∉ bs := by decide)
    (hc : .conds ∉ bs := by decide) : tablesKept s t :=
  ⟨h.fixtures hf ▸ .refl _ _ _, hkept, fun hs => h.conds hc ▸ hs⟩

/-! ### Conditions -/

theorem countsBounded_set {c : Conditions} (h : countsBounded c) (k : CondKind) {x : Cond} (hx : x.count ≤ 65535) : countsBounded (c.set k x) := by
  intro k'
  by_cases hk : k' = k
  · subst hk
    rw [Conditions.get_set_same]
    exact hx
  · rw [Conditions.get_set_other _ _ hk]
    exact h k'

theorem State.book_tables (s : State) (k : CondKind) (d : CondData) : tablesKept s (s.book k d) :=
  tablesKept_of_conds (s.book_framed k d) (fun h => countsBounded_set h k (Nat.min_le_right _ _))

theorem State.unbook_tables (s : State) (k : CondKind) : tablesKept s (s.unbook k) :=
  tablesKept_of_conds (s.unbook_framed k) (fun h => countsBounded_set h k (Nat.zero_le _))

theorem State.bookNearlyFull_tables (s : State) : tablesKept s s.bookNearlyFull := (s.book_tables _ _).ite (.refl s)

theorem State.settleQueue_tables (s : State) (before : List Tag) : tablesKept s (s.settleQueue before) := by
  have hqueue : tablesKept s (if before ≠ [] ∧ s.refunds = [] then s.unbook .refundWaiting
      else if 0 < before.length - s.refunds.length then s.book .refundWaiting (.length s.refunds.length) else s) :=
    (s.unbook_tables _).ite ((s.book_tables _ _).ite (.refl s))
  exact (hqueue.trans (State.bookNearlyFull_tables _)).ite hqueue

theorem State.settleLatest_tables (before : State) (tags : List Tag) (s : State) : tablesKept s (State.settleLatest before tags s) := by
  refine tablesKept_of_conds (State.settleLatest_framed before tags s) (fun h => ?_)
  unfold State.settleLatest
  split
  · exact countsBounded_set h .entitlementChanged (h .entitlementChanged)
  · exact h

theorem State.bookIfLost_tables {α : Type} (s : State) (j : Judged α) (x : SectionSet) : tablesKept s (s.bookIfLost j x) :=
  (s.book_tables _ _).ite (.refl s)

/-! ### Table operations -/

theorem State.updateFixture_tables {s : State} {t : Tag} {f : FixtureEntry → FixtureEntry}
    (hf : ∀ e, (f e).tag = e.tag ∧ (f e).zones ≤ max 16 e.zones) : tablesKept s (s.updateFixture t f) :=
  tablesKept_of_fixtures (s.updateFixture_framed t f) (entriesKept_update (fun e e' he => by cases he; exact hf e))

/-- A change of kind, flags or preview: tag and schedule part stand. -/
theorem State.updateFixture_tables_of_standing {s : State} {t : Tag} {f : FixtureEntry → FixtureEntry}
    (hf : ∀ e, (f e).tag = e.tag ∧ (f e).standing = e.standing) : tablesKept s (s.updateFixture t f) :=
  State.updateFixture_tables (fun e => ⟨(hf e).1, by rw [FixtureEntry.zones, (hf e).2, ← FixtureEntry.zones]; omega⟩)

theorem State.removeFixtures_tables (s : State) (p : FixtureEntry → Bool) : tablesKept s (s.removeFixtures p) :=
  tablesKept_of_fixtures (s.removeFixtures_framed p) (entriesKept_update (fun _ _ he => nomatch he))

theorem State.fixture_fresh {s : State} {t : Tag} (h : s.fixture t = none) : ∀ e, inUse s.fixtures e → e.tag ≠ t :=
  fun e he => by simpa using tableFind_none h e he

theorem State.createFixture_tables {s t : State} {e : FixtureEntry} (h : s.createFixture e = some t) (hnone : s.fixture e.tag = none) (hzero : e.tag ≠ 0)
    (hzones : e.zones ≤ 16) : tablesKept s t := by
  obtain ⟨i, -, rfl⟩ := State.createFixture_eq h
  exact tablesKept_of_fixtures (s.setFixtures_framed _) (entriesKept_set hzero (State.fixture_fresh hnone) hzones i)

theorem State.updatePass_tables {s : State} {id : PassId} {f : PassEntry → PassEntry}
    (hf : ∀ p, (f p).id = p.id ∧ (f p).members.length ≤ max 16 p.members.length) : tablesKept s (s.updatePass id f) :=
  tablesKept_of_passes (s.updatePass_framed id f) (entriesKept_update (fun e e' he => by cases he; exact hf e))

theorem State.updatePass_tables_of_members {s : State} {id : PassId} {f : PassEntry → PassEntry}
    (hf : ∀ p, (f p).id = p.id ∧ (f p).members = p.members) : tablesKept s (s.updatePass id f) :=
  State.updatePass_tables (fun p => ⟨(hf p).1, by rw [(hf p).2]; omega⟩)

theorem State.createPass_tables {s t : State} {p : PassEntry} (h : s.createPass p = some t) (hnone : s.pass p.id = none) (hzero : p.id ≠ 0)
    (hmembers : p.members.length ≤ 16) : tablesKept s t := by
  obtain ⟨i, -, rfl⟩ := State.createPass_eq h
  exact tablesKept_of_passes (s.setPasses_framed _)
    (entriesKept_set (key := PassEntry.id) hzero (fun e he => by simpa using tableFind_none hnone e he) hmembers i)

/-- The kind of a tag's entry becomes NONE and its viewed flag is cleared. -/
theorem State.disentitle_tables (s : State) (t : Tag) : tablesKept s (s.updateFixture t (fun e => { e with kind := .none, viewed := false })) :=
  State.updateFixture_tables_of_standing (fun _ => ⟨rfl, rfl⟩)

theorem State.setKind_tables (s : State) (t : Tag) (k : Kind) : tablesKept s (s.updateFixture t (fun e => { e with kind := k })) :=
  State.updateFixture_tables_of_standing (fun _ => ⟨rfl, rfl⟩)

/-! ### Refunds and the purchase log -/

theorem State.refund_tables (s : State) (cause : Cause) (t : Tag) (a : Credit) : tablesKept s (s.refund cause t a) :=
  tablesKept_of_framed (s.refund_framed cause t a)

theorem State.serveTag_tables (s : State) (t : Tag) (rest : List Tag) : tablesKept s (s.serveTag t rest) :=
  ((s.refund_tables _ _ _).trans (State.disentitle_tables _ t)).trans (tablesKept_of_framed (State.setRefunds_framed _ rest))

theorem serveFrom_tables (q : List Tag) : ∀ s : State, tablesKept s (serveFrom q s) := by
  induction q with
  | nil => exact tablesKept.refl
  | cons t rest ih => exact fun s => (tablesKept.refl s).ite ((s.serveTag_tables t rest).trans (ih _))

theorem State.acknowledge_tables (s : State) (n : Seq) : tablesKept s (s.acknowledge n) :=
  ((tablesKept_of_framed (s.removeEntries_framed _)).trans (serveFrom_tables _ _)).trans (State.settleQueue_tables _ _)

theorem State.cancelEffect_tables (s : State) (t : Tag) : tablesKept s (s.cancelEffect t) := by
  unfold State.cancelEffect
  split
  · split
    · refine tablesKept.ite ?_ ?_
      · exact ((tablesKept_of_framed (s.setRefunds_framed _)).trans (State.book_tables _ _ _)).trans (State.book_tables _ _ _)
      · exact (((s.refund_tables _ _ _).trans (State.disentitle_tables _ t)).trans (State.bookNearlyFull_tables _)).trans (State.book_tables _ _ _)
    · exact .refl s
  · exact .refl s

/-! ### Passes -/

theorem State.propagateTag_tables (s : State) (id : PassId) (t : Tag) : tablesKept s (s.propagateTag id t) := by
  unfold State.propagateTag
  split
  · exact ((s.setKind_tables _ _).trans (State.book_tables _ _ _)).ite (.refl s)
  · exact .refl s

theorem State.propagate_tables (s : State) (id : PassId) (tags : List Tag) : tablesKept s (s.propagate id tags) :=
  (tablesKept_foldl (fun t _ s => s.propagateTag_tables id t) s).trans (State.settleLatest_tables s _ _)

theorem passMembers_length_le (cell : List Byte) : (passMembers cell).length ≤ 16 := by
  rw [passMembers, List.length_map, List.length_range]
  exact Nat.min_le_right _ _

theorem announceSchedule_zones_le (cell : List Byte) : (announceSchedule cell).blackout.length ≤ 16 := by
  rw [announceSchedule, List.length_map, List.length_range]
  exact Nat.min_le_right _ _

theorem State.applyPassCell_tables (s : State) (cell : List Byte) : tablesKept s (s.applyPassCell cell) := by
  have hmembers := passMembers_length_le cell
  unfold State.applyPassCell
  simp only []
  split
  · exact s.book_tables _ _
  split
  · exact s.book_tables _ _
  split
  · exact s.book_tables _ _
  · split
    · have hupdate : tablesKept s (s.updatePass (pay8 cell 0) (fun p => { p with sale := some (passSale cell), members := passMembers cell })) :=
        State.updatePass_tables (fun p => ⟨rfl, by change (passMembers cell).length ≤ _; omega⟩)
      exact (hupdate.trans (State.propagate_tables _ _ _)).ite hupdate
    · split
      · exact State.createPass_tables ‹_› ‹_› ‹_› hmembers
      · exact s.book_tables _ _

theorem State.entitlePass_tables (s : State) (id : PassId) : tablesKept s (s.entitlePass id) := by
  unfold State.entitlePass
  split
  · exact .refl s
  · split
    · have hupdate : tablesKept s (s.updatePass id (fun p => { p with owner := .granted })) := State.updatePass_tables_of_members (fun _ => ⟨rfl, rfl⟩)
      exact (hupdate.trans (State.propagate_tables _ _ _)).ite (.refl s)
    · split
      · exact State.createPass_tables ‹_› ‹_› ‹_› (Nat.zero_le _)
      · exact s.book_tables _ _

theorem State.revokedEntry_kept (s : State) (id : PassId) {e e' : FixtureEntry} (h : s.revokedEntry id e = some e') :
    e'.tag = e.tag ∧ e'.standing = e.standing := by
  unfold State.revokedEntry at h
  split at h
  · split at h
    · cases h; exact ⟨rfl, rfl⟩
    · split at h
      · cases h
      · cases h; exact ⟨rfl, rfl⟩
  · cases h; exact ⟨rfl, rfl⟩

theorem State.revokePass_tables (s : State) (id : PassId) : tablesKept s (s.revokePass id) := by
  unfold State.revokePass
  split
  · refine tablesKept.ite ?_ (.refl s)
    have hupdate : tablesKept s (s.updatePass id (fun p => { p with owner := .none })) := State.updatePass_tables_of_members (fun _ => ⟨rfl, rfl⟩)
    simp only []
    refine tablesKept.trans ?_ (State.settleLatest_tables _ _ _)
    refine tablesKept.trans ?_ (tablesKept_foldl (fun t _ s => s.book_tables _ _) _)
    refine hupdate.trans ?_
    refine tablesKept_of_fixtures (State.setFixtures_framed _ _) (entriesKept_bind (fun e e' he => ?_))
    obtain ⟨htag, hst⟩ := State.revokedEntry_kept _ id he
    exact ⟨htag, by rw [FixtureEntry.zones, hst, ← FixtureEntry.zones]; omega⟩
  · exact .refl s

/-! ### Fixtures -/

theorem State.announceNew_tables {s : State} {t : Tag} {sch : Schedule} (hnone : s.fixture t = none) (hzero : t ≠ 0) (hzones : sch.blackout.length ≤ 16) :
    tablesKept s (s.announceNew t sch) := by
  unfold State.announceNew
  simp only []
  split
  · split
    · exact (State.createFixture_tables ‹_› hnone hzero (by exact hzones)).trans (State.book_tables _ _ _)
    · exact s.book_tables _ _
  · split
    · exact State.createFixture_tables ‹_› hnone hzero (by exact hzones)
    · exact s.book_tables _ _

theorem State.announceAwaiting_tables {s : State} (t : Tag) {sch : Schedule} (hzones : sch.blackout.length ≤ 16) :
    tablesKept s (s.announceAwaiting t sch) := by
  have hupdate : tablesKept s (s.updateFixture t (fun e =>
      { e with standing := .scheduled sch (firstPhase sch s.now), remaining := sch.allowance.toNat, delivered := false })) :=
    State.updateFixture_tables (fun e => ⟨rfl, by change sch.blackout.length ≤ _; omega⟩)
  exact (hupdate.trans (State.cancelEffect_tables _ _)).ite hupdate

theorem State.announceAgain_tables {s : State} (t : Tag) {sch : Schedule} (old : Schedule) (ph : Phase) (hzones : sch.blackout.length ≤ 16) :
    tablesKept s (s.announceAgain t sch old ph) := by
  have hupdate : tablesKept s (s.updateFixture t (fun e =>
      { e with
        standing := .scheduled { sch with cancelled := sch.cancelled || old.cancelled } (nextPhase sch s.now ph)
        remaining := min e.remaining sch.allowance.toNat })) :=
    State.updateFixture_tables (fun e => ⟨rfl, by change sch.blackout.length ≤ _; omega⟩)
  exact (hupdate.trans (State.cancelEffect_tables _ _)).ite hupdate

theorem announceFault_none {cell : List Byte} (h : announceFault cell = none) : (parseHeader cell).tag ≠ 0 := by
  intro hzero
  simp [announceFault, hzero] at h

theorem State.applyAnnouncement_tables (s : State) (cell : List Byte) : tablesKept s (s.applyAnnouncement cell) := by
  have hzones := announceSchedule_zones_le cell
  unfold State.applyAnnouncement
  split
  · exact s.book_tables _ _
  · rename_i hfault
    simp only []
    split
    · exact State.announceNew_tables ‹_› (announceFault_none hfault) hzones
    · split
      · exact State.announceAwaiting_tables _ hzones
      · exact State.announceAgain_tables _ _ _ hzones

theorem State.entitleFixture_tables (s : State) (t : Tag) : tablesKept s (s.entitleFixture t) := by
  unfold State.entitleFixture
  split
  · exact .refl s
  · split
    · split
      · exact (s.setKind_tables t _).trans (State.book_tables _ _ _)
      · exact (s.setKind_tables t _).trans (State.book_tables _ _ _)
      · exact .refl s
      · exact .refl s
    · split
      · exact (State.createFixture_tables ‹_› ‹_› ‹_› (Nat.zero_le _)).trans (State.book_tables _ _ _)
      · exact s.book_tables _ _

theorem State.revokeFixture_tables (s : State) (t : Tag) : tablesKept s (s.revokeFixture t) := by
  unfold State.revokeFixture
  split
  · refine tablesKept.ite ?_ (.refl s)
    split
    · exact (s.setKind_tables t _).trans (State.book_tables _ _ _)
    · exact ((s.removeFixtures_tables _).trans (State.book_tables _ _ _)).ite ((s.disentitle_tables t).trans (State.book_tables _ _ _))
  · exact .refl s

theorem State.nightReset_tables (s : State) : tablesKept s s.nightReset := by
  unfold State.nightReset
  simp only []
  refine tablesKept.trans (t := (s.setPurse { s.purse with spent := 0 }).removeFixtures (nightRemoves s.refunds)) ?_ ?_
  · exact (tablesKept_of_framed (s.setPurse_framed _)).trans (State.removeFixtures_tables _ _)
  · exact tablesKept_of_passes (State.setPasses_framed _ _) (entriesKept_update (fun _ _ he => nomatch he))

theorem FixtureEntry.advance_zones (c : Seconds) (e : FixtureEntry) : (e.advance c).tag = e.tag ∧ (e.advance c).zones = e.zones := by
  obtain ⟨tag, standing, kind, viewed, remaining, delivered⟩ := e
  unfold FixtureEntry.advance
  cases standing with
  | awaiting => exact ⟨rfl, rfl⟩
  | scheduled sch ph => simp only []; split <;> exact ⟨rfl, rfl⟩

theorem State.advancePhases_tables (s : State) (c : Seconds) : tablesKept s (s.advancePhases c) :=
  ⟨entriesKept_map (fun e => ⟨(e.advance_zones c).1, by rw [(e.advance_zones c).2]; omega⟩), .refl _ _ _, id⟩

theorem State.meterPreview_tables (s : State) : tablesKept s s.meterPreview :=
  ⟨entriesKept_map (fun e => ⟨rfl, Nat.le_max_right 16 e.zones⟩), .refl _ _ _, id⟩

theorem State.withClock_tables (s : State) (c : Clock) : tablesKept s { s with clock := c } := tablesKept_of_same rfl rfl rfl

theorem State.secondEvent_tables (s : State) : tablesKept s s.secondEvent :=
  (((s.withClock_tables _).trans (State.advancePhases_tables _ _)).trans (State.meterPreview_tables _)).ite (.refl s)

theorem State.tick_tables (s : State) : tablesKept s s.tick := (s.secondEvent_tables.ite (s.withClock_tables _)).ite (.refl s)

theorem State.adoptTime_tables (s : State) (v : Seconds) : tablesKept s (s.adoptTime v) := by
  have hadopt := (s.withClock_tables { running := true, value := v, sub := 0 }).trans (State.advancePhases_tables _ v)
  exact (hadopt.trans (State.book_tables _ _ _)).ite hadopt

/-! ### Verdicts and fills -/

theorem State.applyOrigin_tables (s : State) (o : Origin) (t : Tag) : tablesKept s (s.applyOrigin o t) := by
  cases o with
  | plain => exact .refl s
  | entitled => exact State.updateFixture_tables_of_standing (fun e => by split <;> exact ⟨rfl, rfl⟩)
  | preview => exact State.updateFixture_tables_of_standing (fun _ => ⟨rfl, rfl⟩)

theorem State.touchedOrigin_tables (s : State) (svc : Service) (o : Origin) (t : Tag) : tablesKept s ((s.touchKey svc).applyOrigin o t) :=
  (tablesKept_of_framed (s.updateKey_framed _ _)).trans (State.applyOrigin_tables _ o t)

theorem State.runChain_tables (s : State) (h : Header) : tablesKept s (s.runChain h).2 := by
  unfold State.runChain State.checkKey
  split
  · exact .refl s
  · split
    · exact s.touchedOrigin_tables _ _ _
    · exact .refl s
    · exact .refl s

theorem settleParts_tables (ps : List Part) : ∀ s : State, tablesKept s (settleParts ps s).2 := by
  induction ps with
  | nil => exact tablesKept.refl
  | cons p ps ih =>
    intro s
    refine tablesKept.trans ?_ (ih _)
    unfold settlePart
    split
    · exact .refl s
    · split
      · exact (s.runChain_tables _).trans (tablesKept_of_framed (State.latch_framed _ _ _ _))
      · exact .refl s
      · exact .refl s
    · exact .refl s

theorem State.memoryAnswer_tables (s : State) (id : Nat) (a : Answer) : tablesKept s (s.memoryAnswer id a) := by
  unfold State.memoryAnswer
  split
  · exact .refl s
  · rename_i e _
    refine (tablesKept.refl s).ite ((tablesKept_of_framed ((s.setInflight_framed _ _).andThen (cs := [.emitted, .path]) (State.drain_framed _))).ite ?_)
    exact (settleParts_tables e.parts s).trans (tablesKept_of_framed (((State.setInflight_framed _ _ _).andThen (cs := [.emitted, .path])
      (State.presentTogether_framed _ _)).andThen (cs := [.emitted, .path]) (State.drain_framed _)))

theorem fillHolds_tables (svc : Service) (odd : Bool) (n : Period) (rs : List Slot) : ∀ s : State, tablesKept s (fillHolds svc odd n rs s) := by
  induction rs with
  | nil => exact tablesKept.refl
  | cons r rs ih =>
    intro s
    unfold fillHolds
    split
    · split
      · refine tablesKept.trans ?_ (ih _)
        unfold State.endHoldByFill
        split
        · exact (s.touchedOrigin_tables _ _ _).trans (tablesKept_of_framed (State.finishHold_framed _ _ _ _ _))
        · exact tablesKept_of_framed (s.finishHold_framed _ _ _ _)
      · exact ih s
    · exact ih s

theorem State.completeKey_tables (s : State) (cell : List Byte) : tablesKept s (State.completeKey cell s) := by
  unfold State.completeKey
  simp only []
  split
  · split
    · exact (tablesKept_of_framed (s.updateKey_framed _ _)).trans (fillHolds_tables _ _ _ _ _)
    · exact tablesKept_of_framed (s.updateKey_framed _ _)
  · exact .refl s

/-! ### Requests taken -/

theorem State.handOver_tables (s : State) (cell : List Byte) : tablesKept s (s.handOver cell) := by
  have hqueue : ∀ (u : State) q, tablesKept u (u.enqueue q) := fun _ _ => tablesKept_of_same rfl rfl rfl
  have hdrop : ∀ k, tablesKept s (s.queueOrDrop k cell) := fun _ => (s.book_tables _ _).ite (hqueue s _)
  unfold State.handOver
  split
  · refine (s.book_tables _ _).ite ?_
    split
    · unfold State.takeKeyCell
      split
      · exact .refl s
      · simp only []
        split
        · exact (tablesKept.refl s).ite ((s.book_tables _ _).ite ((tablesKept_of_framed (s.updateKey_framed _ _)).trans (hqueue _ _)))
        · split
          · exact s.book_tables _ _
          · exact (s.book_tables _ _).ite (tablesKept_of_same rfl rfl rfl)
    · exact (s.book_tables _ _).ite ((tablesKept.refl s).ite ((s.book_tables _ _).ite (hdrop _)))
    · exact hdrop _
    · exact hdrop _
    · exact hdrop _
  · exact .refl s

theorem State.setOrderProducer_tables (s : State) (v : BitVec 32) : tablesKept s (s.setOrderProducer v) := by
  unfold State.setOrderProducer
  split
  · refine (s.book_tables _ _).ite ?_
    simp only []
    split
    · exact tablesKept_of_framed (s.withOrders_framed _)
    · exact tablesKept_of_framed ((s.withOrders_framed _).andThen (cs := [.orders]) (State.wake_framed _))
  · exact .refl s

theorem State.setReportConsumer_tables (s : State) (v : BitVec 32) : tablesKept s (s.setReportConsumer v) := by
  unfold State.setReportConsumer
  split
  · exact (s.book_tables _ _).ite (tablesKept_of_same rfl rfl rfl)
  · exact .refl s

theorem State.notices_tables (s : State) (c : Cls) (w : WriteReq) (kept : List Bool) : tablesKept s (s.notices c w kept) := by
  have horder : tablesKept s (s.noticeOrder w kept) := by
    unfold State.noticeOrder
    split
    · split
      · exact s.setOrderProducer_tables _
      · exact .refl s
    · exact .refl s
  have hreport : ∀ u : State, tablesKept u (u.noticeReport w kept) := fun u => by
    unfold State.noticeReport
    split
    · split
      · exact u.setReportConsumer_tables _
      · exact .refl u
    · exact .refl u
  exact (horder.trans (hreport _)).ite (.refl s)

theorem State.bookShield_tables (s : State) (c : Cls) (lost : List Nat) : tablesKept s (s.bookShield c lost) := by
  unfold State.bookShield
  split
  · split
    · exact s.book_tables _ _
    · exact .refl s
  · exact .refl s

theorem State.takeRequest_tables (s : State) (r : Request) : tablesKept s (s.takeRequest r) := by
  by_cases hroom : roomFor (handled (requestClass r)) s
  · have hafter : ∀ u : State, tablesKept u (u.showPlacement (handled (requestClass r)) r).drain := fun u =>
      tablesKept_of_framed ((u.showPlacement_framed _ r).andThen (cs := [.placement, .emitted, .path]) (State.drain_framed _))
    cases r with
    | read q =>
      rw [State.takeRequest_read hroom]
      exact (tablesKept_of_framed (s.takeRead_framed _ q)).trans (hafter _)
    | write w =>
      rw [State.takeRequest_write hroom, State.takeWrite_eq]
      refine tablesKept.trans ?_ (hafter _)
      refine tablesKept.trans ?_ (tablesKept_of_framed ((State.takeOn_framed _ _ _ _ _).andThen (cs := [.path, .emitted]) (State.presentTogether_framed _ _)))
      refine tablesKept.trans ?_ (State.bookShield_tables _ _ _)
      refine tablesKept.trans ?_ (State.notices_tables _ _ _ _)
      exact (tablesKept_of_framed (s.trackWrite_framed _ _ _)).trans ((State.handOver_tables _ _).ite (.refl _))
  · rw [State.takeRequest_full (Nat.le_of_not_lt hroom)]
    exact .refl s

/-! ### Orders and reports -/

theorem State.buyFixture_tables (s : State) (t : Tag) (price : Nat) : tablesKept s (s.buyFixture t price) :=
  ((tablesKept_of_framed ((s.setPurse_framed _).andThen (cs := [.purse, .log]) (State.addEntry_framed _ _ _ _))).trans
    (State.setKind_tables _ t _)).trans (State.bookNearlyFull_tables _)

theorem State.buyPass_tables (s : State) (id : PassId) (price : Nat) : tablesKept s (s.buyPass id price) := by
  have howned : ∀ u : State, tablesKept u (u.updatePass id (fun p => { p with owner := .bought (BitVec.ofNat 16 price) })) :=
    fun u => State.updatePass_tables_of_members (fun _ => ⟨rfl, rfl⟩)
  refine tablesKept.trans ?_ (State.bookNearlyFull_tables _)
  refine tablesKept.trans ?_ (State.propagate_tables _ _ _)
  refine tablesKept.trans ?_ (howned _)
  exact tablesKept_of_framed ((s.setPurse_framed _).andThen (cs := [.purse, .log]) (State.addEntry_framed _ _ _ _))

theorem State.cancelFixture_tables (s : State) (t : Tag) : tablesKept s (s.cancelFixture t) :=
  ((s.refund_tables _ _ _).trans (State.disentitle_tables _ t)).trans (State.bookNearlyFull_tables _)

theorem State.takeOrder_tables {s : State} {is : Answer → Bool} {need : Nat} {f : Nat → Answer → State → List Report × State}
    (hf : ∀ slot a, tablesKept s (f slot a s).2) : tablesKept s (s.takeOrder is need f) :=
  State.takeOrder_keeps (I := tablesKept s) (.refl s) (fun _ _ h => h.trans (tablesKept_of_same rfl rfl rfl)) (fun slot a _ => hf slot a)

theorem State.writeCondition_tables (s : State) : tablesKept s s.writeCondition := by
  unfold State.writeCondition
  split
  · split
    · exact (tablesKept_of_framed (s.writeReport_framed _)).trans (State.unbook_tables _ _)
    · exact .refl s
  · exact .refl s

/-! ### The restore -/

/-- A fixture record of a section read of the right shape (R64, R69, R172). -/
def fixtureShaped (r : FixtureRec) : Prop := r.tag ≠ 0 ∧ ∀ sch, r.queued = some sch → sch.blackout.length ≤ 16

/-- A pass record of a section read of the right shape (R80, R172). -/
def passShaped (r : PassRec) : Prop := r.id ≠ 0 ∧ r.members.length ≤ 16

/-- The records of S2 are of the right shape. -/
def recordsShaped (f : S2Fields) : Prop := (∀ r ∈ f.fixtures, fixtureShaped r) ∧ ∀ r ∈ f.passes, passShaped r

theorem State.joinRefunds_tables (s : State) (t : Tag) : tablesKept s (s.joinRefunds t) := tablesKept_of_framed (s.joinRefunds_framed t)

theorem FixtureEntry.requeued_zones {r : FixtureRec} {sch : Schedule} (hzones : sch.blackout.length ≤ 16) (e : FixtureEntry) :
    (e.requeued r sch).zones ≤ max 16 e.zones := by
  obtain ⟨tag, standing, kind, viewed, remaining, delivered⟩ := e
  cases standing with
  | awaiting => exact Nat.le_trans hzones (Nat.le_max_left _ _)
  | scheduled old ph => exact Nat.le_max_right 16 _

theorem State.restoreRecord_tables {r : FixtureRec} (hr : fixtureShaped r) (s : State) : tablesKept s (s.restoreRecord r) := by
  obtain ⟨hzero, hzones⟩ := hr
  unfold State.restoreRecord
  split
  · rename_i sch hq
    unfold State.restoreQueued
    split
    · exact (State.updateFixture_tables (f := FixtureEntry.requeued r sch) (fun e => ⟨rfl, e.requeued_zones (hzones sch hq)⟩)).trans (State.joinRefunds_tables _ _)
    · split
      · exact (State.createFixture_tables (e := queuedEntry r sch) ‹_› ‹_› hzero (hzones sch hq)).trans (State.joinRefunds_tables _ _)
      · exact s.book_tables _ _
  · unfold State.restoreFixture
    split
    · have hupdate : tablesKept s (s.updateFixture r.tag (fun e => { e with kind := recordKind r, viewed := r.viewed })) :=
        State.updateFixture_tables_of_standing (fun _ => ⟨rfl, rfl⟩)
      exact (hupdate.trans (State.cancelEffect_tables _ _)).ite hupdate
    · split
      · exact State.createFixture_tables (e := awaitingEntry r.tag (recordKind r) r.viewed) ‹_› ‹_› hzero (Nat.zero_le _)
      · exact s.book_tables _ _

theorem State.restorePass_tables {r : PassRec} (hr : passShaped r) (s : State) : tablesKept s (s.restorePass r) := by
  obtain ⟨hzero, hmembers⟩ := hr
  unfold State.restorePass
  simp only []
  split
  · have hupdate : tablesKept s (s.updatePass r.id (fun p => { p with owner := r.owner })) := State.updatePass_tables_of_members (fun _ => ⟨rfl, rfl⟩)
    exact hupdate.ite (hupdate.trans (State.propagate_tables _ _ _))
  · split
    · have hcreate := State.createPass_tables ‹_› ‹_› hzero hmembers
      exact hcreate.ite (hcreate.trans (State.propagate_tables _ _ _))
    · exact s.book_tables _ _

theorem State.serveRestored_tables (s : State) : tablesKept s s.serveRestored := by
  have hserve : tablesKept s (s.serveRefunds.settleQueue s.refunds) := (serveFrom_tables s.refunds s).trans (State.settleQueue_tables _ _)
  exact (hserve.trans (State.book_tables _ _ _)).ite hserve

theorem State.endRestore_tables {j2 : Judged S2Fields} (h : recordsShaped (recordsOf j2)) (j0 : Judged S0Fields) (j1 : Judged (List LogEntry)) (st : RetentionState)
    (s : State) : tablesKept s (s.endRestore j0 j1 j2 st) := by
  have hcredit : tablesKept s
      (if (restoredCredit j0 j1).reconciled then (s.takeCredit (restoredCredit j0 j1)).bookLost (only .s1) else s.takeCredit (restoredCredit j0 j1)) :=
    ((tablesKept_of_framed (s.takeCredit_framed _)).trans (State.book_tables _ _ _)).ite (tablesKept_of_framed (s.takeCredit_framed _))
  have hrecords : ∀ u : State, tablesKept u (u.restoreRecords (recordsOf j2)) := fun u =>
    (tablesKept_foldl (fun r hr v => State.restoreRecord_tables (h.1 r hr) v) u).trans (tablesKept_foldl (fun r hr v => State.restorePass_tables (h.2 r hr) v) _)
  rw [State.endRestore_eq]
  refine ((hcredit.trans (hrecords _)).trans (State.serveRestored_tables _)).trans ?_
  exact tablesKept_of_framed ((((State.settleS2_framed _ _ _).andThen (cs := [.store]) (State.setStore_framed _ st)).andThen
    (cs := [.store, .placement, .reports]) (State.handPlaced_framed _)).andThen (cs := [.store, .placement, .reports, .orders]) (State.wake_framed _))

theorem recordsShaped_none : recordsShaped { fixtures := [], passes := [] } := ⟨fun _ hr => (nomatch hr), fun _ hr => (nomatch hr)⟩

/-- What a judged section read of the right shape gives the tables is of the right shape. -/
theorem judgeS2_shaped {x : SectionBytes S2Fields} (h : (SectionRead.s2 x).wf = true) : recordsShaped (recordsOf (judgeS2 x)) := by
  have hfields : recordsShaped x.fields := by
    simp only [SectionRead.wf, Bool.and_eq_true, List.all_eq_true, decide_eq_true_eq, bne_iff_ne] at h
    obtain ⟨⟨⟨⟨-, hfixtures⟩, -⟩, -⟩, hpasses⟩ := h
    refine ⟨fun r hr => ⟨(hfixtures r hr).1, fun sch hsch => ?_⟩, fun r hr => hpasses r hr⟩
    simpa [hsch, Schedule.wf] using (hfixtures r hr).2
  unfold judgeS2
  rcases judge_cases x (x.fields.fixtures.all recordOk) x.fields with ⟨-, h⟩ | ⟨-, -, h⟩ | ⟨-, -, -, h⟩ <;> rw [h]
  · exact recordsShaped_none
  · exact recordsShaped_none
  · exact hfields

theorem State.sectionRead_tables {r : SectionRead} (h : r.wf = true) (s : State) : tablesKept s (s.sectionRead r) := by
  have hjudged : ∀ {α : Type} (j : Judged α) x st t, tablesKept s (State.bus t ((s.bookIfLost j x).setStore st)) := fun j x st t =>
    (s.bookIfLost_tables j x).trans (tablesKept_of_framed ((State.setStore_framed _ st).andThen (cs := [.store, .emitted]) (State.bus_framed _ t)))
  unfold State.sectionRead
  refine (tablesKept.refl s).ite ?_
  split
  · exact hjudged _ _ _ _
  · exact hjudged _ _ _ _
  · exact (s.bookIfLost_tables _ _).trans (State.endRestore_tables (judgeS2_shaped h) _ _ _ _)
  · exact .refl s

theorem State.storeFails_tables (s : State) (why : NoAck) : tablesKept s (s.storeFails why) := by
  have hmaybe : ∀ (u : State) (b : Bool) (x : SectionSet), tablesKept u (if b then u.bookLost x else u) :=
    fun u _ x => (u.book_tables _ _).ite (.refl u)
  have hfail : ∀ (u : State) j0 j1, tablesKept u (u.failRestore j0 j1) := fun u j0 j1 =>
    (((hmaybe u _ _).trans (hmaybe _ _ _)).trans (State.book_tables _ _ _)).trans (State.endRestore_tables (j2 := .lost) recordsShaped_none _ _ _ _)
  unfold State.storeFails
  refine tablesKept.ite ?_ (.refl s)
  split
  · exact ((tablesKept_of_framed (s.withStore_framed _)).trans (hfail _ _ _)).trans (State.book_tables _ _ _)
  · exact (tablesKept_of_framed (s.withStore_framed _)).trans (State.book_tables _ _ _)
  · exact .refl s

/-! ### Every command but power-on reset -/

theorem State.grant_tables {s : State} {is : List Byte → Bool} {owner : List Byte → State → State} (h : ∀ cell u, tablesKept u (owner cell u)) :
    tablesKept s (s.completeGrant is owner) :=
  State.completeGrant_keeps (I := tablesKept s) (.refl s) (fun u hu => hu.trans (tablesKept_of_framed u.popCell_framed))
    (fun cell _ => (tablesKept_of_framed (s.advanceSeq_framed cell)).trans (h cell _))

theorem State.completion_tables {s : State} {k : CtrlKind} {effect : List Byte → State → State} (h : ∀ cell, tablesKept s (effect cell s)) :
    tablesKept s (s.complete k effect) :=
  State.complete_keeps (I := tablesKept s) (.refl s) (fun u hu => hu.trans (tablesKept_of_framed u.popCell_framed)) (fun cell _ => h cell)

theorem countsBounded_none : countsBounded Conditions.none := fun k => by rw [Conditions.none_get]; exact Nat.zero_le _

theorem State.linkReset_tables (s : State) : tablesKept s s.linkReset where
  fixtures := entriesKept_map (fun e => ⟨rfl, Nat.le_max_right 16 e.zones⟩)
  passes := .refl _ _ _
  conds h := countsBounded_set countsBounded_none .storeLost (h .storeLost)

theorem after_tables {c : Instr} (hc : c ≠ .powerOnReset) (hwf : c.wf = true) (s : State) : tablesKept s (after c s) := by
  cases c with
  | powerOnReset => exact absurd rfl hc
  | linkReset => exact s.linkReset_tables
  | upstreamRead | upstreamWrite | wholeCellWrite | cellBreak | gatedRead | armingWrite | orderProducerWrite | reportConsumerWrite =>
    exact s.takeRequest_tables _
  | gatedReadAnswer id a | forwardedAnswer id a => exact s.memoryAnswer_tables id a
  | unwrapCompletion => exact (State.completion_tables (fun cell => s.completeKey_tables cell)).trans (tablesKept_of_framed (State.drain_framed _))
  | announcement => exact State.completion_tables (fun cell => s.applyAnnouncement_tables cell)
  | passCellCompletion => exact State.completion_tables (fun cell => s.applyPassCell_tables cell)
  | timeCellAdoption => exact State.completion_tables (fun cell => s.adoptTime_tables _)
  | entitleFixture => exact State.grant_tables (fun cell u => u.entitleFixture_tables _)
  | entitlePass => exact State.grant_tables (fun cell u => u.entitlePass_tables _)
  | revokeFixture => exact State.grant_tables (fun cell u => u.revokeFixture_tables _)
  | revokePass => exact State.grant_tables (fun cell u => u.revokePass_tables _)
  | logAck => exact State.grant_tables (fun cell u => u.acknowledge_tables _)
  | nightReset => exact State.grant_tables (fun cell u => u.nightReset_tables)
  | secondEvent => exact s.secondEvent_tables
  | buyFixture =>
    refine State.takeOrder_tables (fun slot a => ?_)
    unfold State.answerBuyFixture
    simp only []
    split
    · exact s.buyFixture_tables _ _
    · exact .refl s
  | buyPass =>
    refine State.takeOrder_tables (fun slot a => ?_)
    unfold State.answerBuyPass
    simp only []
    split
    · exact s.buyPass_tables _ _
    · exact .refl s
  | cancel =>
    refine State.takeOrder_tables (fun slot a => ?_)
    unfold State.answerCancel
    simp only []
    split
    · exact s.cancelFixture_tables _
    · exact .refl s
  | conditionWrite => exact s.writeCondition_tables
  | eepromSectionRead r => exact State.sectionRead_tables hwf s
  | eepromNoAcknowledge why => exact s.storeFails_tables why
  | _ => exact tablesKept_of_framed (after_framed _ s) (by simp [footprint]) (by simp [footprint]) (by simp [footprint])

theorem cycle_tables (s : State) : tablesKept s s.busCycle.tick := (tablesKept_of_framed s.busCycle_framed).trans (State.tick_tables _)

end Sys2Proof.Machine

/-! Proofs: the key bank table (R29), and the keys of all three tables through every step. -/

namespace Sys2Proof.Machine

open Sys2Proof.Safety

set_option Elab.async false

/-! ### The key bank table (R29 to R38) -/

/-- A key bank entry in use has a slot that is PENDING or VALID. -/
def KeyEntry.live (e : KeyEntry) : Prop := ¬ (e.even = .empty ∧ e.odd = .empty)

/-- What the key bank table keeps through a step. -/
structure keysKept (t t' : List (Option KeyEntry)) : Prop where
  length : t'.length = t.length
  distinct : keyed KeyEntry.service t → keyed KeyEntry.service t'
  live : (∀ e, inUse t e → e.live) → ∀ e, inUse t' e → e.live

theorem keysKept.refl (t : List (Option KeyEntry)) : keysKept t t := ⟨rfl, id, id⟩

theorem keysKept.trans {t t' t'' : List (Option KeyEntry)} (h : keysKept t t') (h' : keysKept t' t'') : keysKept t t'' :=
  ⟨h'.length.trans h.length, h'.distinct ∘ h.distinct, h'.live ∘ h.live⟩

theorem keysKept_of_framed {bs : List Block} {s t : State} (h : framed bs s t) (hb : .keys ∉ bs := by decide) : keysKept s.keys t.keys := by
  rw [h.keys hb]
  exact .refl _

theorem keysKept_bind {t : List (Option KeyEntry)} {g : KeyEntry → Option KeyEntry}
    (hg : ∀ e e', g e = some e' → e'.service = e.service ∧ (e.live → e'.live)) : keysKept t (t.map (fun o => o.bind g)) where
  length := List.length_map _
  distinct h := h.sublist (keys_sublist (fun e e' he => (hg e e' he).1) t)
  live h e' he' := by
    obtain ⟨e, he, hge⟩ := inUse_bind he'
    exact (hg e e' hge).2 (h e he)

/-- A service's entry stays with its service, live, or goes out of use. -/
theorem State.updateKey_kept {s : State} {svc : Service} {f : KeyEntry → Option KeyEntry}
    (hf : ∀ e e', f e = some e' → e'.service = e.service ∧ (e.live → e'.live)) : keysKept s.keys (s.updateKey svc f).keys :=
  keysKept_bind (fun e e' he => by
    split at he
    · exact hf e e' he
    · cases he; exact ⟨rfl, id⟩)

theorem keysKept_set {t : List (Option KeyEntry)} {x : KeyEntry} (hfresh : ∀ e, inUse t e → e.service ≠ x.service) (hlive : x.live) (i : Nat) :
    keysKept t (t.set i (some x)) where
  length := List.length_set
  distinct h := keyed_set hfresh h i
  live h e he := by
    rcases inUse_set he with rfl | he
    · exact hlive
    · exact h e he

theorem KeyEntry.setSlot_service (e : KeyEntry) (odd : Bool) (k : KeySlot) : (e.setSlot odd k).service = e.service := by
  unfold KeyEntry.setSlot
  split <;> rfl

theorem KeyEntry.setSlot_live (e : KeyEntry) (odd : Bool) {k : KeySlot} (hk : k ≠ .empty) : (e.setSlot odd k).live := by
  unfold KeyEntry.setSlot
  split
  · exact fun h => hk h.2
  · exact fun h => hk h.1

/-- With one slot EMPTY an entry is live while its other slot is not. -/
theorem KeyEntry.setSlot_empty_live {e : KeyEntry} {odd : Bool} (h : e.slot (!odd) ≠ .empty) : (e.setSlot odd .empty).live := by
  cases odd with
  | false => exact fun hl => h hl.2
  | true => exact fun hl => h hl.1

theorem State.touchKey_kept (s : State) (svc : Service) : keysKept s.keys (s.touchKey svc).keys :=
  State.updateKey_kept (fun e e' he => by cases he; exact ⟨rfl, id⟩)

theorem State.markKey_kept (s : State) (svc : Service) (odd : Bool) {k : KeySlot} (hk : k ≠ .empty) :
    keysKept s.keys (s.updateKey svc (fun e => some (e.setSlot odd k))).keys :=
  State.updateKey_kept (fun e e' he => by cases he; exact ⟨e.setSlot_service _ _, fun _ => e.setSlot_live _ hk⟩)

theorem State.emptyKey_kept (s : State) (h : Header) : keysKept s.keys (s.emptyKey h).keys :=
  State.updateKey_kept (fun e e' he => by
    split at he
    · cases he
    · rename_i hother
      cases he
      exact ⟨e.setSlot_service _ _, fun _ => KeyEntry.setSlot_empty_live hother⟩)

theorem State.takeKeyCell_kept (s : State) (cell : List Byte) : keysKept s.keys (s.takeKeyCell cell).keys := by
  unfold State.takeKeyCell
  split
  · exact .refl _
  · simp only []
    split
    · split
      · exact .refl _
      split
      · exact .refl _
      · exact s.markKey_kept _ _ (by simp)
    · rename_i hnone
      split
      · exact .refl _
      · split
        · exact .refl _
        · refine keysKept_set (fun e he => ?_) (KeyEntry.setSlot_live _ _ (by simp)) _
          rw [KeyEntry.setSlot_service]
          simpa using tableFind_none hnone e he

theorem State.handOver_kept (s : State) (cell : List Byte) : keysKept s.keys (s.handOver cell).keys := by
  have hqueue : ∀ k, keysKept s.keys (s.queueOrDrop k cell).keys := fun k => by
    unfold State.queueOrDrop
    split <;> exact .refl _
  unfold State.handOver
  split
  · split
    · exact .refl _
    · split
      · exact s.takeKeyCell_kept cell
      · unfold State.takeGrantCell
        split
        · exact .refl _
        split
        · exact .refl _
        split
        · exact .refl _
        · exact hqueue _
      · exact hqueue _
      · exact hqueue _
      · exact hqueue _
  · exact .refl _

theorem State.handOverWrite_kept (s : State) (whole : Option (Nat × Nat)) (cell : List Byte) : keysKept s.keys (s.handOverWrite whole cell).keys := by
  unfold State.handOverWrite
  split
  · exact s.handOver_kept cell
  · exact .refl _

theorem State.touchedOrigin_kept (s : State) (svc : Service) (o : Origin) (t : Tag) : keysKept s.keys ((s.touchKey svc).applyOrigin o t).keys :=
  (s.touchKey_kept svc).trans (keysKept_of_framed (State.applyOrigin_framed _ o t))

theorem settleParts_kept (ps : List Part) : ∀ s : State, keysKept s.keys (settleParts ps s).2.keys := by
  induction ps with
  | nil => exact fun _ => .refl _
  | cons p ps ih =>
    intro s
    refine keysKept.trans ?_ (ih _)
    unfold settlePart
    split
    · exact .refl _
    · split
      · refine keysKept.trans ?_ (keysKept_of_framed (State.latch_framed _ _ _ _))
        unfold State.runChain State.checkKey
        split
        · exact .refl _
        · split
          · exact s.touchedOrigin_kept _ _ _
          · exact .refl _
          · exact .refl _
      · exact .refl _
      · exact .refl _
    · exact .refl _

theorem State.memoryAnswer_kept (s : State) (id : Nat) (a : Answer) : keysKept s.keys (s.memoryAnswer id a).keys := by
  unfold State.memoryAnswer
  split
  · exact .refl _
  · rename_i e _
    split
    · exact .refl _
    split
    · exact keysKept_of_framed ((s.setInflight_framed _ _).andThen (cs := [.emitted, .path]) (State.drain_framed _))
    · exact (settleParts_kept e.parts s).trans (keysKept_of_framed (((State.setInflight_framed _ _ _).andThen (cs := [.emitted, .path])
        (State.presentTogether_framed _ _)).andThen (cs := [.emitted, .path]) (State.drain_framed _)))

theorem fillHolds_kept (svc : Service) (odd : Bool) (n : Period) (rs : List Slot) : ∀ s : State, keysKept s.keys (fillHolds svc odd n rs s).keys := by
  induction rs with
  | nil => exact fun _ => .refl _
  | cons r rs ih =>
    intro s
    unfold fillHolds
    split
    · split
      · refine keysKept.trans ?_ (ih _)
        unfold State.endHoldByFill
        split
        · exact (s.touchedOrigin_kept _ _ _).trans (keysKept_of_framed (State.finishHold_framed _ _ _ _ _))
        · exact keysKept_of_framed (s.finishHold_framed _ _ _ _)
      · exact ih s
    · exact ih s

theorem State.completeKey_kept (s : State) (cell : List Byte) : keysKept s.keys (State.completeKey cell s).keys := by
  unfold State.completeKey
  simp only []
  split
  · split
    · exact (s.markKey_kept _ _ (by simp)).trans (fillHolds_kept _ _ _ _ _)
    · exact s.emptyKey_kept _
  · exact .refl _

theorem State.takeRequest_kept (s : State) (r : Request) : keysKept s.keys (s.takeRequest r).keys := by
  by_cases hroom : roomFor (handled (requestClass r)) s
  · have hafter : ∀ u : State, keysKept u.keys (u.showPlacement (handled (requestClass r)) r).drain.keys := fun u =>
      keysKept_of_framed ((u.showPlacement_framed _ r).andThen (cs := [.placement, .emitted, .path]) (State.drain_framed _))
    cases r with
    | read q =>
      rw [State.takeRequest_read hroom]
      exact (keysKept_of_framed (s.takeRead_framed _ q)).trans (hafter _)
    | write w =>
      rw [State.takeRequest_write hroom, State.takeWrite_eq]
      refine keysKept.trans ?_ (hafter _)
      refine keysKept.trans ?_ (keysKept_of_framed ((State.takeOn_framed _ _ _ _ _).andThen (cs := [.path, .emitted]) (State.presentTogether_framed _ _)))
      refine keysKept.trans ?_ (keysKept_of_framed ((State.notices_framed _ _ _ _).andThen (cs := [.orders, .reports, .conds])
        (State.bookShield_framed _ _ _)))
      exact (keysKept_of_framed (s.trackWrite_framed _ _ _)).trans (State.handOverWrite_kept _ _ _)
  · rw [State.takeRequest_full (Nat.le_of_not_lt hroom)]
    exact .refl _

/-- The key bank table is kept by every command but a reset. -/
theorem after_keys {c : Instr} (hreset : c ≠ .powerOnReset) (hlink : c ≠ .linkReset) (s : State) : keysKept s.keys (after c s).keys := by
  cases c with
  | powerOnReset => exact absurd rfl hreset
  | linkReset => exact absurd rfl hlink
  | upstreamRead | upstreamWrite | wholeCellWrite | cellBreak | gatedRead | armingWrite | orderProducerWrite | reportConsumerWrite =>
    exact s.takeRequest_kept _
  | gatedReadAnswer id a | forwardedAnswer id a => exact s.memoryAnswer_kept id a
  | unwrapCompletion =>
    exact (State.complete_keeps (I := fun u => keysKept s.keys u.keys) (.refl _) (fun u hu => hu) (fun cell _ => s.completeKey_kept cell)).trans
      (keysKept_of_framed (State.drain_framed _))
  | _ => exact keysKept_of_framed (after_framed _ s) (by simp [footprint, restoreBlocks])

/-! ### The three tables -/

theorem keyBankSound_iff (s : State) : KeyBankSound s ↔ keyed KeyEntry.service s.keys ∧ ∀ e, inUse s.keys e → e.live := Iff.rfl

theorem keyBankSound_of_kept {s t : State} (h : keysKept s.keys t.keys) (hs : KeyBankSound s) : KeyBankSound t := ⟨h.distinct hs.1, h.live hs.2⟩

theorem tablesKeyed_of_kept {s t : State} (h : tablesKept s t) (hs : TablesKeyed s) : TablesKeyed t := by
  obtain ⟨htags, hzero, hids, hpzero⟩ := hs
  exact ⟨h.fixtures.distinct htags, h.fixtures.nonzero hzero, h.passes.distinct hids, h.passes.nonzero hpzero⟩

/-- Tables without an entry in use are sound. -/
theorem keyed_replicate {α : Type} {n : Nat} (key : α → BitVec n) (m : Nat) : keyed key (List.replicate m none) := by
  rw [keyed, filterMap_replicate_none]
  exact List.nodup_nil

theorem keyBankSound_of_free {s : State} (h : s.keys = List.replicate 16 none) : KeyBankSound s := by
  rw [keyBankSound_iff, h]
  exact ⟨keyed_replicate _ _, fun e he => absurd he (not_inUse_replicate _ _)⟩

theorem tablesKeyed_of_free {s : State} (hf : s.fixtures = List.replicate 32 none) (hp : s.passes = List.replicate 4 none) : TablesKeyed s := by
  refine ⟨?_, ?_, ?_, ?_⟩
  · rw [hf]; exact keyed_replicate FixtureEntry.tag 32
  · rw [hf]; exact fun e he => absurd he (not_inUse_replicate _ _)
  · rw [hp]; exact keyed_replicate PassEntry.id 4
  · rw [hp]; exact fun e he => absurd he (not_inUse_replicate _ _)

theorem after_keyed {c : Instr} (hwf : c.wf = true) (s : State) (h : KeyBankSound s ∧ TablesKeyed s) : KeyBankSound (after c s) ∧ TablesKeyed (after c s) := by
  by_cases hreset : c = .powerOnReset
  · subst hreset
    exact ⟨keyBankSound_of_free rfl, tablesKeyed_of_free rfl rfl⟩
  · refine ⟨?_, tablesKeyed_of_kept (after_tables hreset hwf s) h.2⟩
    by_cases hlink : c = .linkReset
    · subst hlink
      exact keyBankSound_of_free rfl
    · exact keyBankSound_of_kept (after_keys hreset hlink s) h.1

theorem cycle_keyed (s : State) (h : KeyBankSound s ∧ TablesKeyed s) : KeyBankSound s.busCycle.tick ∧ TablesKeyed s.busCycle.tick :=
  ⟨keyBankSound_of_kept (keysKept_of_framed s.cycle_framed) h.1, tablesKeyed_of_kept (cycle_tables s) h.2⟩

/-- Settles O6: an entry keeps its key while it is in use, and a new one takes a key that no entry holds. -/
theorem tableKeysStayDistinct : Obligations.TableKeysStayDistinct := fun _ _ hkeys htables hfront h =>
  step_keeps (I := fun s => KeyBankSound s ∧ TablesKeyed s) (fun _ _ h => h) cycle_keyed (fun _ s hwf hs => after_keyed hwf s hs) hfront ⟨hkeys, htables⟩ h

end Sys2Proof.Machine

/-! Proofs: the capacities of Table 0-4 and the ranges of counters, through every step. -/

namespace Sys2Proof.Machine

open Sys2Proof.Safety

set_option Elab.async false

/-! ### The message queue (R118, R119, R123) -/

/-- The queue loses cells, or one cell joins the tail of a queue with room; no GRANT cell joins during the restore (R118, R120). -/
def queueMoves (s t : State) : Prop :=
  t.engine.queue.Sublist s.engine.queue ∨
    ∃ q, t.engine.queue = s.engine.queue ++ [q] ∧ s.engine.queue.length < 16 ∧ (q.kind = .grant → s.restoring = false)

theorem queueMoves_of_engine {s t : State} (h : t.engine = s.engine) : queueMoves s t := .inl (h ▸ List.Sublist.refl _)

theorem queueMoves_of_framed {bs : List Block} {s t : State} (h : framed bs s t) (hb : .engine ∉ bs := by decide) : queueMoves s t :=
  queueMoves_of_engine (h.engine hb)

theorem State.room_of_not_queueFull {s : State} (h : ¬ s.queueFull = true) : s.engine.queue.length < 16 := by
  simpa [State.queueFull] using h

theorem State.handOver_queue (s : State) (cell : List Byte) : queueMoves s (s.handOver cell) := by
  have hsame : queueMoves s s := queueMoves_of_engine rfl
  have hdrop : ∀ k, (k = .grant → s.restoring = false) → queueMoves s (s.queueOrDrop k cell) := fun k hk => by
    unfold State.queueOrDrop
    split
    · exact queueMoves_of_engine rfl
    · exact .inr ⟨⟨k, cell⟩, rfl, State.room_of_not_queueFull ‹_›, hk⟩
  unfold State.handOver
  split
  · split
    · exact queueMoves_of_engine rfl
    · split
      · unfold State.takeKeyCell
        split
        · exact hsame
        · simp only []
          split
          · split
            · exact hsame
            split
            · exact queueMoves_of_engine rfl
            · exact .inr ⟨⟨.key, cell⟩, rfl, State.room_of_not_queueFull ‹_›, nofun⟩
          · split
            · exact queueMoves_of_engine rfl
            · split
              · exact queueMoves_of_engine rfl
              · exact .inr ⟨⟨.key, cell⟩, rfl, State.room_of_not_queueFull ‹_›, nofun⟩
      · unfold State.takeGrantCell
        split
        · exact queueMoves_of_engine rfl
        split
        · exact hsame
        split
        · exact queueMoves_of_engine rfl
        · exact hdrop _ (fun _ => by simpa using ‹¬ s.restoring = true›)
      · exact hdrop _ nofun
      · exact hdrop _ nofun
      · exact hdrop _ nofun
  · exact hsame

theorem queueMoves.between {s s' t t' : State} (h : queueMoves s' t) (hs : s'.engine = s.engine) (hr : s'.restoring = s.restoring)
    (ht : t'.engine = t.engine) : queueMoves s t' := by
  unfold queueMoves at h ⊢
  rwa [ht, ← hs, ← hr]

theorem State.handOverWrite_queue (s : State) (whole : Option (Nat × Nat)) (cell : List Byte) : queueMoves s (s.handOverWrite whole cell) := by
  unfold State.handOverWrite
  split
  · exact s.handOver_queue cell
  · exact queueMoves_of_engine rfl

theorem State.takeRequest_queue (s : State) (r : Request) : queueMoves s (s.takeRequest r) := by
  by_cases hroom : roomFor (handled (requestClass r)) s
  · cases r with
    | read q =>
      rw [State.takeRequest_read hroom]
      exact queueMoves_of_framed (((s.takeRead_framed _ q).andThen (cs := [.path, .emitted, .placement]) (State.showPlacement_framed _ _ _)).andThen
        (cs := [.path, .emitted, .placement]) (State.drain_framed _))
    | write w =>
      rw [State.takeRequest_write hroom, State.takeWrite_eq]
      refine queueMoves.between (State.handOverWrite_queue (s.trackWrite (touchedSlots s.path.regions w.addr (keptEnables s.path.regions (handled w.cls) w))
        (wholeCellSlot s.path.regions w.addr (keptEnables s.path.regions (handled w.cls) w)) w.data)
        (wholeCellSlot s.path.regions w.addr (keptEnables s.path.regions (handled w.cls) w)) w.data) rfl rfl ?_
      exact ((((((State.notices_framed _ _ _ _).andThen (cs := [.orders, .reports, .conds]) (State.bookShield_framed _ _ _)).andThen
        (cs := [.orders, .reports, .conds, .path]) (State.takeOn_framed _ _ _ _ _)).andThen
        (cs := [.orders, .reports, .conds, .path, .emitted]) (State.presentTogether_framed _ _)).andThen
        (cs := [.orders, .reports, .conds, .path, .emitted, .placement]) (State.showPlacement_framed _ _ _)).andThen
        (cs := [.orders, .reports, .conds, .path, .emitted, .placement]) (State.drain_framed _)).engine
  · rw [State.takeRequest_full (Nat.le_of_not_lt hroom)]
    exact queueMoves_of_engine rfl

/-- A completion leaves the queue as it stands, or without its head. -/
theorem State.complete_queue {bs : List Block} {k : CtrlKind} {effect : List Byte → State → State} (hf : ∀ cell s, framed bs s (effect cell s)) (s : State)
    (hb : .engine ∉ bs := by decide) : queueMoves s (s.complete k effect) := by
  unfold State.complete
  split
  · refine .inl ?_
    change List.Sublist (State.engine _).queue.tail _
    rw [(hf _ s).engine hb]
    exact List.tail_sublist _
  · exact queueMoves_of_engine rfl

theorem State.completeGrant_queue {bs : List Block} {is : List Byte → Bool} {owner : List Byte → State → State} (hf : ∀ cell s, framed bs s (owner cell s))
    (s : State) (hb : .engine ∉ bs := by decide) : queueMoves s (s.completeGrant is owner) := by
  unfold State.completeGrant
  split
  · split
    · refine .inl ?_
      change List.Sublist (State.engine _).queue.tail _
      rw [(hf _ _).engine hb, (s.advanceSeq_framed _).engine]
      exact List.tail_sublist _
    · exact .inl (List.tail_sublist _)
  · exact queueMoves_of_engine rfl

theorem after_queue (c : Instr) (s : State) : queueMoves s (after c s) := by
  cases c with
  | powerOnReset | linkReset => exact .inl (List.nil_sublist _)
  | upstreamRead | upstreamWrite | wholeCellWrite | cellBreak | gatedRead | armingWrite | orderProducerWrite | reportConsumerWrite =>
    exact s.takeRequest_queue _
  | unwrapCompletion => exact (State.complete_queue (fun cell s => s.completeKey_framed cell) s).between rfl rfl (State.drain_framed _).engine
  | announcement => exact State.complete_queue (fun cell s => s.applyAnnouncement_framed cell) s
  | passCellCompletion => exact State.complete_queue (fun cell s => s.applyPassCell_framed cell) s
  | timeCellAdoption => exact State.complete_queue (fun cell s => s.adoptTime_framed _) s
  | groupSet | zoneSet | purseTopup | limitsSet => exact State.completeGrant_queue (fun cell s => s.setPurse_framed _) s
  | entitleFixture => exact State.completeGrant_queue (fun cell s => s.entitleFixture_framed _) s
  | entitlePass => exact State.completeGrant_queue (fun cell s => s.entitlePass_framed _) s
  | revokeFixture => exact State.completeGrant_queue (fun cell s => s.revokeFixture_framed _) s
  | revokePass => exact State.completeGrant_queue (fun cell s => s.revokePass_framed _) s
  | logAck => exact State.completeGrant_queue (fun cell s => s.acknowledge_framed _) s
  | nightReset => exact State.completeGrant_queue (fun cell s => s.nightReset_framed) s
  | _ => exact queueMoves_of_framed (after_framed _ s) (by simp [footprint, restoreBlocks])

theorem queueMoves.bounded {s t : State} (h : queueMoves s t) (hs : s.engine.queue.length ≤ 16) : t.engine.queue.length ≤ 16 := by
  rcases h with h | ⟨q, h, hroom, -⟩
  · exact Nat.le_trans h.length_le hs
  · rw [h, List.length_append, List.length_singleton]
    omega

/-! ### Memberships (R86, R129) -/

/-- The unit's memberships are unchanged. -/
def membershipsStand (s t : State) : Prop := t.purse.memberships = s.purse.memberships

theorem membershipsStand_of_framed {bs : List Block} {s t : State} (h : framed bs s t) (hb : .purse ∉ bs := by decide) : membershipsStand s t :=
  congrArg Purse.memberships (h.purse hb)

theorem membershipsStand.trans {s t u : State} (h : membershipsStand s t) (h' : membershipsStand t u) : membershipsStand s u := Eq.trans h' h

theorem serveFrom_memberships (q : List Tag) : ∀ s : State, membershipsStand s (serveFrom q s) := by
  induction q with
  | nil => exact fun _ => rfl
  | cons t rest ih =>
    intro s
    unfold serveFrom
    split
    · rfl
    · exact membershipsStand.trans (t := s.serveTag t rest) rfl (ih _)

theorem State.acknowledge_memberships (s : State) (n : Seq) : membershipsStand s (s.acknowledge n) := by
  refine membershipsStand.trans ?_ (membershipsStand_of_framed (State.settleQueue_framed _ _))
  exact membershipsStand.trans (t := s.removeEntries (ackCount s.log.entries n)) rfl (serveFrom_memberships _ _)

theorem State.cancelEffect_memberships (s : State) (t : Tag) : membershipsStand s (s.cancelEffect t) := by
  unfold State.cancelEffect
  split
  · split
    · split
      · rfl
      · refine membershipsStand.trans ?_ (membershipsStand_of_framed (State.book_framed _ _ _))
        refine membershipsStand.trans ?_ (membershipsStand_of_framed (State.bookNearlyFull_framed _))
        rfl
    · rfl
  · rfl

theorem State.applyAnnouncement_memberships (s : State) (cell : List Byte) : membershipsStand s (s.applyAnnouncement cell) := by
  unfold State.applyAnnouncement
  split
  · rfl
  · simp only []
    split
    · exact membershipsStand_of_framed (s.announceNew_framed _ _)
    · split
      · unfold State.announceAwaiting
        simp only []
        split
        · exact membershipsStand.trans (t := State.updateFixture _ _ s) rfl (State.cancelEffect_memberships _ _)
        · rfl
      · unfold State.announceAgain
        simp only []
        split
        · exact membershipsStand.trans (t := State.updateFixture _ _ s) rfl (State.cancelEffect_memberships _ _)
        · rfl

theorem State.advanceSeq_memberships (s : State) (cell : List Byte) : membershipsStand s (s.advanceSeq cell) := by
  unfold State.advanceSeq
  split <;> rfl

theorem State.grant_memberships {is : List Byte → Bool} {owner : List Byte → State → State} (h : ∀ cell u, membershipsStand u (owner cell u)) (s : State) :
    membershipsStand s (s.completeGrant is owner) :=
  State.completeGrant_keeps (I := membershipsStand s) rfl (fun _ hu => hu) (fun cell _ => (s.advanceSeq_memberships cell).trans (h cell _))

theorem State.takeOrder_memberships {s : State} {is : Answer → Bool} {need : Nat} {f : Nat → Answer → State → List Report × State}
    (hf : ∀ slot a, membershipsStand s (f slot a s).2) : membershipsStand s (s.takeOrder is need f) :=
  State.takeOrder_keeps (I := membershipsStand s) rfl (fun _ _ hu => hu) (fun slot a _ => hf slot a)

/-- GROUP_SET, a power-on reset and the restore set the memberships; every other command leaves them. -/
def setsMemberships : Instr → Bool
  | .powerOnReset | .groupSet | .eepromSectionRead _ | .eepromNoAcknowledge _ => true
  | _ => false

theorem after_memberships {c : Instr} (hc : setsMemberships c = false) (s : State) : membershipsStand s (after c s) := by
  cases c with
  | powerOnReset | groupSet | eepromSectionRead | eepromNoAcknowledge => exact absurd hc (by simp [setsMemberships])
  | announcement => exact State.complete_keeps (I := membershipsStand s) rfl (fun _ hu => hu) (fun cell _ => s.applyAnnouncement_memberships cell)
  | zoneSet => exact State.grant_memberships (owner := fun cell s => s.setZone (grantOp cell)) (fun _ _ => rfl) s
  | purseTopup => exact State.grant_memberships (owner := fun cell s => s.topup (grantAmount cell).toNat) (fun _ _ => rfl) s
  | limitsSet => exact State.grant_memberships (owner := fun cell s => s.setLimits (grantAmount cell).toNat (grantOverdraft cell)) (fun _ _ => rfl) s
  | entitleFixture => exact State.grant_memberships (fun cell u => membershipsStand_of_framed (u.entitleFixture_framed _)) s
  | entitlePass => exact State.grant_memberships (fun cell u => membershipsStand_of_framed (u.entitlePass_framed _)) s
  | revokeFixture => exact State.grant_memberships (fun cell u => membershipsStand_of_framed (u.revokeFixture_framed _)) s
  | revokePass => exact State.grant_memberships (fun cell u => membershipsStand_of_framed (u.revokePass_framed _)) s
  | logAck => exact State.grant_memberships (fun cell u => u.acknowledge_memberships _) s
  | nightReset => exact State.grant_memberships (owner := fun _ s => s.nightReset) (fun _ _ => rfl) s
  | buyFixture =>
    refine State.takeOrder_memberships (fun slot a => ?_)
    unfold State.answerBuyFixture
    simp only []
    split
    · refine membershipsStand.trans ?_ (membershipsStand_of_framed (State.bookNearlyFull_framed _))
      rfl
    · rfl
  | buyPass =>
    refine State.takeOrder_memberships (fun slot a => ?_)
    unfold State.answerBuyPass
    simp only []
    split
    · refine membershipsStand.trans ?_ (membershipsStand_of_framed (State.bookNearlyFull_framed _))
      refine membershipsStand.trans ?_ (membershipsStand_of_framed (State.propagate_framed _ _ _))
      rfl
    · rfl
  | cancel =>
    refine State.takeOrder_memberships (fun slot a => ?_)
    unfold State.answerCancel
    simp only []
    split
    · refine membershipsStand.trans ?_ (membershipsStand_of_framed (State.bookNearlyFull_framed _))
      rfl
    · rfl
  | _ => exact membershipsStand_of_framed (after_framed _ s) (by simp [footprint])

/-- Four memberships, in the purse and in what the restore has judged good so far (R86). -/
def membershipsFour (s : State) : Prop :=
  s.purse.memberships.length = 4 ∧ ∀ j0 j1, s.store.st = .restoring j0 j1 → ∀ f, j0 = some (.good f) → f.memberships.length = 4

theorem membershipsFour_of_same {s t : State} (h : membershipsFour s) (hm : t.purse.memberships.length = s.purse.memberships.length)
    (hst : t.store.st = s.store.st ∨ ∀ j0 j1, t.store.st ≠ .restoring j0 j1) : membershipsFour t := by
  refine ⟨hm.trans h.1, fun j0 j1 hj => ?_⟩
  rcases hst with hst | hst
  · exact h.2 j0 j1 (hst ▸ hj)
  · exact absurd hj (hst j0 j1)

theorem State.restoreRecords_memberships (f : S2Fields) (s : State) : membershipsStand s (s.restoreRecords f) := by
  refine foldl_keeps (I := membershipsStand s) (fun r _ u hu => hu.trans (membershipsStand_of_framed (u.restorePass_framed r))) _
    (foldl_keeps (I := membershipsStand s) (fun r _ u hu => hu.trans ?_) _ rfl)
  unfold State.restoreRecord
  split
  · unfold State.restoreQueued
    split
    · exact membershipsStand_of_framed ((u.updateFixture_framed _ _).andThen (cs := [.fixtures, .refunds]) (State.joinRefunds_framed _ _))
    · split
      · exact membershipsStand_of_framed ((State.createFixture_framed ‹_›).andThen (cs := [.fixtures, .refunds]) (State.joinRefunds_framed _ _))
      · rfl
  · unfold State.restoreFixture
    split
    · simp only []
      split
      · exact membershipsStand.trans (t := State.updateFixture _ _ u) rfl (State.cancelEffect_memberships _ _)
      · rfl
    · split
      · exact membershipsStand_of_framed (State.createFixture_framed ‹_›)
      · rfl

theorem restoredCredit_memberships {j0 : Judged S0Fields} (j1 : Judged (List LogEntry)) (h : ∀ f, j0 = .good f → f.memberships.length = 4) :
    (restoredCredit j0 j1).purse.memberships.length = 4 := by
  unfold restoredCredit
  split
  · exact h _ rfl
  · exact h _ rfl
  · rfl
  · rfl

theorem State.endRestore_memberships {j0 : Judged S0Fields} (h : ∀ f, j0 = .good f → f.memberships.length = 4) (j1 : Judged (List LogEntry))
    (j2 : Judged S2Fields) (st : RetentionState) (s : State) : (s.endRestore j0 j1 j2 st).purse.memberships.length = 4 := by
  have hcredit : ∀ u : State, u.purse = (restoredCredit j0 j1).purse →
      (State.purse (((u.restoreRecords (recordsOf j2)).serveRestored.settleS2 s.store.dirty.s2 j2).setStore st)).memberships.length = 4 := fun u hu => by
    have hserved : membershipsStand (u.restoreRecords (recordsOf j2)) (u.restoreRecords (recordsOf j2)).serveRestored := by
      have hserve := (serveFrom_memberships (u.restoreRecords (recordsOf j2)).refunds (u.restoreRecords (recordsOf j2))).trans
        (membershipsStand_of_framed (State.settleQueue_framed (State.serveRefunds (u.restoreRecords (recordsOf j2))) (u.restoreRecords (recordsOf j2)).refunds))
      unfold State.serveRestored
      simp only []
      split
      · exact hserve
      · exact hserve
    have hall : membershipsStand u (u.restoreRecords (recordsOf j2)).serveRestored := (State.restoreRecords_memberships _ u).trans hserved
    change (State.purse (u.restoreRecords (recordsOf j2)).serveRestored).memberships.length = 4
    rw [hall, hu]
    exact restoredCredit_memberships j1 h
  rw [State.endRestore_eq, ((State.handPlaced_framed _).andThen (cs := [.placement, .reports, .orders]) (State.wake_framed _)).purse]
  refine hcredit _ ?_
  split <;> rfl

theorem State.sectionRead_memberships {r : SectionRead} (hwf : r.wf = true) {s : State} (h : membershipsFour s) : membershipsFour (s.sectionRead r) := by
  unfold State.sectionRead
  split
  · exact h
  · split
    · rename_i x hst
      refine ⟨(congrArg List.length (membershipsStand_of_framed (s.judged_framed _ _ _ _))).trans h.1, fun j0 j1 hj f hf => ?_⟩
      cases hj
      obtain ⟨rfl, -⟩ := judgeS0_good (Option.some.inj hf)
      simp only [SectionRead.wf, Bool.and_eq_true, beq_iff_eq] at hwf
      exact hwf.2
    · rename_i j0' x hst
      refine ⟨(congrArg List.length (membershipsStand_of_framed (s.judged_framed _ _ _ _))).trans h.1, fun j0 j1 hj f hf => ?_⟩
      cases hj
      exact h.2 _ _ hst f hf
    · rename_i j0 j1 x hst
      exact ⟨State.endRestore_memberships (fun f hf => h.2 _ _ hst f (congrArg some hf)) _ _ _ _, by simp [State.endRestore_storeSt]⟩
    · exact h

theorem State.storeFails_memberships {s : State} (h : membershipsFour s) (why : NoAck) : membershipsFour (s.storeFails why) := by
  unfold State.storeFails
  split
  · split
    · rename_i j0 j1 hst
      refine ⟨State.endRestore_memberships (fun f hf => h.2 _ _ hst f ?_) _ _ _ _, ?_⟩
      · cases j0 with
        | none => cases hf
        | some j => exact congrArg some hf
      · intro j0' j1' hj
        change (State.endRestore _ _ _ _ _).store.st = _ at hj
        simp [State.endRestore_storeSt] at hj
    · exact membershipsFour_of_same h rfl (.inr (by simp [State.bookLost]))
    · exact h
  · exact h

theorem State.groupSet_memberships (s : State) : (after .groupSet s).purse.memberships.length = s.purse.memberships.length := by
  refine State.completeGrant_keeps (I := fun u => u.purse.memberships.length = s.purse.memberships.length) rfl (fun _ hu => hu) (fun cell _ => ?_)
  exact List.length_set.trans (congrArg List.length (s.advanceSeq_memberships cell))

theorem State.beginPass_storeSt (s : State) : s.beginPass.store.st = s.store.st ∨ ∀ j0 j1, s.beginPass.store.st ≠ .restoring j0 j1 := by
  unfold State.beginPass
  split
  · exact .inr s.startPass_storeSt
  · exact .inl rfl

/-- The retention unit's state stands, or is another than RESTORING, in every command that neither resets it nor reads a section for the restore. -/
theorem after_storeSt {c : Instr} (hc : movesRestore c = false) (s : State) :
    (after c s).store.st = s.store.st ∨ ∀ j0 j1, (after c s).store.st ≠ .restoring j0 j1 := by
  cases c with
  | powerOnReset | eepromSectionRead | eepromNoAcknowledge => exact absurd hc (by simp [movesRestore])
  | writePassStart => exact s.beginPass_storeSt
  | pageWriteComplete => exact s.pageDone_storeSt
  | busArbitrationLoss => exact .inl s.loseBus_storeSt
  | transactionReissue => exact .inl s.reissue_storeSt
  | _ => exact .inl ((after_framed _ s).storeSt (by simp [footprint]))

theorem after_membershipsFour {c : Instr} (hwf : c.wf = true) (s : State) (h : membershipsFour s) : membershipsFour (after c s) := by
  have hstand : setsMemberships c = false → movesRestore c = false → membershipsFour (after c s) := fun hm hr =>
    membershipsFour_of_same h (congrArg List.length (after_memberships hm s)) (after_storeSt hr s)
  cases c with
  | powerOnReset => exact ⟨rfl, fun j0 j1 hj f hf => by cases hj; cases hf⟩
  | groupSet => exact membershipsFour_of_same h s.groupSet_memberships (after_storeSt rfl s)
  | eepromSectionRead r => exact State.sectionRead_memberships hwf h
  | eepromNoAcknowledge why => exact State.storeFails_memberships h why
  | _ => exact hstand rfl rfl

/-! ### The slot table that placement builds (R2, R158) -/

theorem buildSlotsFrom_region_le (rs : List Region) : ∀ i, ∀ x ∈ buildSlotsFrom i rs, i ≤ x.region := by
  induction rs with
  | nil => exact fun _ _ hx => nomatch hx
  | cons r rs ih =>
    intro i x hx
    rcases List.mem_append.mp hx with hx | hx
    · split at hx
      · obtain ⟨_, -, rfl⟩ := List.mem_map.mp hx
        exact Nat.le_refl i
      · cases hx
    · exact Nat.le_trans (Nat.le_succ i) (ih (i + 1) x hx)

theorem buildSlotsFrom_distinct (rs : List Region) : ∀ i, ((buildSlotsFrom i rs).map (fun x => (x.region, x.number))).Nodup := by
  induction rs with
  | nil => exact fun _ => List.nodup_nil
  | cons r rs ih =>
    intro i
    unfold buildSlotsFrom
    rw [List.map_append]
    refine List.nodup_append.mpr ⟨?_, ih (i + 1), ?_⟩
    · split
      · rw [List.map_map]
        exact nodup_map (fun a b hab => (Prod.ext_iff.mp hab).2) List.nodup_range
      · exact List.nodup_nil
    · intro k hk k' hk' hkeys
      obtain ⟨x, hx, rfl⟩ := List.mem_map.mp hk
      obtain ⟨y, hy, rfl⟩ := List.mem_map.mp hk'
      have hxy := hkeys.symm
      have hregion : x.region = i := by
        split at hx
        · obtain ⟨_, -, rfl⟩ := List.mem_map.mp hx
          rfl
        · cases hx
      have hlater := buildSlotsFrom_region_le rs (i + 1) y hy
      have hsame : y.region = x.region := (Prod.ext_iff.mp hxy).1
      omega

theorem buildSlotsFrom_length (rs : List Region) : ∀ i, (buildSlotsFrom i rs).length = totalCells rs := by
  induction rs with
  | nil => exact fun _ => rfl
  | cons r rs ih =>
    intro i
    unfold buildSlotsFrom
    rw [List.length_append, ih (i + 1)]
    by_cases hk : r.kind = .cellRing
    · simp [totalCells, hk]
    · simp [totalCells, hk]

/-! ### Map, slot table and placement unit -/

/-- Map and slot table within the capacities, one record for each slot, the attempts in range, and at most 12 descriptors asked for. -/
structure placementBounded (s : State) : Prop where
  regions : s.path.regions.length ≤ 12
  slots : (slotKeys s).length ≤ 4096
  distinct : (slotKeys s).Nodup
  attempts : s.placement.attempts ≤ 255
  heads : ∀ a head got, s.placement.st = .reading a (some head) got → headCount head ≤ 12

/-- The placement unit keeps its attempts in range and asks for at most 12 descriptors. -/
def placementTurns (p q : Placement) : Prop :=
  (p.attempts ≤ 255 → q.attempts ≤ 255) ∧
    ∀ a head got, q.st = .reading a (some head) got → headCount head ≤ 12 ∨ ∃ a' got', p.st = .reading a' (some head) got'

theorem placementTurns.refl (p : Placement) : placementTurns p p := ⟨id, fun a _ got h => .inr ⟨a, got, h⟩⟩

theorem placementBounded.turned {s t : State} (h : placementBounded s) (hmap : mapKept s t) (hslots : slotKeys t = slotKeys s)
    (hturns : placementTurns s.placement t.placement) : placementBounded t where
  regions := by rw [show t.path.regions = s.path.regions from hmap]; exact h.regions
  slots := hslots ▸ h.slots
  distinct := hslots ▸ h.distinct
  attempts := hturns.1 h.attempts
  heads a head got hst := by
    rcases hturns.2 a head got hst with hle | ⟨a', got', hst'⟩
    · exact hle
    · exact h.heads a' head got' hst'

theorem nextAttempt_le {n : Nat} (h : n ≤ 255) : nextAttempt n ≤ 255 := by
  unfold nextAttempt
  split <;> omega

theorem State.armWatch_turns (s : State) (r : Request) : placementTurns s.placement (s.armWatch r).placement := by
  have hrun : ∀ k, placementTurns s.placement (s.setRun k).placement := fun k => .refl { s.placement with run := k }
  have hcomplete : ∀ a, placementTurns s.placement (s.completeArming a).placement := fun a => by
    unfold State.completeArming
    split
    · exact ⟨nextAttempt_le, fun _ _ _ h => by cases h⟩
    · exact ⟨nextAttempt_le, fun a head got h => .inr ⟨a, got, h⟩⟩
    · exact ⟨nextAttempt_le, fun a head got h => .inr ⟨a, got, h⟩⟩
  unfold State.armWatch
  split
  · exact .refl _
  · split
    · exact hrun _
    · split
      · split
        · split
          · split
            · exact hcomplete _
            · exact hrun _
          · exact hrun _
        · exact hrun _
      · exact hrun _

theorem State.takeRequest_turns (s : State) (r : Request) : placementTurns s.placement (s.takeRequest r).placement := by
  by_cases hroom : roomFor (handled (requestClass r)) s
  · have hshown : ∀ u : State, u.placement = s.placement →
        placementTurns s.placement (u.showPlacement (handled (requestClass r)) r).drain.placement := fun u hu => by
      rw [(State.drain_framed _).placement, ← hu]
      unfold State.showPlacement
      split
      · exact u.armWatch_turns r
      · exact .refl _
    cases r with
    | read q =>
      rw [State.takeRequest_read hroom]
      exact hshown _ (s.takeRead_framed _ q).placement
    | write w =>
      rw [State.takeRequest_write hroom]
      exact hshown _ (s.takeWrite_framed _ w).placement
  · rw [State.takeRequest_full (Nat.le_of_not_lt hroom)]
    exact .refl _

theorem State.headReturned_turns (s : State) (a : Answer) : placementTurns s.placement (s.headReturned a).placement := by
  have hfail : ∀ b c i, placementTurns s.placement (s.popOwn.failPlacement b c i).placement := fun _ _ _ => ⟨id, fun _ _ _ h => by cases h⟩
  unfold State.headReturned State.headAnswer
  split
  · simp only []
    split
    · exact hfail _ _ _
    split
    · exact hfail _ _ _
    split
    · rename_i hcount
      exact hfail _ _ _
    · rename_i hcount
      refine ⟨id, fun _ head _ h => .inl ?_⟩
      cases h
      omega
  · exact .refl _

theorem State.descriptorsReturned_bounded {s : State} (h : placementBounded s) (a : Answer) : placementBounded (s.descriptorsReturned a) := by
  rcases s.descriptorsReturned_cases a with ⟨addr, head, got, ds, rs, hok, hst, heq⟩ | ⟨-, hframed, hmap⟩
  · obtain ⟨-, -, hlen, -, hcells⟩ := checkRecord_ok hok
    have hslots : slotKeys (s.popOwn.completePlacement addr rs) = (buildSlots rs).map (fun x => (x.region, x.number)) := rfl
    rw [heq]
    exact
      { regions := hlen ▸ h.heads _ _ _ hst
        slots := by rw [hslots, List.length_map, buildSlots, buildSlotsFrom_length]; exact hcells
        distinct := by rw [hslots]; exact buildSlotsFrom_distinct rs 0
        attempts := h.attempts
        heads := fun _ _ _ hr => nomatch hr }
  · refine h.turned hmap (slotKeys_of_framed hframed) ?_
    have hfail : ∀ b c i, placementTurns s.placement (s.popOwn.failPlacement b c i).placement := fun _ _ _ => ⟨id, fun _ _ _ h => by cases h⟩
    unfold State.descriptorsReturned State.descriptorAnswer
    split
    · rename_i hst
      simp only []
      split
      · exact hfail _ _ _
      split
      · exact ⟨id, fun _ _ _ hr => by cases hr; exact .inr ⟨_, _, hst⟩⟩
      · split
        · exact hfail _ _ _
        · exact ⟨id, fun _ _ _ hr => by cases hr⟩
    · exact .refl _

/-- Of the placement unit nothing changes but its pending report. -/
def placementHanded (s t : State) : Prop := ∃ b, t.placement = { s.placement with pendingReport := b }

theorem placementHanded_of_framed {bs : List Block} {s t : State} (h : framed bs s t) (hb : .placement ∉ bs := by decide) : placementHanded s t :=
  ⟨s.placement.pendingReport, by rw [h.placement hb]⟩

theorem placementHanded.trans {s t u : State} (h : placementHanded s t) (h' : placementHanded t u) : placementHanded s u := by
  obtain ⟨b, h⟩ := h
  obtain ⟨b', h'⟩ := h'
  exact ⟨b', by rw [h', h]⟩

theorem State.handPlaced_handed (s : State) : placementHanded s s.handPlaced := by
  unfold State.handPlaced
  split
  · exact ⟨false, rfl⟩
  · exact ⟨s.placement.pendingReport, rfl⟩

theorem State.endRestore_handed (j0 : Judged S0Fields) (j1 : Judged (List LogEntry)) (j2 : Judged S2Fields) (st : RetentionState) (s : State) :
    placementHanded s (s.endRestore j0 j1 j2 st) := by
  rw [State.endRestore_eq]
  refine placementHanded.trans ?_ (placementHanded_of_framed (State.wake_framed _))
  refine placementHanded.trans ?_ (State.handPlaced_handed _)
  exact placementHanded_of_framed ((s.restoredTables_framed j0 j1 j2).andThen (cs := [.purse, .log, .fixtures, .refunds, .passes, .conds, .store])
    (State.setStore_framed _ st))

theorem State.sectionRead_handed (s : State) (r : SectionRead) : placementHanded s (s.sectionRead r) := by
  unfold State.sectionRead
  split
  · exact placementHanded_of_framed (framed.refl [] s)
  · split
    · exact placementHanded_of_framed (s.judged_framed _ _ _ _)
    · exact placementHanded_of_framed (s.judged_framed _ _ _ _)
    · exact (placementHanded_of_framed (s.bookIfLost_framed _ _)).trans (State.endRestore_handed _ _ _ _ _)
    · exact placementHanded_of_framed (framed.refl [] s)

theorem State.failRestore_handed (s : State) (j0 : Option (Judged S0Fields)) (j1 : Option (Judged (List LogEntry))) :
    placementHanded s (s.failRestore j0 j1) := by
  have hmaybe : ∀ (u : State) (b : Bool) (x : SectionSet), framed [.conds] u (if b then u.bookLost x else u) :=
    fun u _ x => framed.ite (u.book_framed _ _) (framed.refl _ _)
  exact (placementHanded_of_framed (((hmaybe s _ _).andThen (cs := [.conds]) (hmaybe _ _ _)).andThen (cs := [.conds]) (State.book_framed _ _ _))).trans
    (State.endRestore_handed _ _ _ _ _)

theorem State.storeFails_handed (s : State) (why : NoAck) : placementHanded s (s.storeFails why) := by
  unfold State.storeFails
  split
  · split
    · refine placementHanded.trans ?_ (placementHanded_of_framed (State.book_framed _ _ _))
      exact (placementHanded_of_framed (s.withStore_framed _)).trans (State.failRestore_handed _ _ _)
    · exact placementHanded_of_framed ((s.withStore_framed _).andThen (cs := [.store, .conds]) (State.book_framed _ _ _))
    · exact placementHanded_of_framed (framed.refl [] s)
  · exact placementHanded_of_framed (framed.refl [] s)

theorem after_placementBounded (c : Instr) (s : State) (h : placementBounded s) : placementBounded (after c s) := by
  have hturned : setsMap c = false → placementTurns s.placement (after c s).placement → placementBounded (after c s) := fun hm ht =>
    h.turned (after_passesRequests hm s).mapKept (after_slotKeys hm s) ht
  have hsame : setsMap c = false → .placement ∉ footprint c → placementBounded (after c s) := fun hm hp =>
    hturned hm (by rw [(after_framed c s).placement hp]; exact .refl _)
  have hhanded : setsMap c = false → placementHanded s (after c s) → placementBounded (after c s) := fun hm hp => by
    obtain ⟨b, hp⟩ := hp
    exact hturned hm (by rw [hp]; exact .refl { s.placement with pendingReport := b })
  cases c with
  | powerOnReset => exact ⟨Nat.zero_le _, Nat.zero_le _, List.nodup_nil, Nat.zero_le _, fun _ _ _ hr => nomatch hr⟩
  | linkReset => exact ⟨Nat.zero_le _, Nat.zero_le _, List.nodup_nil, h.attempts, fun _ _ _ hr => nomatch hr⟩
  | upstreamRead | upstreamWrite | wholeCellWrite | cellBreak | gatedRead | armingWrite | orderProducerWrite | reportConsumerWrite =>
    exact hturned rfl (s.takeRequest_turns _)
  | placementHeadReadAnswer a => exact hturned rfl (s.headReturned_turns a)
  | placementDescriptorReadAnswer a => exact State.descriptorsReturned_bounded h a
  | eepromSectionRead r => exact hhanded rfl (s.sectionRead_handed r)
  | eepromNoAcknowledge why => exact hhanded rfl (s.storeFails_handed why)
  | _ => exact hsame rfl (by simp [footprint])

/-! ### The sub-second count (R135) -/

theorem State.secondEvent_sub {s : State} (h : s.clock.sub < 24576000) : s.secondEvent.clock.sub < 24576000 := by
  unfold State.secondEvent
  split
  · exact Nat.zero_lt_succ _
  · exact h

theorem after_sub (c : Instr) {s : State} (h : s.clock.sub < 24576000) : (after c s).clock.sub < 24576000 := by
  cases c with
  | powerOnReset => exact Nat.zero_lt_succ _
  | timeCellAdoption =>
    refine State.complete_keeps (I := fun u => u.clock.sub < 24576000) h (fun _ hu => hu) (fun cell _ => ?_)
    unfold State.adoptTime
    simp only []
    repeat' split
    all_goals exact Nat.zero_lt_succ _
  | secondEvent => exact State.secondEvent_sub h
  | _ =>
    rw [(after_framed _ s).clock (by simp [footprint, restoreBlocks])]
    exact h

theorem cycle_sub {s : State} (h : s.clock.sub < 24576000) : s.busCycle.tick.clock.sub < 24576000 := by
  have hclock : s.busCycle.clock = s.clock := s.busCycle_framed.clock
  unfold State.tick
  split
  · split
    · exact State.secondEvent_sub (hclock ▸ h)
    · rename_i hlast
      simp only [cyclesPerSecond] at hlast
      exact Nat.lt_of_not_le hlast
  · exact hclock ▸ h

/-! ### All capacities -/

/-- The zones of an entry with a schedule part. -/
theorem zones_bounded_iff {t : List (Option FixtureEntry)} :
    (∀ e, inUse t e → e.zones ≤ 16) ↔ ∀ e sch ph, inUse t e → e.standing = .scheduled sch ph → sch.blackout.length ≤ 16 := by
  constructor
  · intro h e sch ph he hst
    simpa [FixtureEntry.zones, hst] using h e he
  · intro h e he
    unfold FixtureEntry.zones
    split
    · exact Nat.zero_le _
    · exact h e _ _ he ‹_›

/-- The capacities grouped by the blocks that they read. -/
structure capacities (s : State) : Prop where
  queue : s.engine.queue.length ≤ 16
  lists : ∀ c, (s.classList c).length ≤ 32
  keys : s.keys.length = 16
  fixtures : s.fixtures.length = 32
  passes : s.passes.length = 4
  memberships : membershipsFour s
  placement : placementBounded s
  sub : s.clock.sub < 24576000
  counts : countsBounded s.conds
  members : ∀ p, inUse s.passes p → p.members.length ≤ 16
  zones : ∀ e, inUse s.fixtures e → e.zones ≤ 16

theorem capacity_iff (s : State) : Capacity s ↔ capacities s := by
  constructor
  · rintro ⟨hqueue, hlists, hkeys, hfix, hpass, hmem, hregions, hslots, hsub, hcounts, hattempts, hmembers, hjudged, hheads, hzones, hdistinct⟩
    exact ⟨hqueue, hlists, hkeys, hfix, hpass, ⟨hmem, hjudged⟩, ⟨hregions, by simpa [slotKeys] using hslots, hdistinct, hattempts, hheads⟩, hsub, hcounts,
      hmembers, zones_bounded_iff.mpr hzones⟩
  · rintro ⟨hqueue, hlists, hkeys, hfix, hpass, ⟨hmem, hjudged⟩, ⟨hregions, hslots, hdistinct, hattempts, hheads⟩, hsub, hcounts, hmembers, hzones⟩
    exact ⟨hqueue, hlists, hkeys, hfix, hpass, hmem, hregions, by simpa [slotKeys] using hslots, hsub, hcounts, hattempts, hmembers, hjudged, hheads,
      zones_bounded_iff.mp hzones, hdistinct⟩

theorem reset_tables {s : State} (hf : s.fixtures = List.replicate 32 none) (hp : s.passes = List.replicate 4 none) :
    (∀ p, inUse s.passes p → p.members.length ≤ 16) ∧ ∀ e, inUse s.fixtures e → e.zones ≤ 16 := by
  rw [hf, hp]
  exact ⟨fun p hp => absurd hp (not_inUse_replicate _ _), fun e he => absurd he (not_inUse_replicate _ _)⟩

theorem after_capacities {c : Instr} (hwf : c.wf = true) (s : State) (h : capacities s) : capacities (after c s) := by
  by_cases hreset : c = .powerOnReset
  · subst hreset
    obtain ⟨hmembers, hzones⟩ := reset_tables (s := after .powerOnReset s) rfl rfl
    exact ⟨Nat.zero_le _, after_classList _ s h.lists, rfl, rfl, rfl, after_membershipsFour hwf s h.memberships, after_placementBounded _ s h.placement,
      after_sub _ h.sub, countsBounded_none, hmembers, hzones⟩
  · have htables := after_tables hreset hwf s
    have hkeys : (after c s).keys.length = 16 := by
      by_cases hlink : c = .linkReset
      · subst hlink; rfl
      · exact (after_keys hreset hlink s).length.trans h.keys
    exact
      { queue := (after_queue c s).bounded h.queue
        lists := after_classList c s h.lists
        keys := hkeys
        fixtures := htables.fixtures.length.trans h.fixtures
        passes := htables.passes.length.trans h.passes
        memberships := after_membershipsFour hwf s h.memberships
        placement := after_placementBounded c s h.placement
        sub := after_sub c h.sub
        counts := htables.conds h.counts
        members := htables.passes.sized h.members
        zones := htables.fixtures.sized h.zones }

theorem cycle_capacities (s : State) (h : capacities s) : capacities s.busCycle.tick :=
  have hframe := s.cycle_framed
  { queue := by rw [hframe.engine]; exact h.queue
    lists := by unfold State.classList; rw [hframe.path]; exact h.lists
    keys := by rw [hframe.keys]; exact h.keys
    fixtures := (cycle_tables s).fixtures.length.trans h.fixtures
    passes := (cycle_tables s).passes.length.trans h.passes
    memberships := membershipsFour_of_same h.memberships (congrArg (fun p => p.memberships.length) hframe.purse)
      (by rw [s.busCycle.tick_framed.storeSt]; exact s.busCycle_storeSt)
    placement := h.placement.turned (congrArg MemoryPath.regions hframe.path) (slotKeys_of_framed hframe) (by rw [hframe.placement]; exact .refl _)
    sub := cycle_sub h.sub
    counts := (cycle_tables s).conds h.counts
    members := (cycle_tables s).passes.sized h.members
    zones := (cycle_tables s).fixtures.sized h.zones }

/-- Settles O5: each capacity is kept by the operations on its own block. -/
theorem capacitiesAreKept : Obligations.CapacitiesAreKept := fun s t hs hfront h =>
  (capacity_iff t).mpr (step_keeps (I := capacities) (fun _ _ h => ⟨h.queue, h.lists, h.keys, h.fixtures, h.passes, h.memberships,
    ⟨h.placement.regions, h.placement.slots, h.placement.distinct, h.placement.attempts, h.placement.heads⟩, h.sub, h.counts, h.members, h.zones⟩)
    cycle_capacities (fun _ s hwf hs => after_capacities hwf s hs) hfront ((capacity_iff s).mp hs) h)

end Sys2Proof.Machine

/-! Proofs: the refund queue (R75). A queued tag's entry is CANCELLED and IMPULSE; no step but its refund changes that. -/

namespace Sys2Proof.Machine

open Sys2Proof.Safety

set_option Elab.async false

/-! ### Lookups in a table that a step changed -/

section
variable {α : Type} {t : List (Option α)} {p : α → Bool}

/-- A found entry that stays, with all others that the test picks out keeping what the test reads, is found again. -/
theorem tableFind_bind {g : α → Option α} (hp : ∀ e e', g e = some e' → p e' = p e) {e e' : α} (h : tableFind t p = some e) (hg : g e = some e') :
    tableFind (t.map (fun o => o.bind g)) p = some e' := by
  induction t with
  | nil => cases h
  | cons o os ih =>
    cases o with
    | none => exact ih h
    | some a =>
      by_cases hpa : p a = true
      · have ha : a = e := by simpa [tableFind, Option.filter, hpa] using h
        subst ha
        simp [tableFind, hg, hp a e' hg, hpa, Option.filter]
      · have hrest : tableFind os p = some e := by simpa [tableFind, Option.filter, hpa] using h
        cases hga : g a with
        | none => simpa [tableFind, hga] using ih hrest
        | some b => simpa [tableFind, hga, hp a b hga, hpa, Option.filter] using ih hrest

/-- A new entry that the test does not pick out, at a place other than the found one's, leaves the lookup. -/
theorem tableFind_set {x e : α} (hx : p x = false) (h : tableFind t p = some e) : ∀ {i : Nat}, t[i]? ≠ some (some e) → tableFind (t.set i (some x)) p = some e := by
  induction t with
  | nil => cases h
  | cons o os ih =>
    intro i hi
    by_cases hfirst : ∃ a, o = some a ∧ p a = true
    · obtain ⟨a, rfl, hpa⟩ := hfirst
      have ha : a = e := by simpa [tableFind, Option.filter, hpa] using h
      subst ha
      cases i with
      | zero => exact absurd rfl hi
      | succ i => simp [tableFind, Option.filter, hpa]
    · have hnone : o.filter p = none := by
        cases o with
        | none => rfl
        | some a =>
          have hpa : p a ≠ true := fun hpa => hfirst ⟨a, rfl, hpa⟩
          simp [Option.filter, hpa]
      have hrest : tableFind os p = some e := by simpa [tableFind, hnone] using h
      cases i with
      | zero => simpa [tableFind, Option.filter, hx] using hrest
      | succ i => simpa [tableFind, hnone] using ih hrest (by simpa using hi)

end

/-! ### Queued entries -/

/-- The entry of a queued tag: CANCELLED and IMPULSE (R75). -/
def awaitsRefund (e : FixtureEntry) : Prop := (∃ sch, e.standing = .scheduled sch .cancelled) ∧ ∃ a, e.kind = .impulse a

/-- Every queued tag finds a CANCELLED IMPULSE entry, and no tag is queued twice (R75). -/
def queueCore (s : State) : Prop := s.refunds.Nodup ∧ ∀ t ∈ s.refunds, ∃ e, s.fixture t = some e ∧ awaitsRefund e

/-- The queue is empty while the log has room (R75). -/
def queueRoom (s : State) : Prop := s.log.entries.length < 64 → s.refunds = []

theorem not_awaitsRefund_of_kind {e : FixtureEntry} (h : ∀ a, e.kind ≠ .impulse a) : ¬ awaitsRefund e := fun ⟨_, a, ha⟩ => h a ha

theorem not_awaitsRefund_of_standing {e : FixtureEntry} (h : ∀ sch, e.standing ≠ .scheduled sch .cancelled) : ¬ awaitsRefund e :=
  fun ⟨⟨sch, hsch⟩, _⟩ => h sch hsch

/-- The queue stands, and each queued tag still finds a CANCELLED IMPULSE entry. -/
structure queueStands (s t : State) : Prop where
  refunds : t.refunds = s.refunds
  found : ∀ u e, u ∈ s.refunds → s.fixture u = some e → awaitsRefund e → ∃ e', t.fixture u = some e' ∧ awaitsRefund e'

theorem queueStands.refl (s : State) : queueStands s s := ⟨rfl, fun _ e _ h hq => ⟨e, h, hq⟩⟩

theorem queueStands.trans {s t u : State} (h : queueStands s t) (h' : queueStands t u) : queueStands s u := by
  refine ⟨h'.refunds.trans h.refunds, fun v e hv hfind hq => ?_⟩
  obtain ⟨e', hfind', hq'⟩ := h.found v e hv hfind hq
  exact h'.found v e' (h.refunds ▸ hv) hfind' hq'

theorem queueStands.ite {s t u : State} {c : Prop} [Decidable c] (h : queueStands s t) (h' : queueStands s u) : queueStands s (if c then t else u) := by
  split
  · exact h
  · exact h'

theorem queueStands.core {s t : State} (h : queueStands s t) (hs : queueCore s) : queueCore t := by
  refine ⟨h.refunds ▸ hs.1, fun u hu => ?_⟩
  rw [h.refunds] at hu
  obtain ⟨e, hfind, hq⟩ := hs.2 u hu
  exact h.found u e hu hfind hq

theorem queueStands_of_same {s t : State} (hf : t.fixtures = s.fixtures) (hr : t.refunds = s.refunds) : queueStands s t :=
  ⟨hr, fun _ e _ h hq => ⟨e, by rw [State.fixture, hf]; exact h, hq⟩⟩

theorem queueStands_of_framed {bs : List Block} {s t : State} (h : framed bs s t) (hf : .fixtures ∉ bs := by decide) (hr : .refunds ∉ bs := by decide) :
    queueStands s t :=
  queueStands_of_same (h.fixtures hf) (h.refunds hr)

theorem queueStands_bind {s t : State} {g : FixtureEntry → Option FixtureEntry} (hfix : t.fixtures = s.fixtures.map (fun o => o.bind g))
    (hr : t.refunds = s.refunds) (htag : ∀ e e', g e = some e' → e'.tag = e.tag)
    (hg : ∀ e, e.tag ∈ s.refunds → awaitsRefund e → ∃ e', g e = some e' ∧ awaitsRefund e') : queueStands s t := by
  refine ⟨hr, fun u e hu hfind hq => ?_⟩
  obtain ⟨e', he', hq'⟩ := hg e (by rw [State.fixture_tag hfind]; exact hu) hq
  refine ⟨e', ?_, hq'⟩
  rw [State.fixture, hfix]
  exact tableFind_bind (fun a b hab => by rw [htag a b hab]) hfind he'

theorem State.updateFixture_queue {s : State} {t : Tag} {f : FixtureEntry → FixtureEntry} (htag : ∀ e, (f e).tag = e.tag)
    (hf : ∀ e, s.fixture t = some e → awaitsRefund e → awaitsRefund (f e)) : queueStands s (s.updateFixture t f) := by
  obtain ⟨hsame, hother⟩ := s.updateFixture_spec t f htag
  refine ⟨rfl, fun u e hu hfind hq => ?_⟩
  by_cases heq : u = t
  · subst heq
    exact ⟨f e, by rw [hsame, hfind]; rfl, hf e hfind hq⟩
  · exact ⟨e, by rw [hother u heq]; exact hfind, hq⟩

/-- A change of an entry that is not queued. -/
theorem State.updateFixture_queue_of_not {s : State} {t : Tag} {f : FixtureEntry → FixtureEntry} (htag : ∀ e, (f e).tag = e.tag)
    (hnot : ∀ e, s.fixture t = some e → ¬ awaitsRefund e) : queueStands s (s.updateFixture t f) :=
  State.updateFixture_queue htag (fun e he hq => absurd hq (hnot e he))

/-- A new entry evicts no queued one (R71). -/
theorem State.createFixture_queue {s t : State} {e : FixtureEntry} (h : s.createFixture e = some t) (hnone : s.fixture e.tag = none) : queueStands s t := by
  obtain ⟨i, hi, rfl⟩ := State.createFixture_eq h
  refine ⟨rfl, fun u x hu hfind hq => ⟨x, ?_, hq⟩⟩
  have hxtag := State.fixture_tag hfind
  refine tableFind_set ?_ hfind ?_
  · have hne : e.tag ≠ u := fun heq => by rw [← heq, hnone] at hfind; cases hfind
    simpa using hne
  · rcases allocate_some hi with ⟨hfree, -⟩ | ⟨-, old, k, hold, hkey, -⟩
    · rw [hfree]; simp
    · rw [hold]
      intro heq
      cases heq
      obtain ⟨⟨sch, hst⟩, -⟩ := hq
      simp [evictKey, hst, hxtag, hu] at hkey

/-! ### Verdicts, fills and the clock -/

theorem State.applyOrigin_queue (s : State) (o : Origin) (t : Tag) : queueStands s (s.applyOrigin o t) := by
  cases o with
  | plain => exact .refl s
  | entitled => exact State.updateFixture_queue (fun e => by split <;> rfl) (fun e _ hq => by split <;> exact hq)
  | preview => exact State.updateFixture_queue (fun _ => rfl) (fun _ _ hq => hq)

theorem State.touchedOrigin_queue (s : State) (svc : Service) (o : Origin) (t : Tag) : queueStands s ((s.touchKey svc).applyOrigin o t) :=
  (queueStands_of_framed (s.updateKey_framed _ _)).trans (State.applyOrigin_queue _ o t)

theorem settleParts_queue (ps : List Part) : ∀ s : State, queueStands s (settleParts ps s).2 := by
  induction ps with
  | nil => exact queueStands.refl
  | cons p ps ih =>
    intro s
    refine queueStands.trans ?_ (ih _)
    unfold settlePart
    split
    · exact .refl s
    · split
      · refine queueStands.trans ?_ (queueStands_of_framed (State.latch_framed _ _ _ _))
        unfold State.runChain State.checkKey
        split
        · exact .refl s
        · split
          · exact s.touchedOrigin_queue _ _ _
          · exact .refl s
          · exact .refl s
      · exact .refl s
      · exact .refl s
    · exact .refl s

theorem State.memoryAnswer_queue (s : State) (id : Nat) (a : Answer) : queueStands s (s.memoryAnswer id a) := by
  unfold State.memoryAnswer
  split
  · exact .refl s
  · rename_i e _
    refine (queueStands.refl s).ite ((queueStands_of_framed ((s.setInflight_framed _ _).andThen (cs := [.emitted, .path]) (State.drain_framed _))).ite ?_)
    exact (settleParts_queue e.parts s).trans (queueStands_of_framed (((State.setInflight_framed _ _ _).andThen (cs := [.emitted, .path])
      (State.presentTogether_framed _ _)).andThen (cs := [.emitted, .path]) (State.drain_framed _)))

theorem fillHolds_queue (svc : Service) (odd : Bool) (n : Period) (rs : List Slot) : ∀ s : State, queueStands s (fillHolds svc odd n rs s) := by
  induction rs with
  | nil => exact queueStands.refl
  | cons r rs ih =>
    intro s
    unfold fillHolds
    split
    · split
      · refine queueStands.trans ?_ (ih _)
        unfold State.endHoldByFill
        split
        · exact (s.touchedOrigin_queue _ _ _).trans (queueStands_of_framed (State.finishHold_framed _ _ _ _ _))
        · exact queueStands_of_framed (s.finishHold_framed _ _ _ _)
      · exact ih s
    · exact ih s

theorem State.completeKey_queue (s : State) (cell : List Byte) : queueStands s (State.completeKey cell s) := by
  unfold State.completeKey
  simp only []
  split
  · split
    · exact (queueStands_of_framed (s.updateKey_framed _ _)).trans (fillHolds_queue _ _ _ _ _)
    · exact queueStands_of_framed (s.updateKey_framed _ _)
  · exact .refl s

theorem map_option_map_eq_bind {α : Type} (f : α → α) (t : List (Option α)) : t.map (Option.map f) = t.map (fun o => o.bind (fun e => some (f e))) :=
  List.map_congr_left (fun o _ => by cases o <;> rfl)

theorem FixtureEntry.advance_tag (c : Seconds) (e : FixtureEntry) : (e.advance c).tag = e.tag := (e.advance_zones c).1

/-- CANCELLED ranks last, so that a CANCELLED entry stays CANCELLED (R66). -/
theorem FixtureEntry.advance_queued (c : Seconds) {e : FixtureEntry} (h : awaitsRefund e) : awaitsRefund (e.advance c) := by
  obtain ⟨⟨sch, hst⟩, a, hk⟩ := h
  have hforward : Phase.forward .cancelled (derivePhase sch c) = .cancelled := by
    unfold Phase.forward
    rw [if_neg]
    cases derivePhase sch c <;> simp [Phase.rank]
  unfold FixtureEntry.advance
  rw [hst]
  simp only []
  split
  · exact ⟨⟨sch, hst⟩, a, hk⟩
  · exact ⟨⟨sch, by rw [hforward]⟩, a, hk⟩

theorem State.mapFixtures_queue {s t : State} {f : FixtureEntry → FixtureEntry} (hfix : t.fixtures = s.fixtures.map (Option.map f)) (hr : t.refunds = s.refunds)
    (htag : ∀ e, (f e).tag = e.tag) (hf : ∀ e, awaitsRefund e → awaitsRefund (f e)) : queueStands s t :=
  queueStands_bind (hfix.trans (map_option_map_eq_bind f _)) hr (fun e e' he => by cases he; exact htag e) (fun e _ hq => ⟨f e, rfl, hf e hq⟩)

theorem State.advancePhases_queue (s : State) (c : Seconds) : queueStands s (s.advancePhases c) :=
  State.mapFixtures_queue rfl rfl (FixtureEntry.advance_tag c) (fun _ hq => FixtureEntry.advance_queued c hq)

theorem State.meterPreview_queue (s : State) : queueStands s s.meterPreview := State.mapFixtures_queue rfl rfl (fun _ => rfl) (fun _ hq => hq)

theorem State.withClock_queue (s : State) (c : Clock) : queueStands s { s with clock := c } := queueStands_of_same rfl rfl

theorem State.secondEvent_queue (s : State) : queueStands s s.secondEvent :=
  (((s.withClock_queue _).trans (State.advancePhases_queue _ _)).trans (State.meterPreview_queue _)).ite (.refl s)

theorem State.tick_queue (s : State) : queueStands s s.tick := (s.secondEvent_queue.ite (s.withClock_queue _)).ite (.refl s)

theorem State.adoptTime_queue (s : State) (v : Seconds) : queueStands s (s.adoptTime v) := by
  have hadopt := (s.withClock_queue { running := true, value := v, sub := 0 }).trans (State.advancePhases_queue _ v)
  exact (hadopt.trans (queueStands_of_framed (State.book_framed _ _ _))).ite hadopt

/-! ### Passes and grants -/

theorem State.book_queue (s : State) (k : CondKind) (d : CondData) : queueStands s (s.book k d) := queueStands_of_framed (s.book_framed k d)

theorem queueStands_foldl {α : Type} {f : State → α → State} (hf : ∀ s x, queueStands s (f s x)) (xs : List α) (s : State) : queueStands s (xs.foldl f s) :=
  foldl_keeps (I := queueStands s) (fun x _ _ hs => hs.trans (hf _ x)) s (.refl s)

theorem State.propagateTag_queue (s : State) (id : PassId) (t : Tag) : queueStands s (s.propagateTag id t) := by
  unfold State.propagateTag
  split
  · rename_i e he
    split
    · rename_i hreach
      refine queueStands.trans ?_ (State.book_queue _ _ _)
      refine State.updateFixture_queue_of_not (fun _ => rfl) (fun x hx => ?_)
      obtain rfl : e = x := by simpa [he] using hx
      exact not_awaitsRefund_of_kind (fun a ha => by simp [ha] at hreach)
    · exact .refl s
  · exact .refl s

theorem State.propagate_queue (s : State) (id : PassId) (tags : List Tag) : queueStands s (s.propagate id tags) :=
  (queueStands_foldl (fun s t => s.propagateTag_queue id t) tags s).trans (queueStands_of_framed (State.settleLatest_framed _ _ _))

theorem State.updatePass_queue (s : State) (id : PassId) (f : PassEntry → PassEntry) : queueStands s (s.updatePass id f) :=
  queueStands_of_framed (s.updatePass_framed id f)

theorem State.applyPassCell_queue (s : State) (cell : List Byte) : queueStands s (s.applyPassCell cell) := by
  unfold State.applyPassCell
  simp only []
  split
  · exact s.book_queue _ _
  split
  · exact s.book_queue _ _
  split
  · exact s.book_queue _ _
  · split
    · exact ((s.updatePass_queue _ _).trans (State.propagate_queue _ _ _)).ite (s.updatePass_queue _ _)
    · split
      · exact queueStands_of_framed (State.createPass_framed ‹_›)
      · exact s.book_queue _ _

theorem State.entitlePass_queue (s : State) (id : PassId) : queueStands s (s.entitlePass id) := by
  unfold State.entitlePass
  split
  · exact .refl s
  · split
    · exact ((s.updatePass_queue _ _).trans (State.propagate_queue _ _ _)).ite (.refl s)
    · split
      · exact queueStands_of_framed (State.createPass_framed ‹_›)
      · exact s.book_queue _ _

theorem State.revokedEntry_queued (s : State) (id : PassId) {e : FixtureEntry} (h : awaitsRefund e) : s.revokedEntry id e = some e := by
  obtain ⟨-, a, ha⟩ := h
  simp [State.revokedEntry, ha]

theorem State.revokePass_queue (s : State) (id : PassId) : queueStands s (s.revokePass id) := by
  unfold State.revokePass
  split
  · refine queueStands.ite ?_ (.refl s)
    simp only []
    refine queueStands.trans ?_ (queueStands_of_framed (State.settleLatest_framed _ _ _))
    refine queueStands.trans ?_ (queueStands_foldl (fun s t => s.book_queue _ _) _ _)
    refine (s.updatePass_queue id (fun p => { p with owner := .none })).trans ?_
    exact queueStands_bind rfl rfl (fun e e' he => (State.revokedEntry_kept _ id he).1) (fun e _ hq => ⟨e, State.revokedEntry_queued _ id hq, hq⟩)
  · exact .refl s

theorem State.entitleFixture_queue (s : State) (t : Tag) : queueStands s (s.entitleFixture t) := by
  have hgrant : ∀ e, s.fixture t = some e → (∀ a, e.kind ≠ .impulse a) → queueStands s (s.updateFixture t (fun e => { e with kind := .granted })) :=
    fun e he hk => State.updateFixture_queue_of_not (fun _ => rfl) (fun x hx => by
      obtain rfl : e = x := by simpa [he] using hx
      exact not_awaitsRefund_of_kind hk)
  unfold State.entitleFixture
  split
  · exact .refl s
  · split
    · rename_i e he
      split
      · exact (hgrant e he (by simp [*])).trans (State.book_queue _ _ _)
      · exact (hgrant e he (by simp [*])).trans (State.book_queue _ _ _)
      · exact .refl s
      · exact .refl s
    · split
      · exact (State.createFixture_queue ‹_› ‹_›).trans (State.book_queue _ _ _)
      · exact s.book_queue _ _

theorem State.revokeFixture_queue (s : State) (t : Tag) : queueStands s (s.revokeFixture t) := by
  unfold State.revokeFixture
  split
  · rename_i e he
    split
    · rename_i hgranted
      have hnot : ∀ x, s.fixture t = some x → ¬ awaitsRefund x := fun x hx => by
        obtain rfl : e = x := by simpa [he] using hx
        exact not_awaitsRefund_of_kind (fun a => by simp [hgranted])
      split
      · refine queueStands.trans ?_ (State.book_queue _ _ _)
        exact State.updateFixture_queue_of_not (fun _ => rfl) hnot
      · split
        · rename_i hawait
          refine queueStands.trans ?_ (State.book_queue _ _ _)
          refine ⟨rfl, fun u x hu hfind hq => ⟨x, ?_, hq⟩⟩
          have hne : u ≠ t := fun heq => hnot x (heq ▸ hfind) hq
          exact (tableFind_remove_other _ _ _ (fun a ha => by
            have hat : a.tag = t := by simpa using ha
            simpa [hat] using hne.symm)).trans hfind
        · refine queueStands.trans ?_ (State.book_queue _ _ _)
          exact State.updateFixture_queue_of_not (fun _ => rfl) hnot
    · exact .refl s
  · exact .refl s

theorem State.announceNew_queue {s : State} {t : Tag} (hnone : s.fixture t = none) (sch : Schedule) : queueStands s (s.announceNew t sch) := by
  unfold State.announceNew
  simp only []
  split
  · split
    · exact (State.createFixture_queue ‹_› hnone).trans (State.book_queue _ _ _)
    · exact s.book_queue _ _
  · split
    · exact State.createFixture_queue ‹_› hnone
    · exact s.book_queue _ _

theorem State.nightReset_queue (s : State) : queueStands s s.nightReset := by
  unfold State.nightReset
  simp only []
  refine queueStands.trans ?_ (queueStands_of_framed (State.setPasses_framed _ _))
  refine (queueStands_of_framed (s.setPurse_framed { s.purse with spent := 0 })).trans ?_
  refine queueStands_bind rfl rfl (fun e e' he => ?_) (fun e he hq => ⟨e, ?_, hq⟩)
  · split at he
    · cases he
    · cases he; rfl
  · obtain ⟨⟨sch, hst⟩, -⟩ := hq
    have hstays : nightRemoves s.refunds e = false := by simpa [nightRemoves, hst] using he
    simp [hstays]

/-! ### Orders -/

theorem State.buyFixture_queue {s : State} {t : Tag} {price : Nat} (hnot : ∀ e, s.fixture t = some e → ¬ awaitsRefund e) :
    queueStands s (s.buyFixture t price) := by
  have hlog : framed [.purse, .log] s (State.addEntry .purchase t (BitVec.ofNat 16 price) (s.setPurse (s.purse.debited price))) :=
    (s.setPurse_framed _).andThen (State.addEntry_framed _ _ _ _)
  refine queueStands.trans ?_ (queueStands_of_framed (State.bookNearlyFull_framed _))
  exact (queueStands_of_framed hlog).trans (State.updateFixture_queue_of_not (fun _ => rfl) hnot)

theorem State.buyPass_queue (s : State) (id : PassId) (price : Nat) : queueStands s (s.buyPass id price) := by
  have hlog : framed [.purse, .log] s (State.addEntry .passPurchase (id.setWidth 16) (BitVec.ofNat 16 price) (s.setPurse (s.purse.debited price))) :=
    (s.setPurse_framed _).andThen (State.addEntry_framed _ _ _ _)
  refine queueStands.trans ?_ (queueStands_of_framed (State.bookNearlyFull_framed _))
  refine queueStands.trans ?_ (State.propagate_queue _ _ _)
  exact (queueStands_of_framed hlog).trans (State.updatePass_queue _ _ _)

end Sys2Proof.Machine

/-! Proofs: the refund queue through announcements, LOG_ACK, CANCEL and the restore (R74, R75, R98, R110, R175), and what stands while RESTORING. -/

namespace Sys2Proof.Machine

open Sys2Proof.Safety

set_option Elab.async false

/-! ### A tag that is not queued -/

theorem State.updateFixture_queue_of_free {s : State} {t : Tag} {f : FixtureEntry → FixtureEntry} (htag : ∀ e, (f e).tag = e.tag) (hfree : t ∉ s.refunds) :
    queueStands s (s.updateFixture t f) :=
  ⟨rfl, fun u e hu hfind hq => ⟨e, by rw [(s.updateFixture_spec t f htag).2 u (fun heq => hfree (heq ▸ hu))]; exact hfind, hq⟩⟩

theorem queueStands_refund (s : State) (cause : Cause) (t : Tag) (a : Credit) : queueStands s (s.refund cause t a) :=
  queueStands_of_framed (s.refund_framed cause t a)

theorem State.logFull_iff (s : State) : s.logFull = true ↔ 64 ≤ s.log.entries.length := decide_eq_true_iff

/-- A cancellation queues its tag at most, and only with a full log (R74). -/
theorem State.cancelEffect_refunds (s : State) (t : Tag) :
    (s.cancelEffect t).refunds = s.refunds ∨ ((s.cancelEffect t).refunds = s.refunds ++ [t] ∧ 64 ≤ (s.cancelEffect t).log.entries.length) := by
  unfold State.cancelEffect
  split
  · split
    · split
      · rename_i hfull
        exact .inr ⟨rfl, (s.logFull_iff).mp hfull⟩
      · rename_i hfull
        refine .inl ?_
        exact (State.book_framed _ _ _).refunds.trans (State.bookNearlyFull_framed _).refunds
    · exact .inl rfl
  · exact .inl rfl

theorem State.cancelEffect_log_le (s : State) (t : Tag) : s.log.entries.length ≤ (s.cancelEffect t).log.entries.length := by
  unfold State.cancelEffect
  split
  · split
    · split
      · exact Nat.le_refl _
      · refine Nat.le_trans ?_ (Nat.le_of_eq (congrArg (fun l : PurchaseLog => l.entries.length)
          ((State.book_framed _ _ _).log.trans (State.bookNearlyFull_framed _).log).symm))
        exact Nat.le_trans (Nat.le_succ _) (Nat.le_of_eq (List.length_append (bs := [_])).symm)
    · exact Nat.le_refl _
  · exact Nat.le_refl _

theorem State.cancelEffect_room {s : State} (h : queueRoom s) (t : Tag) : queueRoom (s.cancelEffect t) := by
  intro hroom
  rcases s.cancelEffect_refunds t with hsame | ⟨-, hfull⟩
  · rw [hsame]
    exact h (Nat.lt_of_le_of_lt (s.cancelEffect_log_le t) hroom)
  · omega

/-- A CANCELLED entry whose tag is not queued is refunded, or its tag joins the queue (R74). -/
theorem State.cancelEffect_core {s : State} {t : Tag} (h : queueCore s) (hfree : t ∉ s.refunds)
    (hcancelled : ∀ e, s.fixture t = some e → ∃ sch, e.standing = .scheduled sch .cancelled) : queueCore (s.cancelEffect t) := by
  unfold State.cancelEffect
  split
  · rename_i e he
    split
    · rename_i a ha
      split
      · refine ⟨List.nodup_append.mpr ⟨h.1, List.pairwise_singleton _ t, fun x hx y hy hxy => ?_⟩, fun u hu => ?_⟩
        · exact hfree (by rw [← List.mem_singleton.mp hy, ← hxy]; exact hx)
        · rcases List.mem_append.mp hu with hu | hu
          · exact h.2 u hu
          · rw [List.mem_singleton.mp hu]
            exact ⟨e, he, hcancelled e he, a, ha⟩
      · refine queueStands.core (queueStands.trans ?_ (State.book_queue _ _ _)) h
        refine queueStands.trans ?_ (queueStands_of_framed (State.bookNearlyFull_framed _))
        exact (queueStands_refund s .operator t a).trans (State.updateFixture_queue_of_free (fun _ => rfl) hfree)
    · exact h
  · exact h

/-! ### Announcements (R72 to R74) -/

theorem nextPhase_cancelled {sch : Schedule} {c : Seconds} {ph : Phase} (h : ph = .cancelled ∨ sch.cancelled = true) : nextPhase sch c ph = .cancelled := by
  unfold nextPhase
  rw [if_pos h]

theorem firstPhase_cancelled {sch : Schedule} {c : Seconds} (h : sch.cancelled = true) : firstPhase sch c = .cancelled := by
  unfold firstPhase
  rw [if_pos h]

theorem not_queued_of_not_awaits {s : State} (h : queueCore s) {t : Tag} {e : FixtureEntry} (he : s.fixture t = some e) (hnot : ¬ awaitsRefund e) :
    t ∉ s.refunds := by
  intro ht
  obtain ⟨x, hx, hq⟩ := h.2 t ht
  obtain rfl : e = x := by simpa [he] using hx
  exact hnot hq

theorem State.announceAwaiting_core {s : State} (h : queueCore s) {t : Tag} {e : FixtureEntry} (he : s.fixture t = some e) (hst : e.standing = .awaiting)
    (sch : Schedule) : queueCore (s.announceAwaiting t sch) := by
  have hfree := not_queued_of_not_awaits h he (not_awaitsRefund_of_standing (fun sch => by simp [hst]))
  have hupdate : queueStands s (s.updateFixture t (fun e =>
      { e with standing := .scheduled sch (firstPhase sch s.now), remaining := sch.allowance.toNat, delivered := false })) :=
    State.updateFixture_queue_of_free (fun _ => rfl) hfree
  unfold State.announceAwaiting
  simp only []
  split
  · rename_i hc
    refine State.cancelEffect_core (hupdate.core h) hfree (fun x hx => ?_)
    rw [(s.updateFixture_spec t _ (by intro; rfl)).1, he] at hx
    cases hx
    exact ⟨sch, by rw [firstPhase_cancelled hc]⟩
  · rename_i hc
    exact hupdate.core h

theorem State.announceAgain_core {s : State} (h : queueCore s) {t : Tag} {e : FixtureEntry} (he : s.fixture t = some e) {old : Schedule} {ph : Phase}
    (hst : e.standing = .scheduled old ph) (sch : Schedule) : queueCore (s.announceAgain t sch old ph) := by
  have hkept : queueStands s (s.updateFixture t (fun e =>
      { e with
        standing := .scheduled { sch with cancelled := sch.cancelled || old.cancelled } (nextPhase sch s.now ph)
        remaining := min e.remaining sch.allowance.toNat })) := by
    refine State.updateFixture_queue (fun _ => rfl) (fun x hx hq => ?_)
    obtain rfl : e = x := by simpa [he] using hx
    obtain ⟨⟨sch', hst'⟩, hk⟩ := hq
    rw [hst] at hst'
    cases hst'
    exact ⟨⟨_, by rw [nextPhase_cancelled (.inl rfl)]⟩, hk⟩
  unfold State.announceAgain
  simp only []
  split
  · rename_i hc
    have hfree := not_queued_of_not_awaits h he (not_awaitsRefund_of_standing (fun sch => by rw [hst]; intro heq; cases heq; exact hc.2 rfl))
    refine State.cancelEffect_core (hkept.core h) hfree (fun x hx => ?_)
    rw [(s.updateFixture_spec t _ (by intro; rfl)).1, he] at hx
    cases hx
    exact ⟨_, by rw [nextPhase_cancelled (.inr hc.1)]⟩
  · rename_i hc
    exact hkept.core h

theorem State.applyAnnouncement_core {s : State} (h : queueCore s) (cell : List Byte) : queueCore (s.applyAnnouncement cell) := by
  unfold State.applyAnnouncement
  split
  · exact (s.book_queue _ _).core h
  · simp only []
    split
    · exact (State.announceNew_queue ‹_› _).core h
    · split
      · exact State.announceAwaiting_core h ‹_› ‹_› _
      · exact State.announceAgain_core h ‹_› ‹_› _

/-- The queue and the log stand. -/
theorem queueRoom_of_framed {bs : List Block} {s t : State} (h : framed bs s t) (hs : queueRoom s) (hl : .log ∉ bs := by decide)
    (hr : .refunds ∉ bs := by decide) : queueRoom t := by
  unfold queueRoom
  rw [h.log hl, h.refunds hr]
  exact hs

/-- The queue stands and the log loses no entry. -/
theorem queueRoom_of_log_le {s t : State} (hr : t.refunds = s.refunds) (hl : s.log.entries.length ≤ t.log.entries.length) (hs : queueRoom s) :
    queueRoom t := fun hroom => by
  rw [hr]
  exact hs (Nat.lt_of_le_of_lt hl hroom)

theorem State.applyAnnouncement_room {s : State} (h : queueRoom s) (cell : List Byte) : queueRoom (s.applyAnnouncement cell) := by
  have hupdate : ∀ t f, queueRoom (s.updateFixture t f) := fun t f => queueRoom_of_framed (s.updateFixture_framed t f) h
  unfold State.applyAnnouncement
  split
  · exact h
  · simp only []
    split
    · exact queueRoom_of_framed (s.announceNew_framed _ _) h
    · split
      · unfold State.announceAwaiting
        simp only []
        split
        · exact State.cancelEffect_room (hupdate _ _) _
        · exact hupdate _ _
      · unfold State.announceAgain
        simp only []
        split
        · exact State.cancelEffect_room (hupdate _ _) _
        · exact hupdate _ _

/-! ### The serving of the queue (R112) -/

theorem State.serveTag_core {s : State} {t : Tag} {rest : List Tag} (hq : s.refunds = t :: rest) (h : queueCore s) : queueCore (s.serveTag t rest) := by
  obtain ⟨hnodup, hfound⟩ := h
  rw [hq] at hnodup
  obtain ⟨hfresh, hrest⟩ := List.nodup_cons.mp hnodup
  refine ⟨by rw [show (s.serveTag t rest).refunds = rest from rfl]; exact hrest, fun u hu => ?_⟩
  have hu' : u ∈ rest := hu
  obtain ⟨e, he, hqe⟩ := hfound u (by rw [hq]; exact List.mem_cons_of_mem _ hu')
  refine ⟨e, ?_, hqe⟩
  have hother := ((s.refund .operator t (match s.fixture t with | some e => e.paid | none => 0)).updateFixture_spec t
    (fun e => { e with kind := .none, viewed := false }) (by intro; rfl)).2 u (fun heq => hfresh (heq ▸ hu'))
  exact hother.trans he

/-- The queue is served from its head while the log has room (R112). -/
theorem serveFrom_core (q : List Tag) : ∀ s : State, s.refunds = q → queueCore s → queueCore (serveFrom q s) ∧ queueRoom (serveFrom q s) := by
  induction q with
  | nil => exact fun s hq h => ⟨h, fun _ => hq⟩
  | cons t rest ih =>
    intro s hq h
    unfold serveFrom
    split
    · rename_i hfull
      exact ⟨h, fun hroom => absurd ((s.logFull_iff).mp hfull) (by omega)⟩
    · exact ih _ rfl (State.serveTag_core hq h)

theorem State.acknowledge_core {s : State} (h : queueCore s) (n : Seq) : queueCore (s.acknowledge n) ∧ queueRoom (s.acknowledge n) := by
  have hremoved : queueCore (s.removeEntries (ackCount s.log.entries n)) := h
  obtain ⟨hcore, hroom⟩ := serveFrom_core _ (s.removeEntries (ackCount s.log.entries n)) rfl hremoved
  exact ⟨(queueStands_of_framed (State.settleQueue_framed _ _)).core hcore, queueRoom_of_framed (State.settleQueue_framed _ _) hroom⟩

theorem State.serveRestored_core {s : State} (h : queueCore s) : queueCore s.serveRestored ∧ queueRoom s.serveRestored := by
  obtain ⟨hcore, hroom⟩ := serveFrom_core _ s rfl h
  have hframe : framed [.conds] (serveFrom s.refunds s) s.serveRestored := by
    have hsettled : framed [.conds] (serveFrom s.refunds s) (s.serveRefunds.settleQueue s.refunds) := State.settleQueue_framed _ _
    exact framed.ite (hsettled.andThen (State.book_framed _ _ _)) hsettled
  exact ⟨(queueStands_of_framed hframe).core hcore, queueRoom_of_framed hframe hroom⟩

/-! ### The restore (R175) -/

theorem State.createFixture_fixture {s t : State} {e : FixtureEntry} (h : s.createFixture e = some t) (hnone : s.fixture e.tag = none) :
    t.fixture e.tag = some e := by
  obtain ⟨i, hi, rfl⟩ := State.createFixture_eq h
  have hlt : i < s.fixtures.length := by
    rcases allocate_some hi with ⟨hfree, -⟩ | ⟨-, _, _, hold, -⟩
    · exact (List.getElem?_eq_some_iff.mp hfree).1
    · exact (List.getElem?_eq_some_iff.mp hold).1
  have hmem : inUse (s.fixtures.set i (some e)) e := List.mem_set hlt (some e)
  cases hfind : tableFind (s.fixtures.set i (some e)) (fun x => x.tag == e.tag) with
  | none => exact absurd (tableFind_none hfind e hmem) (by simp)
  | some x =>
    obtain ⟨hx, htag⟩ := tableFind_some hfind
    rcases inUse_set hx with rfl | hold
    · exact hfind
    · exact absurd (by simpa using htag) (State.fixture_fresh hnone x hold)

theorem State.joinRefunds_core {s : State} {t : Tag} (h : queueCore s) (hfound : ∃ e, s.fixture t = some e ∧ awaitsRefund e) : queueCore (s.joinRefunds t) := by
  unfold State.joinRefunds
  split
  · exact h
  · rename_i hnot
    have hfree : t ∉ s.refunds := by simpa using hnot
    refine ⟨List.nodup_append.mpr ⟨h.1, List.pairwise_singleton _ t, fun x hx y hy hxy => ?_⟩, fun u hu => ?_⟩
    · exact hfree (by rw [← List.mem_singleton.mp hy, ← hxy]; exact hx)
    · rcases List.mem_append.mp hu with hu | hu
      · exact h.2 u hu
      · rw [List.mem_singleton.mp hu]
        exact hfound

theorem State.joinRefunds_mem {s : State} {t u : Tag} (hu : u ∈ (s.joinRefunds t).refunds) : u ∈ s.refunds ∨ u = t := by
  unfold State.joinRefunds at hu
  split at hu
  · exact .inl hu
  · simpa [State.setRefunds] using hu

theorem FixtureEntry.requeued_awaits (r : FixtureRec) (kept : Schedule) (e : FixtureEntry) : awaitsRefund (e.requeued r kept) := ⟨⟨_, rfl⟩, _, rfl⟩

theorem FixtureEntry.isCancelled_iff (e : FixtureEntry) : e.isCancelled = true ↔ ∃ sch, e.standing = .scheduled sch .cancelled := by
  unfold FixtureEntry.isCancelled
  split
  · rename_i sch h
    simp [h]
  · rename_i h
    constructor
    · exact fun hf => nomatch hf
    · exact fun ⟨sch, hsch⟩ => absurd hsch (h sch)

/-- A record of a tag that is not queued leaves the queue sound, and queues that tag at most (R175). -/
theorem State.restoreRecord_core {s : State} (h : queueCore s) {r : FixtureRec} (hfree : r.tag ∉ s.refunds) :
    queueCore (s.restoreRecord r) ∧ ∀ u ∈ (s.restoreRecord r).refunds, u ∈ s.refunds ∨ u = r.tag := by
  unfold State.restoreRecord
  split
  · rename_i sch _
    unfold State.restoreQueued
    split
    · rename_i e he
      have hupdate : queueStands s (s.updateFixture r.tag (FixtureEntry.requeued r sch)) := State.updateFixture_queue_of_free (fun _ => rfl) hfree
      refine ⟨State.joinRefunds_core (hupdate.core h) ⟨e.requeued r sch, ?_, e.requeued_awaits r sch⟩, fun u hu => ?_⟩
      · rw [(s.updateFixture_spec r.tag (FixtureEntry.requeued r sch) (fun _ => rfl)).1, he]
        rfl
      · have hjoined := State.joinRefunds_mem hu
        exact hjoined
    · rename_i hnone
      split
      · rename_i s1 hcreate
        have hcreated := State.createFixture_queue hcreate hnone
        refine ⟨State.joinRefunds_core (hcreated.core h) ⟨queuedEntry r sch, State.createFixture_fixture hcreate hnone, ⟨_, rfl⟩, _, rfl⟩, fun u hu => ?_⟩
        rw [← hcreated.refunds]
        exact State.joinRefunds_mem hu
      · exact ⟨(s.book_queue _ _).core h, fun u hu => .inl hu⟩
  · unfold State.restoreFixture
    split
    · rename_i e he
      have hupdate : queueStands s (s.updateFixture r.tag (fun e => { e with kind := recordKind r, viewed := r.viewed })) :=
        State.updateFixture_queue_of_free (fun _ => rfl) hfree
      simp only []
      split
      · rename_i hc
        refine ⟨State.cancelEffect_core (hupdate.core h) hfree (fun x hx => ?_), fun u hu => ?_⟩
        · rw [(s.updateFixture_spec r.tag _ (by intro; rfl)).1, he] at hx
          cases hx
          exact (e.isCancelled_iff).mp hc
        · rcases State.cancelEffect_refunds _ r.tag with heq | ⟨heq, -⟩
          · rw [heq] at hu
            exact .inl hu
          · rw [heq] at hu
            simpa using hu
      · rename_i hc
        exact ⟨hupdate.core h, fun u hu => .inl hu⟩
    · rename_i hnone
      split
      · rename_i s1 hcreate
        have hcreated := State.createFixture_queue hcreate hnone
        exact ⟨hcreated.core h, fun u hu => .inl (hcreated.refunds ▸ hu)⟩
      · exact ⟨(s.book_queue _ _).core h, fun u hu => .inl hu⟩

theorem restoreFixtures_core (rs : List FixtureRec) : ∀ s : State, queueCore s → (rs.map (·.tag)).Nodup → (∀ r ∈ rs, r.tag ∉ s.refunds) →
    queueCore (rs.foldl (fun s r => s.restoreRecord r) s) := by
  induction rs with
  | nil => exact fun _ h _ _ => h
  | cons r rs ih =>
    intro s h hnodup hfree
    obtain ⟨hfresh, hrest⟩ := List.nodup_cons.mp hnodup
    obtain ⟨hcore, hmem⟩ := State.restoreRecord_core h (hfree r List.mem_cons_self)
    refine ih _ hcore hrest (fun q hq hqueued => ?_)
    rcases hmem q.tag hqueued with hold | hsame
    · exact hfree q (List.mem_cons_of_mem _ hq) hold
    · exact hfresh (List.mem_map.mpr ⟨q, hq, hsame⟩)

theorem State.restorePass_queue (s : State) (r : PassRec) : queueStands s (s.restorePass r) := by
  unfold State.restorePass
  simp only []
  split
  · exact (s.updatePass_queue _ _).ite ((s.updatePass_queue _ _).trans (State.propagate_queue _ _ _))
  · split
    · exact (queueStands_of_framed (State.createPass_framed ‹_›)).ite
        ((queueStands_of_framed (State.createPass_framed ‹_›)).trans (State.propagate_queue _ _ _))
    · exact s.book_queue _ _

theorem State.restoreRecords_core {s : State} (h : queueCore s) (hnone : s.refunds = []) {f : S2Fields} (hnodup : (f.fixtures.map (·.tag)).Nodup) :
    queueCore (s.restoreRecords f) :=
  (queueStands_foldl (fun s r => s.restorePass_queue r) _ _).core (restoreFixtures_core _ s h hnodup (fun r _ => by rw [hnone]; exact List.not_mem_nil))

theorem queueCore_of_refunds_nil {s : State} (h : s.refunds = []) : queueCore s := ⟨by rw [h]; exact List.nodup_nil, fun t ht => by rw [h] at ht; cases ht⟩

/-- The restore begins with an empty queue and leaves it sound, empty while the log has room (R175, R112). -/
theorem State.endRestore_core {s : State} (hnone : s.refunds = []) {j2 : Judged S2Fields} (hnodup : ((recordsOf j2).fixtures.map (·.tag)).Nodup)
    (j0 : Judged S0Fields) (j1 : Judged (List LogEntry)) (st : RetentionState) :
    queueCore (s.endRestore j0 j1 j2 st) ∧ queueRoom (s.endRestore j0 j1 j2 st) := by
  have htaken : ∀ u : State, u.refunds = [] → queueCore (u.restoreRecords (recordsOf j2)).serveRestored ∧
      queueRoom (u.restoreRecords (recordsOf j2)).serveRestored := fun u hu =>
    State.serveRestored_core (State.restoreRecords_core (queueCore_of_refunds_nil hu) hu hnodup)
  have hframe : ∀ u : State, framed [.store, .placement, .reports, .orders] u
      ((u.settleS2 s.store.dirty.s2 j2).setStore st).handPlaced.wake := fun u =>
    (((u.settleS2_framed _ _).andThen (cs := [.store]) (State.setStore_framed _ st)).andThen (cs := [.store, .placement, .reports])
      (State.handPlaced_framed _)).andThen (State.wake_framed _)
  rw [State.endRestore_eq]
  unfold State.restoredTables
  obtain ⟨hcore, hroom⟩ := htaken (if (restoredCredit j0 j1).reconciled then (s.takeCredit (restoredCredit j0 j1)).bookLost (only .s1)
    else s.takeCredit (restoredCredit j0 j1)) (by split <;> exact hnone)
  exact ⟨(queueStands_of_framed (hframe _)).core hcore, queueRoom_of_framed (hframe _) hroom⟩

theorem noRepeats_nodup {α : Type} [DecidableEq α] {xs : List α} (h : noRepeats xs = true) : xs.Nodup := by
  induction xs with
  | nil => exact List.nodup_nil
  | cons x xs ih =>
    simp only [noRepeats, Bool.and_eq_true, Bool.not_eq_true', List.contains_eq_mem, decide_eq_false_iff_not] at h
    exact List.nodup_cons.mpr ⟨h.1, ih h.2⟩

theorem judgeS2_tags {x : SectionBytes S2Fields} (h : (SectionRead.s2 x).wf = true) : ((recordsOf (judgeS2 x)).fixtures.map (·.tag)).Nodup := by
  simp only [SectionRead.wf, Bool.and_eq_true] at h
  obtain ⟨⟨⟨⟨⟨-, htags⟩, -⟩, -⟩, -⟩, -⟩ := h
  unfold judgeS2
  rcases judge_cases x (x.fields.fixtures.all recordOk) x.fields with ⟨-, h⟩ | ⟨-, -, h⟩ | ⟨-, -, -, h⟩ <;> rw [h]
  · exact List.nodup_nil
  · exact List.nodup_nil
  · exact noRepeats_nodup htags

end Sys2Proof.Machine

/-! Proofs: the refund queue's soundness through every command (R75, R87, R117, R120, R164). -/

namespace Sys2Proof.Machine

open Sys2Proof.Safety

set_option Elab.async false

/-! ### The queue through every command -/

/-- The queue is sound, and empty while the log has room (R75). -/
def queueHolds (s : State) : Prop := queueCore s ∧ queueRoom s

theorem queueHolds.stands {s t : State} (h : queueHolds s) (hq : queueStands s t) (hl : t.log = s.log) : queueHolds t :=
  ⟨hq.core h.1, queueRoom_of_log_le hq.refunds (Nat.le_of_eq (by rw [hl])) h.2⟩

theorem queueHolds_of_framed {bs : List Block} {s t : State} (h : framed bs s t) (hs : queueHolds s) (hf : .fixtures ∉ bs := by decide)
    (hr : .refunds ∉ bs := by decide) (hl : .log ∉ bs := by decide) : queueHolds t :=
  hs.stands (queueStands_of_framed h hf hr) (h.log hl)

theorem queueHolds_of_refunds_nil {s : State} (h : s.refunds = []) : queueHolds s := ⟨queueCore_of_refunds_nil h, fun _ => h⟩

theorem State.complete_queueHolds {s : State} {k : CtrlKind} {effect : List Byte → State → State} (hs : queueHolds s)
    (heffect : ∀ cell, queueHolds (effect cell s)) : queueHolds (s.complete k effect) :=
  State.complete_keeps hs (fun u => queueHolds_of_framed u.popCell_framed) (fun cell _ => heffect cell)

theorem State.completeGrant_queueHolds {s : State} {is : List Byte → Bool} {owner : List Byte → State → State} (hs : queueHolds s)
    (howner : ∀ cell u, queueHolds u → queueHolds (owner cell u)) : queueHolds (s.completeGrant is owner) :=
  State.completeGrant_keeps hs (fun u => queueHolds_of_framed u.popCell_framed)
    (fun cell _ => howner cell _ (queueHolds_of_framed (s.advanceSeq_framed cell) hs))

theorem State.takeOrder_queueHolds {s : State} {is : Answer → Bool} {need : Nat} {f : Nat → Answer → State → List Report × State} (hs : queueHolds s)
    (hf : ∀ slot a, queueHolds (f slot a s).2) : queueHolds (s.takeOrder is need f) :=
  State.takeOrder_keeps hs (fun u _ => queueHolds_of_framed (u.withOrders_framed _)) (fun slot a _ => hf slot a)

theorem State.buyFixture_queueHolds {s : State} (h : queueHolds s) {t : Tag} {stated : Option Credit} (haccepted : (s.buyCheck t stated).1 = .accepted)
    (price : Nat) : queueHolds (s.buyFixture t price) := by
  obtain ⟨e, sch, ph, he, -, -, hsched⟩ := State.buyCheck_accepted haccepted
  obtain ⟨-, hkind, -⟩ := State.buyScheduled_accepted hsched
  have hstands := State.buyFixture_queue (s := s) (t := t) (price := price) (fun x hx => by
    obtain rfl : e = x := by simpa [he] using hx
    exact not_awaitsRefund_of_kind (fun a => by simp [hkind]))
  refine ⟨hstands.core h.1, queueRoom_of_log_le hstands.refunds ?_ h.2⟩
  refine Nat.le_trans ?_ (Nat.le_of_eq (congrArg (fun l : PurchaseLog => l.entries.length) (State.bookNearlyFull_framed _).log.symm))
  exact Nat.le_trans (Nat.le_succ _) (Nat.le_of_eq (List.length_append (bs := [_])).symm)

theorem State.buyPass_queueHolds {s : State} (h : queueHolds s) (id : PassId) (price : Nat) : queueHolds (s.buyPass id price) := by
  refine ⟨(s.buyPass_queue id price).core h.1, queueRoom_of_log_le (s.buyPass_queue id price).refunds ?_ h.2⟩
  refine Nat.le_trans ?_ (Nat.le_of_eq (congrArg (fun l : PurchaseLog => l.entries.length)
    ((State.bookNearlyFull_framed _).log.trans (State.propagate_framed _ _ _).log).symm))
  exact Nat.le_trans (Nat.le_succ _) (Nat.le_of_eq (List.length_append (bs := [_])).symm)

/-- A cancellation is accepted with room in the log alone, so that no tag is queued (R96, R75). -/
theorem State.cancelFixture_queueHolds {s : State} (h : queueHolds s) {t : Tag} (haccepted : s.cancelCheck t = .accepted) : queueHolds (s.cancelFixture t) := by
  obtain ⟨-, -, -, -, -, -, hroom⟩ := State.cancelCheck_accepted haccepted
  have hlt : s.log.entries.length < 64 := by
    refine Classical.byContradiction fun hge => ?_
    exact absurd ((s.logFull_iff).mpr (by omega)) (by simp [hroom])
  exact queueHolds_of_refunds_nil ((s.cancelFixture_framed t).refunds.trans (h.2 hlt))

theorem State.sectionRead_queueHolds {r : SectionRead} (hwf : r.wf = true) {s : State} (h : queueHolds s) (hquiet : s.restoring = true → s.refunds = []) :
    queueHolds (s.sectionRead r) := by
  unfold State.sectionRead
  split
  · exact h
  · split
    · exact queueHolds_of_framed (((s.bookIfLost_framed _ _).andThen (cs := [.conds, .store]) (State.setStore_framed _ _)).andThen
        (cs := [.conds, .store, .emitted]) (State.bus_framed _ _)) h
    · exact queueHolds_of_framed (((s.bookIfLost_framed _ _).andThen (cs := [.conds, .store]) (State.setStore_framed _ _)).andThen
        (cs := [.conds, .store, .emitted]) (State.bus_framed _ _)) h
    · rename_i hst
      exact State.endRestore_core ((s.bookIfLost_framed _ _).refunds.trans (hquiet (by simp [State.restoring, hst]))) (judgeS2_tags hwf) _ _ _
    · exact h

theorem State.storeFails_queueHolds {s : State} (h : queueHolds s) (hquiet : s.restoring = true → s.refunds = []) (why : NoAck) :
    queueHolds (s.storeFails why) := by
  unfold State.storeFails
  split
  · split
    · rename_i j0 j1 hst
      have hnone := hquiet (by simp [State.restoring, hst])
      refine queueHolds_of_framed (State.book_framed _ _ _) ?_
      unfold State.failRestore
      refine State.endRestore_core (j2 := .lost) ?_ List.nodup_nil _ _ _
      refine (State.book_framed _ _ _).refunds.trans ?_
      simp only []
      repeat' split
      all_goals exact hnone
    · exact h
    · exact h
  · exact h

theorem after_queueHolds {c : Instr} (hwf : c.wf = true) (s : State) (h : queueHolds s) (hquiet : s.restoring = true → s.refunds = []) :
    queueHolds (after c s) := by
  cases c with
  | powerOnReset => exact queueHolds_of_refunds_nil rfl
  | linkReset => exact h.stands (State.mapFixtures_queue rfl rfl (fun _ => rfl) (fun _ hq => hq)) rfl
  | gatedReadAnswer id a | forwardedAnswer id a => exact h.stands (s.memoryAnswer_queue id a) (s.memoryAnswer_framed id a).log
  | unwrapCompletion =>
    exact queueHolds_of_framed (State.drain_framed _)
      (State.complete_queueHolds h (fun cell => h.stands (s.completeKey_queue cell) (s.completeKey_framed cell).log))
  | announcement => exact State.complete_queueHolds h (fun cell => ⟨State.applyAnnouncement_core h.1 cell, State.applyAnnouncement_room h.2 cell⟩)
  | passCellCompletion => exact State.complete_queueHolds h (fun cell => h.stands (s.applyPassCell_queue cell) (s.applyPassCell_framed cell).log)
  | timeCellAdoption => exact State.complete_queueHolds h (fun cell => h.stands (s.adoptTime_queue _) (s.adoptTime_framed _).log)
  | entitleFixture => exact State.completeGrant_queueHolds h (fun cell u hu => hu.stands (u.entitleFixture_queue _) (u.entitleFixture_framed _).log)
  | entitlePass => exact State.completeGrant_queueHolds h (fun cell u hu => hu.stands (u.entitlePass_queue _) (u.entitlePass_framed _).log)
  | revokeFixture => exact State.completeGrant_queueHolds h (fun cell u hu => hu.stands (u.revokeFixture_queue _) (u.revokeFixture_framed _).log)
  | revokePass => exact State.completeGrant_queueHolds h (fun cell u hu => hu.stands (u.revokePass_queue _) (u.revokePass_framed _).log)
  | logAck => exact State.completeGrant_queueHolds h (fun cell u hu => State.acknowledge_core hu.1 _)
  | nightReset => exact State.completeGrant_queueHolds h (fun cell u hu => hu.stands u.nightReset_queue u.nightReset_framed.log)
  | secondEvent => exact h.stands s.secondEvent_queue s.secondEvent_framed.log
  | buyFixture =>
    refine State.takeOrder_queueHolds h (fun slot a => ?_)
    unfold State.answerBuyFixture
    simp only []
    split
    · exact State.buyFixture_queueHolds h ‹_› _
    · exact h
  | buyPass =>
    refine State.takeOrder_queueHolds h (fun slot a => ?_)
    unfold State.answerBuyPass
    simp only []
    split
    · exact State.buyPass_queueHolds h _ _
    · exact h
  | cancel =>
    refine State.takeOrder_queueHolds h (fun slot a => ?_)
    unfold State.answerCancel
    simp only []
    split
    · exact State.cancelFixture_queueHolds h ‹_›
    · exact h
  | eepromSectionRead r => exact State.sectionRead_queueHolds hwf h hquiet
  | eepromNoAcknowledge why => exact State.storeFails_queueHolds h hquiet why
  | _ => exact queueHolds_of_framed (after_framed _ s) h (by simp [footprint]) (by simp [footprint]) (by simp [footprint])

end Sys2Proof.Machine

/-! Proofs: what stands while RESTORING (R87, R117, R120, R164), and the refund queue's soundness. -/

namespace Sys2Proof.Machine

open Sys2Proof.Safety

set_option Elab.async false

/-! ### Entries that keep their kind and the agreement of their parts -/

/-- Every entry comes from one of the same kind, and its parts agree where that one's do. -/
def agreesFrom (s t : State) : Prop :=
  ∀ e', inUse t.fixtures e' → ∃ e, inUse s.fixtures e ∧ e'.kind = e.kind ∧ (partsAgree e → partsAgree e')

theorem agreesFrom.refl (s : State) : agreesFrom s s := fun e he => ⟨e, he, rfl, id⟩

theorem agreesFrom.trans {s t u : State} (h : agreesFrom s t) (h' : agreesFrom t u) : agreesFrom s u := fun e'' he'' => by
  obtain ⟨e', he', hk', hp'⟩ := h' e'' he''
  obtain ⟨e, he, hk, hp⟩ := h e' he'
  exact ⟨e, he, hk'.trans hk, hp' ∘ hp⟩

theorem agreesFrom.ite {s t u : State} {c : Prop} [Decidable c] (h : agreesFrom s t) (h' : agreesFrom s u) : agreesFrom s (if c then t else u) := by
  split
  · exact h
  · exact h'

theorem agreesFrom_of_same {s t : State} (h : t.fixtures = s.fixtures) : agreesFrom s t := fun e he => ⟨e, h ▸ he, rfl, id⟩

theorem agreesFrom_of_framed {bs : List Block} {s t : State} (h : framed bs s t) (hb : .fixtures ∉ bs := by decide) : agreesFrom s t :=
  agreesFrom_of_same (h.fixtures hb)

theorem agreesFrom_map {s t : State} {f : FixtureEntry → FixtureEntry} (hfix : t.fixtures = s.fixtures.map (Option.map f))
    (hf : ∀ e, (f e).kind = e.kind ∧ (partsAgree e → partsAgree (f e))) : agreesFrom s t := fun e' he' => by
  rw [hfix, map_option_map_eq_bind] at he'
  obtain ⟨e, he, hfe⟩ := inUse_bind he'
  cases hfe
  exact ⟨e, he, hf e⟩

/-- An entry after the change of those with a tag: the image of one with that tag, or another that stands. -/
theorem State.inUse_updateFixture {s : State} {t : Tag} {f : FixtureEntry → FixtureEntry} {e' : FixtureEntry} (h : inUse (s.updateFixture t f).fixtures e') :
    (∃ e, inUse s.fixtures e ∧ e.tag = t ∧ e' = f e) ∨ inUse s.fixtures e' := by
  obtain ⟨e, he, hfe⟩ := inUse_bind h
  split at hfe
  · rename_i htag
    cases hfe
    exact .inl ⟨e, he, by simpa using htag, rfl⟩
  · cases hfe
    exact .inr he

theorem State.updateFixture_agrees {s : State} {t : Tag} {f : FixtureEntry → FixtureEntry} (hf : ∀ e, (f e).kind = e.kind ∧ (partsAgree e → partsAgree (f e))) :
    agreesFrom s (s.updateFixture t f) := fun e' he' => by
  rcases State.inUse_updateFixture he' with ⟨e, he, -, rfl⟩ | he
  · exact ⟨e, he, hf e⟩
  · exact ⟨e', he, rfl, id⟩

theorem State.applyOrigin_agrees (s : State) (o : Origin) (t : Tag) : agreesFrom s (s.applyOrigin o t) := by
  cases o with
  | plain => exact .refl s
  | entitled => exact State.updateFixture_agrees (fun e => by split <;> exact ⟨rfl, id⟩)
  | preview => exact State.updateFixture_agrees (fun e => ⟨rfl, id⟩)

theorem State.touchedOrigin_agrees (s : State) (svc : Service) (o : Origin) (t : Tag) : agreesFrom s ((s.touchKey svc).applyOrigin o t) :=
  (agreesFrom_of_framed (s.updateKey_framed _ _)).trans (State.applyOrigin_agrees _ o t)

theorem State.runChain_agrees (s : State) (h : Header) : agreesFrom s (s.runChain h).2 := by
  unfold State.runChain State.checkKey
  split
  · exact .refl s
  · split
    · exact s.touchedOrigin_agrees _ _ _
    · exact .refl s
    · exact .refl s

theorem settleParts_agrees (ps : List Part) : ∀ s : State, agreesFrom s (settleParts ps s).2 := by
  induction ps with
  | nil => exact agreesFrom.refl
  | cons p ps ih =>
    intro s
    refine agreesFrom.trans ?_ (ih _)
    unfold settlePart
    split
    · exact .refl s
    · split
      · exact (s.runChain_agrees _).trans (agreesFrom_of_framed (State.latch_framed _ _ _ _))
      · exact .refl s
      · exact .refl s
    · exact .refl s

theorem State.memoryAnswer_agrees (s : State) (id : Nat) (a : Answer) : agreesFrom s (s.memoryAnswer id a) := by
  unfold State.memoryAnswer
  split
  · exact .refl s
  · rename_i e _
    refine (agreesFrom.refl s).ite ((agreesFrom_of_framed ((s.setInflight_framed _ _).andThen (cs := [.emitted, .path]) (State.drain_framed _))).ite ?_)
    exact (settleParts_agrees e.parts s).trans (agreesFrom_of_framed (((State.setInflight_framed _ _ _).andThen (cs := [.emitted, .path])
      (State.presentTogether_framed _ _)).andThen (cs := [.emitted, .path]) (State.drain_framed _)))

theorem fillHolds_agrees (svc : Service) (odd : Bool) (n : Period) (rs : List Slot) : ∀ s : State, agreesFrom s (fillHolds svc odd n rs s) := by
  induction rs with
  | nil => exact agreesFrom.refl
  | cons r rs ih =>
    intro s
    unfold fillHolds
    split
    · split
      · refine agreesFrom.trans ?_ (ih _)
        unfold State.endHoldByFill
        split
        · exact (s.touchedOrigin_agrees _ _ _).trans (agreesFrom_of_framed (State.finishHold_framed _ _ _ _ _))
        · exact agreesFrom_of_framed (s.finishHold_framed _ _ _ _)
      · exact ih s
    · exact ih s

theorem State.completeKey_agrees (s : State) (cell : List Byte) : agreesFrom s (State.completeKey cell s) := by
  unfold State.completeKey
  simp only []
  split
  · split
    · exact (agreesFrom_of_framed (s.updateKey_framed _ _)).trans (fillHolds_agrees _ _ _ _ _)
    · exact agreesFrom_of_framed (s.updateKey_framed _ _)
  · exact .refl s

/-! ### The clock -/

/-- CANCELLED ranks last and is never derived from the clock (R66, R67). -/
theorem Phase.forward_derived_cancelled (ph : Phase) (sch : Schedule) (c : Seconds) : ph.forward (derivePhase sch c) = .cancelled ↔ ph = .cancelled := by
  have hderived : derivePhase sch c ≠ .cancelled := by
    unfold derivePhase
    repeat' split
    all_goals exact nofun
  have hlast : ∀ p : Phase, ¬ Phase.rank .cancelled < p.rank := by
    intro p
    cases p <;> decide
  unfold Phase.forward
  split
  · rename_i hrank
    exact ⟨fun h => absurd h hderived, fun h => absurd hrank (by rw [h]; exact hlast _)⟩
  · rename_i hrank
    rfl

theorem FixtureEntry.advance_agrees (c : Seconds) (e : FixtureEntry) : (e.advance c).kind = e.kind ∧ (partsAgree e → partsAgree (e.advance c)) := by
  unfold FixtureEntry.advance
  split
  · exact ⟨rfl, id⟩
  · rename_i sch ph hst
    split
    · exact ⟨rfl, id⟩
    · refine ⟨rfl, fun h => ?_⟩
      simp only [partsAgree, hst] at h ⊢
      rwa [Phase.forward_derived_cancelled]

theorem FixtureEntry.meter_agrees (e : FixtureEntry) : e.meter.kind = e.kind ∧ (partsAgree e → partsAgree e.meter) := by
  have hcharge : ∀ (charged : Bool) (n : Nat), (if charged then n - 1 else n) ≤ n := fun charged n => by split <;> omega
  have hle : e.meter.remaining ≤ e.remaining := hcharge _ _
  refine ⟨rfl, fun h => ?_⟩
  unfold partsAgree at h ⊢
  rw [show e.meter.standing = e.standing from rfl, show e.meter.kind = e.kind from rfl]
  split <;> rename_i hst <;> rw [hst] at h
  · exact ⟨h.1, by omega⟩
  · exact ⟨h.1, by omega⟩

theorem State.advancePhases_agrees (s : State) (c : Seconds) : agreesFrom s (s.advancePhases c) := agreesFrom_map rfl (FixtureEntry.advance_agrees c)

theorem State.secondEvent_agrees (s : State) : agreesFrom s s.secondEvent :=
  ((State.advancePhases_agrees _ _).trans (agreesFrom_map rfl FixtureEntry.meter_agrees)).ite (.refl s)

theorem State.withClock_agrees (s : State) (c : Clock) : agreesFrom s { s with clock := c } := agreesFrom_of_same rfl

theorem State.tick_agrees (s : State) : agreesFrom s s.tick := (s.secondEvent_agrees.ite (s.withClock_agrees _)).ite (.refl s)

theorem State.adoptTime_agrees (s : State) (v : Seconds) : agreesFrom s (s.adoptTime v) :=
  ((State.advancePhases_agrees _ v).trans (agreesFrom_of_framed (State.book_framed _ _ _))).ite (State.advancePhases_agrees _ v)

/-! ### What stands while RESTORING -/

/-- No right exists yet (R65, R80). -/
def rightless (s : State) : Prop := (∀ e, inUse s.fixtures e → e.kind = .none) ∧ ∀ p, inUse s.passes p → p.owner = .none

/-- No right, no queued refund, no log entry and no order exists yet (R87, R117, R164). -/
structure quietTables (s : State) : Prop where
  refunds : s.refunds = []
  log : s.log.entries = []
  orders : s.orders.st = .idle
  rights : rightless s

theorem rightless_of_agrees {s t : State} (h : rightless s) (hf : agreesFrom s t) (hp : t.passes = s.passes) : rightless t :=
  ⟨fun e' he' => by
    obtain ⟨e, he, hk, -⟩ := hf e' he'
    exact hk.trans (h.1 e he), fun p hp' => h.2 p (hp ▸ hp')⟩

theorem quietTables_of_agrees {bs : List Block} {s t : State} (h : quietTables s) (hf : agreesFrom s t) (hb : framed bs s t)
    (hr : .refunds ∉ bs := by decide) (hl : .log ∉ bs := by decide) (ho : .orders ∉ bs := by decide) (hp : .passes ∉ bs := by decide) : quietTables t where
  refunds := (hb.refunds hr).trans h.refunds
  log := by rw [hb.log hl]; exact h.log
  orders := by rw [hb.orders ho]; exact h.orders
  rights := rightless_of_agrees h.rights hf (hb.passes hp)

theorem quietTables_of_framed {bs : List Block} {s t : State} (hb : framed bs s t) (h : quietTables s) (hf : .fixtures ∉ bs := by decide)
    (hr : .refunds ∉ bs := by decide) (hl : .log ∉ bs := by decide) (ho : .orders ∉ bs := by decide) (hp : .passes ∉ bs := by decide) : quietTables t :=
  quietTables_of_agrees h (agreesFrom_of_framed hb hf) hb hr hl ho hp

/-- Without an IMPULSE entry nothing is refunded (R74). -/
theorem State.cancelEffect_of_rightless {s : State} (h : rightless s) (t : Tag) : s.cancelEffect t = s := by
  unfold State.cancelEffect
  split
  · rename_i e he
    rw [h.1 e (tableFind_some he).1]
  · rfl

theorem State.coveringPass_of_rightless {s : State} (h : rightless s) (t : Tag) : s.coveringPass t = none := by
  unfold State.coveringPass
  cases hfind : tableFind s.passes (fun p => p.owned && p.members.contains t) with
  | none => rfl
  | some p =>
    obtain ⟨hp, howned⟩ := tableFind_some hfind
    simp [PassEntry.owned, h.2 p hp] at howned

theorem State.createFixture_rightless {s t : State} {e : FixtureEntry} (h : rightless s) (hcreate : s.createFixture e = some t) (hk : e.kind = .none) :
    rightless t := by
  obtain ⟨i, -, rfl⟩ := State.createFixture_eq hcreate
  refine ⟨fun x hx => ?_, h.2⟩
  rcases inUse_set hx with rfl | hx
  · exact hk
  · exact h.1 x hx

theorem quietTables_of_fixtures {s t : State} (h : quietTables s) (hb : framed [.fixtures, .conds] s t) (hright : rightless t) : quietTables t :=
  ⟨hb.refunds.trans h.refunds, by rw [hb.log]; exact h.log, by rw [hb.orders]; exact h.orders, hright⟩

theorem State.updateFixture_quiet {s : State} (h : quietTables s) (t : Tag) {f : FixtureEntry → FixtureEntry} (hf : ∀ e, (f e).kind = e.kind) :
    quietTables (s.updateFixture t f) := by
  refine quietTables_of_fixtures h (s.updateFixture_framed t f).into ⟨fun e' he' => ?_, h.rights.2⟩
  rcases State.inUse_updateFixture he' with ⟨e, he, -, rfl⟩ | he
  · exact (hf e).trans (h.rights.1 e he)
  · exact h.rights.1 e' he

theorem State.cancelEffect_quiet {s : State} (h : quietTables s) (t : Tag) : quietTables (s.cancelEffect t) := by
  rw [State.cancelEffect_of_rightless h.rights]
  exact h

theorem State.applyAnnouncement_quiet {s : State} (h : quietTables s) (cell : List Byte) : quietTables (s.applyAnnouncement cell) := by
  have hbook : ∀ k d, quietTables (s.book k d) := fun k d => quietTables_of_framed (s.book_framed k d) h
  unfold State.applyAnnouncement
  split
  · exact hbook _ _
  · simp only []
    split
    · unfold State.announceNew
      simp only []
      rw [State.coveringPass_of_rightless h.rights, ite_self]
      dsimp only
      split
      · rename_i hcreate
        exact quietTables_of_fixtures h (State.createFixture_framed hcreate).into (State.createFixture_rightless h.rights hcreate rfl)
      · exact hbook _ _
    · split
      · unfold State.announceAwaiting
        simp only []
        split
        · exact State.cancelEffect_quiet (State.updateFixture_quiet h _ (by intro; rfl)) _
        · exact State.updateFixture_quiet h _ (by intro; rfl)
      · unfold State.announceAgain
        simp only []
        split
        · exact State.cancelEffect_quiet (State.updateFixture_quiet h _ (by intro; rfl)) _
        · exact State.updateFixture_quiet h _ (by intro; rfl)

theorem State.updatePass_rightless {s : State} (h : rightless s) (id : PassId) {f : PassEntry → PassEntry} (hf : ∀ p, (f p).owner = p.owner) :
    rightless (s.updatePass id f) := by
  refine ⟨h.1, fun p' hp' => ?_⟩
  obtain ⟨p, hp, hfp⟩ := inUse_bind hp'
  split at hfp <;> cases hfp
  · exact (hf p).trans (h.2 p hp)
  · exact h.2 _ hp

theorem quietTables_of_passes {s t : State} (h : quietTables s) (hb : framed [.passes] s t) (hright : rightless t) : quietTables t :=
  ⟨hb.refunds.trans h.refunds, by rw [hb.log]; exact h.log, by rw [hb.orders]; exact h.orders, hright⟩

theorem State.applyPassCell_quiet {s : State} (h : quietTables s) (cell : List Byte) : quietTables (s.applyPassCell cell) := by
  have hbook : ∀ k d, quietTables (s.book k d) := fun k d => quietTables_of_framed (s.book_framed k d) h
  unfold State.applyPassCell
  simp only []
  split
  · exact hbook _ _
  split
  · exact hbook _ _
  split
  · exact hbook _ _
  · split
    · rename_i p hfind
      have hunowned : p.owned = false := by simp [PassEntry.owned, h.rights.2 p (tableFind_some hfind).1]
      rw [if_neg (by simp [hunowned])]
      exact quietTables_of_passes h (s.updatePass_framed _ _) (State.updatePass_rightless h.rights _ (fun _ => rfl))
    · split
      · rename_i hcreate
        refine quietTables_of_passes h (State.createPass_framed hcreate) ⟨?_, ?_⟩
        · rw [(State.createPass_framed hcreate).fixtures]
          exact h.rights.1
        · obtain ⟨i, -, rfl⟩ := State.createPass_eq hcreate
          intro q hq
          rcases inUse_set hq with rfl | hq
          · rfl
          · exact h.rights.2 q hq
      · exact hbook _ _

/-! ### Grants and orders find nothing to do -/

theorem State.completeGrant_of_none {s : State} (h : ∀ c ∈ s.engine.queue, c.kind ≠ .grant) (is : List Byte → Bool) (owner : List Byte → State → State) :
    s.completeGrant is owner = s := by
  unfold State.completeGrant
  split
  · rename_i cell hcell
    obtain ⟨hhead, -⟩ := State.headGrant_some hcell
    obtain ⟨rest, hq⟩ := State.headCell_some hhead
    exact absurd rfl (h _ (by rw [hq]; exact List.mem_cons_self))
  · rfl

theorem State.takeOrder_of_idle {s : State} (h : s.orders.st = .idle) (is : Answer → Bool) (need : Nat) (f : Nat → Answer → State → List Report × State) :
    s.takeOrder is need f = s := by
  unfold State.takeOrder
  rw [h]

theorem State.wake_of_restoring {s : State} (h : s.restoring = true) : s.wake = s := by
  unfold State.wake
  split
  · simp [h]
  · rfl

theorem State.setOrderProducer_idle {s : State} (hr : s.restoring = true) (h : s.orders.st = .idle) (v : BitVec 32) :
    (s.setOrderProducer v).orders.st = .idle := by
  unfold State.setOrderProducer
  split
  · split
    · exact h
    · simp only []
      split
      · rfl
      · rw [State.wake_of_restoring (by exact hr)]
        exact h
  · exact h

theorem State.notices_idle {s : State} (hr : s.restoring = true) (h : s.orders.st = .idle) (c : Cls) (w : WriteReq) (kept : List Bool) :
    (s.notices c w kept).orders.st = .idle := by
  have horder : (s.noticeOrder w kept).orders.st = .idle := by
    unfold State.noticeOrder
    split
    · split
      · exact State.setOrderProducer_idle hr h _
      · exact h
    · exact h
  unfold State.notices
  split
  · rw [(State.noticeReport_framed _ w kept).orders]
    exact horder
  · exact h

theorem State.writeShown_idle {s : State} (hr : s.restoring = true) (h : s.orders.st = .idle) (c : Cls) (w : WriteReq) :
    (s.writeShown c w).orders.st = .idle := by
  have htracked : ∀ touched whole, framed [.slots, .path, .engine, .keys, .conds] s (State.handOverWrite whole w.data (s.trackWrite touched whole w.data)) :=
    fun touched whole => (s.trackWrite_framed touched whole w.data).andThen (State.handOverWrite_framed _ whole w.data)
  unfold State.writeShown
  rw [(State.bookShield_framed _ _ _).orders]
  exact State.notices_idle ((htracked _ _).restoring.trans hr) (by rw [(htracked _ _).orders]; exact h) c w _

theorem State.takeRequest_idle {s : State} (hr : s.restoring = true) (h : s.orders.st = .idle) (r : Request) : (s.takeRequest r).orders.st = .idle := by
  by_cases hroom : roomFor (handled (requestClass r)) s
  · cases r with
    | read q =>
      rw [State.takeRequest_read hroom, (((s.takeRead_framed _ q).andThen (cs := [.path, .emitted, .placement]) (State.showPlacement_framed _ _ _)).andThen
        (cs := [.path, .emitted, .placement]) (State.drain_framed _)).orders]
      exact h
    | write w =>
      rw [State.takeRequest_write hroom, ((State.showPlacement_framed _ _ _).andThen (cs := [.path, .emitted, .placement]) (State.drain_framed _)).orders,
        State.takeWrite_eq, ((State.takeOn_framed _ _ _ _ _).andThen (cs := [.emitted, .path]) (State.presentTogether_framed _ _)).orders]
      exact State.writeShown_idle hr h _ w
  · rw [State.takeRequest_full (Nat.le_of_not_lt hroom)]
    exact h

end Sys2Proof.Machine

/-! Proofs: the refund queue's soundness is kept by every step (R75, R87, R117, R120, R164). -/

namespace Sys2Proof.Machine

open Sys2Proof.Safety

set_option Elab.async false

/-! ### Quiet while RESTORING -/

theorem State.complete_quiet {s : State} {k : CtrlKind} {effect : List Byte → State → State} (hs : quietTables s)
    (heffect : ∀ cell, quietTables (effect cell s)) : quietTables (s.complete k effect) :=
  State.complete_keeps hs (fun u => quietTables_of_framed u.popCell_framed) (fun cell _ => heffect cell)

theorem State.fetchOrder_of_restoring {s : State} (hr : s.restoring = true) (h : s.orders.st = .idle) : s.fetchOrder = s := by
  unfold State.fetchOrder
  simp only [State.wake_of_restoring hr, h]

theorem State.fetchReturned_idle {s : State} (h : s.orders.st = .idle) (a : Answer) : framed [.path] s (s.fetchReturned a) := by
  unfold State.fetchReturned
  split
  · have hsame : s.popOwn.fetchAnswer a = s.popOwn := by
      unfold State.fetchAnswer
      rw [show s.popOwn.orders.st = .idle from h]
    rw [hsame]
    exact s.popOwn_framed
  · exact framed.refl _ s

theorem State.writeReply_of_idle {s : State} (h : s.orders.st = .idle) : s.writeReply = s := by
  unfold State.writeReply
  rw [h]

theorem State.linkReset_agrees (s : State) : agreesFrom s s.linkReset := agreesFrom_map rfl (fun _ => ⟨rfl, id⟩)

theorem after_quietTables {c : Instr} (hc : movesRestore c = false) {s : State} (hr : s.restoring = true) (h : quietTables s)
    (hgrants : ∀ q ∈ s.engine.queue, q.kind ≠ .grant) : quietTables (after c s) := by
  have hsame : ∀ t : State, t = s → quietTables t := fun t ht => ht ▸ h
  cases c with
  | powerOnReset | eepromSectionRead | eepromNoAcknowledge => exact absurd hc (by simp [movesRestore])
  | linkReset => exact ⟨h.refunds, h.log, rfl, rightless_of_agrees h.rights s.linkReset_agrees rfl⟩
  | upstreamRead | upstreamWrite | wholeCellWrite | cellBreak | gatedRead | armingWrite | orderProducerWrite | reportConsumerWrite =>
    have hframe := s.takeRequest_framed
    exact ⟨((hframe _).refunds).trans h.refunds, (congrArg (·.entries) (hframe _).log).trans h.log, State.takeRequest_idle hr h.orders _,
      rightless_of_agrees h.rights (agreesFrom_of_framed (hframe _)) (hframe _).passes⟩
  | gatedReadAnswer id a | forwardedAnswer id a => exact quietTables_of_agrees h (s.memoryAnswer_agrees id a) (s.memoryAnswer_framed id a)
  | unwrapCompletion =>
    exact quietTables_of_framed (State.drain_framed _)
      (State.complete_quiet h (fun cell => quietTables_of_agrees h (s.completeKey_agrees cell) (s.completeKey_framed cell)))
  | announcement => exact State.complete_quiet h (fun cell => State.applyAnnouncement_quiet h cell)
  | passCellCompletion => exact State.complete_quiet h (fun cell => State.applyPassCell_quiet h cell)
  | timeCellAdoption => exact State.complete_quiet h (fun cell => quietTables_of_agrees h (s.adoptTime_agrees _) (s.adoptTime_framed _))
  | groupSet | zoneSet | purseTopup | limitsSet | entitleFixture | entitlePass | revokeFixture | revokePass | logAck | nightReset =>
    exact hsame _ (State.completeGrant_of_none hgrants _ _)
  | secondEvent => exact quietTables_of_agrees h s.secondEvent_agrees s.secondEvent_framed
  | placementDescriptorReadAnswer a =>
    have hframe := s.descriptorsReturned_framed a
    refine ⟨hframe.refunds.trans h.refunds, (congrArg (·.entries) hframe.log).trans h.log, ?_,
      rightless_of_agrees h.rights (agreesFrom_of_framed hframe) hframe.passes⟩
    rcases s.descriptorsReturned_cases a with ⟨_, _, _, _, _, -, -, heq⟩ | ⟨-, hframe, -⟩
    · rw [show after (.placementDescriptorReadAnswer a) s = _ from heq]
      rfl
    · exact (congrArg (·.st) hframe.orders).trans h.orders
  | orderFetch => exact hsame _ (State.fetchOrder_of_restoring hr h.orders)
  | orderFetchAnswer a => exact quietTables_of_framed (State.fetchReturned_idle h.orders a) h
  | buyFixture | buyPass | cancel | quote | quotePass | purse | logRead | fixtureList | badOrder => exact hsame _ (State.takeOrder_of_idle h.orders _ _ _)
  | replyRecordWrite => exact hsame _ (State.writeReply_of_idle h.orders)
  | _ =>
    exact quietTables_of_framed (after_framed _ s) h (by simp [footprint]) (by simp [footprint]) (by simp [footprint]) (by simp [footprint])
      (by simp [footprint])

/-- While the restore lasts, no right, order or grant exists yet (R87, R117, R120, R164). -/
structure restoringQuiet (s : State) : Prop where
  tables : s.restoring = true → quietTables s
  grants : s.restoring = true → ∀ q ∈ s.engine.queue, q.kind ≠ .grant

theorem restoringIsQuiet_iff (s : State) : restoringIsQuiet s ↔ restoringQuiet s := by
  constructor
  · intro h
    refine ⟨fun hr => ?_, fun hr => ?_⟩
    · obtain ⟨hrefunds, hlog, horders, -, hkinds, howners⟩ := h hr
      exact ⟨hrefunds, hlog, horders, hkinds, howners⟩
    · obtain ⟨-, -, -, hgrants, -⟩ := h hr
      exact hgrants
  · intro h hr
    obtain ⟨hrefunds, hlog, horders, hkinds, howners⟩ := h.tables hr
    exact ⟨hrefunds, hlog, horders, h.grants hr, hkinds, howners⟩

theorem restoringQuiet_of_not {s : State} (h : s.restoring = false) : restoringQuiet s :=
  ⟨fun hr => absurd hr (by simp [h]), fun hr => absurd hr (by simp [h])⟩

theorem queueMoves.grants {s t : State} (h : queueMoves s t) (hr : s.restoring = true) (hs : ∀ q ∈ s.engine.queue, q.kind ≠ .grant) :
    ∀ q ∈ t.engine.queue, q.kind ≠ .grant := by
  intro q hq
  rcases h with h | ⟨c, h, -, hc⟩
  · exact hs q (h.subset hq)
  · rw [h] at hq
    rcases List.mem_append.mp hq with hq | hq
    · exact hs q hq
    · rw [List.mem_singleton.mp hq]
      intro hkind
      rw [hr] at hc
      exact absurd (hc hkind) (by simp)

theorem restoringQuiet_of_framed {s t : State} (h : restoringQuiet s) (hb : framed [.conds, .store, .emitted] s t) (hr : s.restoring = true) :
    restoringQuiet t :=
  ⟨fun _ => quietTables_of_framed hb (h.tables hr), fun _ => by rw [hb.engine]; exact h.grants hr⟩

theorem State.sectionRead_quiet {s : State} (h : restoringQuiet s) (r : SectionRead) : restoringQuiet (s.sectionRead r) := by
  unfold State.sectionRead
  split
  · exact h
  · split
    · rename_i hst
      exact restoringQuiet_of_framed h (((s.bookIfLost_framed _ _).andThen (cs := [.conds, .store]) (State.setStore_framed _ _)).andThen
        (State.bus_framed _ _)) (by simp [State.restoring, hst])
    · rename_i hst
      exact restoringQuiet_of_framed h (((s.bookIfLost_framed _ _).andThen (cs := [.conds, .store]) (State.setStore_framed _ _)).andThen
        (State.bus_framed _ _)) (by simp [State.restoring, hst])
    · exact restoringQuiet_of_not (State.restoring_of_st (fun _ _ => by rw [State.endRestore_storeSt]; exact nofun))
    · exact h

theorem State.storeFails_quiet {s : State} (h : restoringQuiet s) (why : NoAck) : restoringQuiet (s.storeFails why) := by
  unfold State.storeFails
  split
  · split
    · refine restoringQuiet_of_not ?_
      refine (State.book_framed _ _ _).restoring.trans (State.restoring_of_st (fun _ _ => ?_))
      unfold State.failRestore
      simp only []
      rw [State.endRestore_storeSt]
      exact nofun
    · exact restoringQuiet_of_not rfl
    · exact h
  · exact h

theorem after_restoringQuiet (c : Instr) {s : State} (h : restoringQuiet s) : restoringQuiet (after c s) := by
  have hkeep : movesRestore c = false → restoringQuiet (after c s) := fun hc =>
    ⟨fun hr => after_quietTables hc (after_restoring hc s ▸ hr) (h.tables (after_restoring hc s ▸ hr)) (h.grants (after_restoring hc s ▸ hr)),
      fun hr => (after_queue c s).grants (after_restoring hc s ▸ hr) (h.grants (after_restoring hc s ▸ hr))⟩
  cases c with
  | powerOnReset =>
    exact ⟨fun _ => ⟨rfl, rfl, rfl, fun e he => absurd he (not_inUse_replicate 32 e), fun p hp => absurd hp (not_inUse_replicate 4 p)⟩,
      fun _ => by exact fun q hq => nomatch hq⟩
  | eepromSectionRead r => exact State.sectionRead_quiet h r
  | eepromNoAcknowledge why => exact State.storeFails_quiet h why
  | _ => exact hkeep rfl

theorem cycle_restoringQuiet {s : State} (h : restoringQuiet s) : restoringQuiet s.busCycle.tick := by
  have hframe := s.busCycle_framed
  have hr : s.busCycle.tick.restoring = true → s.restoring = true := fun hr => by
    rwa [(State.tick_framed _).restoring, s.busCycle_restoring] at hr
  refine ⟨fun hr' => ?_, fun hr' => ?_⟩
  · exact quietTables_of_agrees (quietTables_of_framed hframe (h.tables (hr hr'))) (State.tick_agrees _) (State.tick_framed _)
  · rw [(State.tick_framed _).engine, hframe.engine]
    exact h.grants (hr hr')

/-! ### The invariant -/

/-- A queue without repeats whose tags all find an entry holds at most as many tags as the table has places (R75). -/
theorem queueCore.length_le {s : State} (h : queueCore s) : s.refunds.length ≤ s.fixtures.length := by
  have hsub : ∀ t ∈ s.refunds, t ∈ s.fixtures.filterMap (fun o => o.map (·.tag)) := fun t ht => by
    obtain ⟨e, he, -⟩ := h.2 t ht
    exact List.mem_filterMap.mpr ⟨some e, (tableFind_some he).1, congrArg some (State.fixture_tag he)⟩
  exact Nat.le_trans (nodup_length_le h.1 hsub) (List.length_filterMap_le _ _)

/-- The soundness of the refund queue in its parts. -/
structure refundsSound (s : State) : Prop where
  places : s.fixtures.length = 32
  queue : queueHolds s
  quiet : restoringQuiet s

theorem refundQueueSound_iff (s : State) : RefundQueueSound s ↔ refundsSound s := by
  constructor
  · rintro ⟨hnodup, -, hplaces, hfound, hroom, hquiet⟩
    exact ⟨hplaces, ⟨⟨hnodup, hfound⟩, hroom⟩, (restoringIsQuiet_iff s).mp hquiet⟩
  · rintro ⟨hplaces, ⟨hcore, hroom⟩, hquiet⟩
    exact ⟨hcore.1, by rw [← hplaces]; exact hcore.length_le, hplaces, hcore.2, hroom, (restoringIsQuiet_iff s).mpr hquiet⟩

theorem after_refundsSound {c : Instr} (hwf : c.wf = true) {s : State} (h : refundsSound s) : refundsSound (after c s) where
  places := by
    by_cases hc : c = .powerOnReset
    · rw [hc]
      rfl
    · rw [(after_tables hc hwf s).fixtures.length]
      exact h.places
  queue := after_queueHolds hwf s h.queue (fun hr => (h.quiet.tables hr).refunds)
  quiet := after_restoringQuiet c h.quiet

theorem cycle_refundsSound {s : State} (h : refundsSound s) : refundsSound s.busCycle.tick where
  places := by rw [(cycle_tables s).fixtures.length]; exact h.places
  queue := (queueHolds_of_framed s.busCycle_framed h.queue).stands (State.tick_queue _) (State.tick_framed _).log
  quiet := cycle_restoringQuiet h.quiet

/-- Settles O7: the parts of the queue's soundness are kept one by one; what stands while RESTORING makes the restore begin with an empty queue. -/
theorem refundQueueStaysSound : Obligations.RefundQueueStaysSound := fun s t hs hfront h => by
  refine (refundQueueSound_iff t).mpr (step_keeps (I := refundsSound) (W := fun c => c.wf = true) ?_ (fun _ => cycle_refundsSound)
    (fun _ _ hwf => after_refundsSound hwf) hfront ((refundQueueSound_iff s).mp hs) h)
  exact fun s p h => ⟨h.places, h.queue, ⟨fun hr => ⟨(h.quiet.tables hr).refunds, (h.quiet.tables hr).log, (h.quiet.tables hr).orders,
    (h.quiet.tables hr).rights⟩, h.quiet.grants⟩⟩

end Sys2Proof.Machine

/-! Proofs: the parts of each fixture entry stay in agreement (R57, R64, R66, R78). -/

namespace Sys2Proof.Machine

open Sys2Proof.Safety

set_option Elab.async false

/-! ### One entry -/

/-- A kind other than NONE, or a schedule part, makes an entry's kind free to change (R78). -/
theorem partsAgree_withKind {e : FixtureEntry} {k : Kind} {v : Bool} (h : partsAgree e) (hk : k ≠ .none ∨ e.standing ≠ .awaiting) :
    partsAgree { e with kind := k, viewed := v } := by
  unfold partsAgree at h ⊢
  dsimp only
  split <;> rename_i hst <;> rw [hst] at h
  · rcases hk with hk | hk
    · exact ⟨hk, h.2⟩
    · exact absurd hst hk
  · exact h

theorem partsAgree_awaitingEntry (t : Tag) {k : Kind} (v : Bool) (hk : k ≠ .none) : partsAgree (awaitingEntry t k v) := ⟨hk, rfl⟩

theorem derivePhase_ne_cancelled (sch : Schedule) (c : Seconds) : derivePhase sch c ≠ .cancelled := by
  unfold derivePhase
  repeat' split
  all_goals exact nofun

theorem firstPhase_cancelled_iff (sch : Schedule) (c : Seconds) : firstPhase sch c = .cancelled ↔ sch.cancelled = true := by
  unfold firstPhase
  split
  · rename_i h
    simp [h]
  · rename_i h
    exact ⟨fun hph => absurd hph (derivePhase_ne_cancelled sch c), fun hc => absurd hc h⟩

theorem nextPhase_cancelled_iff (sch : Schedule) (c : Seconds) (ph : Phase) : nextPhase sch c ph = .cancelled ↔ ph = .cancelled ∨ sch.cancelled = true := by
  unfold nextPhase
  split
  · rename_i h
    exact iff_of_true rfl h
  · rename_i h
    refine iff_of_false ?_ h
    split
    · exact nofun
    · exact nofun
    · exact derivePhase_ne_cancelled sch c

theorem partsAgree_scheduled_iff {e : FixtureEntry} {sch : Schedule} {ph : Phase} (h : e.standing = .scheduled sch ph) :
    partsAgree e ↔ (ph = .cancelled ↔ sch.cancelled = true) ∧ e.remaining ≤ sch.allowance.toNat := by
  unfold partsAgree
  rw [h]

theorem partsAgree_awaiting_iff {e : FixtureEntry} (h : e.standing = .awaiting) : partsAgree e ↔ e.kind ≠ .none ∧ e.remaining = 0 := by
  unfold partsAgree
  rw [h]

theorem partsAgree_newEntry (t : Tag) (sch : Schedule) (c : Seconds) : partsAgree (newEntry t sch c) :=
  ⟨firstPhase_cancelled_iff sch c, Nat.le_refl _⟩

theorem partsAgree_queuedEntry (r : FixtureRec) (sch : Schedule) : partsAgree (queuedEntry r sch) := ⟨iff_of_true rfl rfl, Nat.le_refl _⟩

theorem partsAgree_requeued {e : FixtureEntry} (h : partsAgree e) (r : FixtureRec) (kept : Schedule) : partsAgree (e.requeued r kept) := by
  refine ⟨iff_of_true rfl rfl, ?_⟩
  show e.remaining ≤ (e.schedule.getD kept).allowance.toNat
  cases hst : e.standing with
  | awaiting =>
    rw [partsAgree_awaiting_iff hst] at h
    omega
  | scheduled sch ph =>
    rw [partsAgree_scheduled_iff hst] at h
    rw [show e.schedule = some sch by simp [FixtureEntry.schedule, hst]]
    exact h.2

/-! ### The table -/

theorem keyed_unique {α : Type} {n : Nat} {key : α → BitVec n} {t : List (Option α)} (h : keyed key t) {a b : α} (ha : inUse t a) (hb : inUse t b)
    (hk : key a = key b) : a = b := by
  induction t with
  | nil => cases ha
  | cons o os ih =>
    cases o with
    | none =>
      have hin : ∀ x, inUse (none :: os) x → inUse os x := fun x hx => by
        rcases List.mem_cons.mp hx with hx | hx
        · cases hx
        · exact hx
      exact ih h (hin a ha) (hin b hb)
    | some x =>
      have hnodup : (key x :: os.filterMap (fun o => o.map key)).Nodup := h
      obtain ⟨hfresh, hrest⟩ := List.nodup_cons.mp hnodup
      have hother : ∀ y, inUse os y → key y ≠ key x := fun y hy hkey => hfresh (List.mem_filterMap.mpr ⟨some y, hy, congrArg some hkey⟩)
      rcases List.mem_cons.mp ha with ha | ha <;> rcases List.mem_cons.mp hb with hb | hb
      · cases ha
        cases hb
        rfl
      · cases ha
        exact absurd hk.symm (hother b ‹_›)
      · cases hb
        exact absurd hk (hother a ‹_›)
      · exact ih hrest ha hb

/-- The entries of the table are sound and no two hold one tag. -/
structure entriesSound (s : State) : Prop where
  parts : FixturesSound s
  keyed : keyed FixtureEntry.tag s.fixtures

theorem entriesSound.found {s : State} (h : entriesSound s) {e : FixtureEntry} (he : inUse s.fixtures e) : s.fixture e.tag = some e := by
  cases hfind : s.fixture e.tag with
  | none => exact absurd rfl (State.fixture_fresh hfind e he)
  | some x => rw [keyed_unique h.keyed (tableFind_some hfind).1 he (State.fixture_tag hfind)]

theorem entriesSound_of_agrees {s t : State} (h : entriesSound s) (hf : agreesFrom s t) (hk : tablesKept s t) : entriesSound t :=
  ⟨fun e' he' => by
    obtain ⟨e, he, -, hp⟩ := hf e' he'
    exact hp (h.parts e he), hk.fixtures.distinct h.keyed⟩

theorem entriesSound_of_same {s t : State} (h : entriesSound s) (hf : t.fixtures = s.fixtures) : entriesSound t :=
  ⟨fun e he => h.parts e (hf ▸ he), by rw [hf]; exact h.keyed⟩

theorem entriesSound_of_framed {bs : List Block} {s t : State} (hb : framed bs s t) (h : entriesSound s) (hf : .fixtures ∉ bs := by decide) :
    entriesSound t :=
  entriesSound_of_same h (hb.fixtures hf)

theorem State.book_entries {s : State} (h : entriesSound s) (k : CondKind) (d : CondData) : entriesSound (s.book k d) :=
  entriesSound_of_framed (s.book_framed k d) h

/-- A change of the entry that a tag finds. -/
theorem State.updateFixture_entries {s : State} (h : entriesSound s) {t : Tag} {f : FixtureEntry → FixtureEntry} (htag : ∀ e, (f e).tag = e.tag)
    (hf : ∀ e, s.fixture t = some e → partsAgree e → partsAgree (f e)) : entriesSound (s.updateFixture t f) where
  parts e' he' := by
    rcases State.inUse_updateFixture he' with ⟨e, he, rfl, rfl⟩ | he
    · exact hf e (h.found he) (h.parts e he)
    · exact h.parts e' he
  keyed := h.keyed.sublist (keys_sublist (fun e e' he => by
    split at he <;> cases he
    · exact htag e
    · rfl) s.fixtures)

theorem State.setKind_entries {s : State} (h : entriesSound s) (t : Tag) {k : Kind} (hk : k ≠ .none) :
    entriesSound (s.updateFixture t (fun e => { e with kind := k })) :=
  State.updateFixture_entries h (fun _ => rfl) (fun _ _ hp => partsAgree_withKind hp (.inl hk))

theorem State.disentitle_entries {s : State} (h : entriesSound s) {t : Tag} (hst : ∀ e, s.fixture t = some e → e.standing ≠ .awaiting) :
    entriesSound (s.updateFixture t (fun e => { e with kind := .none, viewed := false })) :=
  State.updateFixture_entries h (fun _ => rfl) (fun e he hp => partsAgree_withKind hp (.inr (hst e he)))

theorem State.createFixture_entries {s t : State} {e : FixtureEntry} (h : entriesSound s) (hcreate : s.createFixture e = some t) (hnone : s.fixture e.tag = none)
    (he : partsAgree e) : entriesSound t := by
  obtain ⟨i, -, rfl⟩ := State.createFixture_eq hcreate
  refine ⟨fun x hx => ?_, keyed_set (State.fixture_fresh hnone) h.keyed i⟩
  rcases inUse_set hx with rfl | hx
  · exact he
  · exact h.parts x hx

/-- Entries that change by `g`, or go out of use. -/
theorem entriesSound_bind {s t : State} (h : entriesSound s) {g : FixtureEntry → Option FixtureEntry} (hfix : t.fixtures = s.fixtures.map (fun o => o.bind g))
    (htag : ∀ e e', g e = some e' → e'.tag = e.tag) (hg : ∀ e e', g e = some e' → partsAgree e → partsAgree e') : entriesSound t where
  parts e' he' := by
    rw [hfix] at he'
    obtain ⟨e, he, hge⟩ := inUse_bind he'
    exact hg e e' hge (h.parts e he)
  keyed := by
    rw [hfix]
    exact h.keyed.sublist (keys_sublist htag s.fixtures)

theorem State.removeFixtures_entries {s : State} (h : entriesSound s) (p : FixtureEntry → Bool) : entriesSound (s.removeFixtures p) :=
  entriesSound_bind h rfl (fun e e' he => by split at he <;> cases he; rfl) (fun e e' he hp => by split at he <;> cases he; exact hp)

/-! ### Passes -/

theorem State.propagateTag_entries {s : State} (h : entriesSound s) (id : PassId) (t : Tag) : entriesSound (s.propagateTag id t) := by
  unfold State.propagateTag
  split
  · split
    · exact State.book_entries (State.setKind_entries h t (k := .pass id) nofun) _ _
    · exact h
  · exact h

theorem State.propagate_entries {s : State} (h : entriesSound s) (id : PassId) (tags : List Tag) : entriesSound (s.propagate id tags) :=
  entriesSound_of_framed (State.settleLatest_framed _ _ _) (foldl_keeps (I := entriesSound) (fun t _ _ hs => State.propagateTag_entries hs id t) s h)

theorem State.updatePass_entries {s : State} (h : entriesSound s) (id : PassId) (f : PassEntry → PassEntry) : entriesSound (s.updatePass id f) :=
  entriesSound_of_framed (s.updatePass_framed id f) h

theorem State.applyPassCell_entries {s : State} (h : entriesSound s) (cell : List Byte) : entriesSound (s.applyPassCell cell) := by
  unfold State.applyPassCell
  simp only []
  split
  · exact State.book_entries h _ _
  split
  · exact State.book_entries h _ _
  split
  · exact State.book_entries h _ _
  · split
    · split
      · exact State.propagate_entries (State.updatePass_entries h _ _) _ _
      · exact State.updatePass_entries h _ _
    · split
      · exact entriesSound_of_framed (State.createPass_framed ‹_›) h
      · exact State.book_entries h _ _

theorem State.entitlePass_entries {s : State} (h : entriesSound s) (id : PassId) : entriesSound (s.entitlePass id) := by
  unfold State.entitlePass
  split
  · exact h
  · split
    · split
      · exact State.propagate_entries (State.updatePass_entries h _ _) _ _
      · exact h
    · split
      · exact entriesSound_of_framed (State.createPass_framed ‹_›) h
      · exact State.book_entries h _ _

theorem State.revokedEntry_agrees {s : State} {id : PassId} {e e' : FixtureEntry} (h : s.revokedEntry id e = some e') :
    e'.tag = e.tag ∧ (partsAgree e → partsAgree e') := by
  unfold State.revokedEntry at h
  split at h
  · split at h
    · cases h
      exact ⟨rfl, fun hp => partsAgree_withKind hp (.inl nofun)⟩
    · split at h
      · cases h
      · rename_i hst
        cases h
        exact ⟨rfl, fun hp => partsAgree_withKind hp (.inr (by rw [hst]; exact nofun))⟩
  · cases h
    exact ⟨rfl, fun hp => hp⟩

theorem State.revokePass_entries {s : State} (h : entriesSound s) (id : PassId) : entriesSound (s.revokePass id) := by
  unfold State.revokePass
  split
  · split
    · simp only []
      refine entriesSound_of_framed (State.settleLatest_framed _ _ _) (foldl_keeps (I := entriesSound) (fun t _ _ hs => State.book_entries hs _ _) _ ?_)
      exact entriesSound_bind (State.updatePass_entries h _ _) rfl (fun e e' he => (State.revokedEntry_agrees he).1)
        (fun e e' he => (State.revokedEntry_agrees he).2)
    · exact h
  · exact h

/-! ### Fixtures -/

theorem State.cancelEffect_entries {s : State} {t : Tag} (h : entriesSound s) (hcancelled : ∀ e, s.fixture t = some e → ∃ sch, e.standing = .scheduled sch .cancelled) :
    entriesSound (s.cancelEffect t) := by
  unfold State.cancelEffect
  split
  · split
    · rename_i a _
      split
      · exact entriesSound_of_same h rfl
      · refine State.book_entries (entriesSound_of_framed (State.bookNearlyFull_framed _) ?_) _ _
        refine State.disentitle_entries (entriesSound_of_framed (s.refund_framed _ t a) h) (fun x hx => ?_)
        obtain ⟨sch, hst⟩ := hcancelled x hx
        rw [hst]
        exact nofun
    · exact h
  · exact h

theorem State.announceNew_entries {s : State} (h : entriesSound s) {t : Tag} (hnone : s.fixture t = none) (sch : Schedule) : entriesSound (s.announceNew t sch) := by
  unfold State.announceNew
  simp only []
  split
  · split
    · rename_i hcreate
      exact State.book_entries (State.createFixture_entries h hcreate hnone (partsAgree_newEntry t sch s.now)) _ _
    · exact State.book_entries h _ _
  · split
    · rename_i hcreate
      exact State.createFixture_entries h hcreate hnone (partsAgree_newEntry t sch s.now)
    · exact State.book_entries h _ _

theorem State.announceAwaiting_entries {s : State} (h : entriesSound s) (t : Tag) (sch : Schedule) : entriesSound (s.announceAwaiting t sch) := by
  have hupdate : entriesSound (s.updateFixture t (fun e =>
      { e with standing := .scheduled sch (firstPhase sch s.now), remaining := sch.allowance.toNat, delivered := false })) :=
    State.updateFixture_entries h (fun _ => rfl) (fun _ _ _ => ⟨firstPhase_cancelled_iff sch s.now, Nat.le_refl _⟩)
  unfold State.announceAwaiting
  simp only []
  split
  · rename_i hc
    refine State.cancelEffect_entries hupdate (fun x hx => ?_)
    rw [(s.updateFixture_spec t _ (by intro; rfl)).1] at hx
    obtain ⟨e, -, rfl⟩ := Option.map_eq_some_iff.mp hx
    exact ⟨sch, by rw [firstPhase_cancelled hc]⟩
  · rename_i hc
    exact hupdate

theorem State.announceAgain_entries {s : State} (h : entriesSound s) {t : Tag} {e : FixtureEntry} (he : s.fixture t = some e) {old : Schedule} {ph : Phase}
    (hst : e.standing = .scheduled old ph) (sch : Schedule) : entriesSound (s.announceAgain t sch old ph) := by
  have hold := (partsAgree_scheduled_iff hst).mp (h.parts e (tableFind_some he).1)
  have hphase : nextPhase sch s.now ph = .cancelled ↔ (sch.cancelled || old.cancelled) = true := by
    rw [nextPhase_cancelled_iff, hold.1, Bool.or_eq_true, or_comm]
  have hupdate : entriesSound (s.updateFixture t (fun e =>
      { e with
        standing := .scheduled { sch with cancelled := sch.cancelled || old.cancelled } (nextPhase sch s.now ph)
        remaining := min e.remaining sch.allowance.toNat })) :=
    State.updateFixture_entries h (fun _ => rfl) (fun _ _ _ => ⟨hphase, Nat.min_le_right _ _⟩)
  unfold State.announceAgain
  simp only []
  split
  · rename_i hc
    refine State.cancelEffect_entries hupdate (fun x hx => ?_)
    rw [(s.updateFixture_spec t _ (by intro; rfl)).1] at hx
    obtain ⟨e, -, rfl⟩ := Option.map_eq_some_iff.mp hx
    exact ⟨_, by rw [nextPhase_cancelled (.inr hc.1)]⟩
  · rename_i hc
    exact hupdate

theorem State.applyAnnouncement_entries {s : State} (h : entriesSound s) (cell : List Byte) : entriesSound (s.applyAnnouncement cell) := by
  unfold State.applyAnnouncement
  split
  · exact State.book_entries h _ _
  · simp only []
    split
    · exact State.announceNew_entries h ‹_› _
    · split
      · exact State.announceAwaiting_entries h _ _
      · exact State.announceAgain_entries h ‹_› ‹_› _

theorem State.entitleFixture_entries {s : State} (h : entriesSound s) (t : Tag) : entriesSound (s.entitleFixture t) := by
  unfold State.entitleFixture
  split
  · exact h
  · split
    · split
      · exact State.book_entries (State.setKind_entries h t (k := .granted) nofun) _ _
      · exact State.book_entries (State.setKind_entries h t (k := .granted) nofun) _ _
      · exact h
      · exact h
    · rename_i hnone
      split
      · rename_i hcreate
        exact State.book_entries (State.createFixture_entries h hcreate hnone (partsAgree_awaitingEntry t false nofun)) _ _
      · exact State.book_entries h _ _

theorem State.revokeFixture_entries {s : State} (h : entriesSound s) (t : Tag) : entriesSound (s.revokeFixture t) := by
  unfold State.revokeFixture
  split
  · rename_i e he
    split
    · split
      · rename_i id _
        exact State.book_entries (State.setKind_entries h t (k := .pass id) nofun) _ _
      · split
        · exact State.book_entries (State.removeFixtures_entries h _) _ _
        · rename_i hst
          refine State.book_entries (State.disentitle_entries h (fun x hx => ?_)) _ _
          obtain rfl : e = x := by simpa [he] using hx
          exact hst
    · exact h
  · exact h

theorem State.nightReset_entries {s : State} (h : entriesSound s) : entriesSound s.nightReset :=
  entriesSound_of_framed (State.setPasses_framed _ _) (State.removeFixtures_entries (entriesSound_of_framed (s.setPurse_framed _) h) _)

/-! ### Orders -/

theorem State.buyFixture_entries {s : State} (h : entriesSound s) (t : Tag) (price : Nat) : entriesSound (s.buyFixture t price) := by
  have hdebited : entriesSound (State.addEntry .purchase t (BitVec.ofNat 16 price) (s.setPurse (s.purse.debited price))) :=
    entriesSound_of_same h rfl
  exact entriesSound_of_framed (State.bookNearlyFull_framed _) (State.setKind_entries hdebited t (k := .impulse (BitVec.ofNat 16 price)) nofun)

theorem State.buyPass_entries {s : State} (h : entriesSound s) (id : PassId) (price : Nat) : entriesSound (s.buyPass id price) := by
  have hdebited : entriesSound (State.addEntry .passPurchase (id.setWidth 16) (BitVec.ofNat 16 price) (s.setPurse (s.purse.debited price))) :=
    entriesSound_of_same h rfl
  exact entriesSound_of_framed (State.bookNearlyFull_framed _) (State.propagate_entries (State.updatePass_entries hdebited id _) id _)

theorem State.cancelFixture_entries {s : State} (h : entriesSound s) {t : Tag} (haccepted : s.cancelCheck t = .accepted) : entriesSound (s.cancelFixture t) := by
  obtain ⟨e, sch, ph, he, hst, -⟩ := State.cancelCheck_accepted haccepted
  refine entriesSound_of_framed (State.bookNearlyFull_framed _) ?_
  refine State.disentitle_entries (entriesSound_of_framed (s.refund_framed _ t _) h) (fun x hx => ?_)
  obtain rfl : e = x := by
    have hx : s.fixture t = some x := hx
    simpa [he] using hx
  rw [hst]
  exact nofun

/-! ### The refund queue and the restore -/

/-- A served tag's entry is CANCELLED, and so keeps its schedule part (R112, R75). -/
theorem State.serveTag_entries {s : State} {t : Tag} {rest : List Tag} (hq : s.refunds = t :: rest) (hcore : queueCore s) (h : entriesSound s) :
    entriesSound (s.serveTag t rest) := by
  obtain ⟨e, he, ⟨sch, hst⟩, -⟩ := hcore.2 t (by rw [hq]; exact List.mem_cons_self)
  refine entriesSound_of_framed (State.setRefunds_framed _ rest) ?_
  refine State.disentitle_entries (entriesSound_of_framed (s.refund_framed _ t _) h) (fun x hx => ?_)
  obtain rfl : e = x := by
    have hx : s.fixture t = some x := hx
    simpa [he] using hx
  rw [hst]
  exact nofun

theorem serveFrom_entries (q : List Tag) : ∀ s : State, s.refunds = q → queueCore s → entriesSound s → entriesSound (serveFrom q s) := by
  induction q with
  | nil => exact fun _ _ _ h => h
  | cons t rest ih =>
    intro s hq hcore h
    unfold serveFrom
    split
    · exact h
    · exact ih _ rfl (State.serveTag_core hq hcore) (State.serveTag_entries hq hcore h)

theorem State.acknowledge_entries {s : State} (hcore : queueCore s) (h : entriesSound s) (n : Seq) : entriesSound (s.acknowledge n) := by
  have hremoved : entriesSound (s.removeEntries (ackCount s.log.entries n)) := entriesSound_of_same h rfl
  exact entriesSound_of_framed (State.settleQueue_framed _ _) (serveFrom_entries _ (s.removeEntries (ackCount s.log.entries n)) rfl hcore hremoved)

theorem State.serveRestored_entries {s : State} (hcore : queueCore s) (h : entriesSound s) : entriesSound s.serveRestored := by
  have hserved : entriesSound (s.serveRefunds.settleQueue s.refunds) :=
    entriesSound_of_framed (State.settleQueue_framed _ _) (serveFrom_entries _ s rfl hcore h)
  unfold State.serveRestored
  simp only []
  split
  · exact State.book_entries hserved _ _
  · exact hserved

theorem State.joinRefunds_entries {s : State} (h : entriesSound s) (t : Tag) : entriesSound (s.joinRefunds t) :=
  entriesSound_of_framed (s.joinRefunds_framed t) h

theorem recordKind_ne_none {r : FixtureRec} (h : recordOk r = true) (hq : r.queued = none) : recordKind r ≠ .none := by
  unfold recordKind
  cases hk : r.kind <;> simp [recordOk, hk, hq] at h ⊢

/-- A record that S2 may hold leaves the entries sound (R173, R175). -/
theorem State.restoreRecord_entries {s : State} (h : entriesSound s) {r : FixtureRec} (hr : recordOk r = true) : entriesSound (s.restoreRecord r) := by
  unfold State.restoreRecord
  split
  · rename_i sch _
    unfold State.restoreQueued
    split
    · have hupdate : entriesSound (s.updateFixture r.tag (FixtureEntry.requeued r sch)) :=
        State.updateFixture_entries h (fun _ => rfl) (fun e _ hp => partsAgree_requeued hp r sch)
      exact State.joinRefunds_entries hupdate _
    · rename_i hnone
      split
      · rename_i hcreate
        exact State.joinRefunds_entries (State.createFixture_entries h hcreate hnone (partsAgree_queuedEntry r sch)) _
      · exact State.book_entries h _ _
  · rename_i hq
    have hkind := recordKind_ne_none hr hq
    unfold State.restoreFixture
    split
    · rename_i e he
      have hupdate : entriesSound (s.updateFixture r.tag (fun e => { e with kind := recordKind r, viewed := r.viewed })) :=
        State.updateFixture_entries h (fun _ => rfl) (fun _ _ hp => partsAgree_withKind hp (.inl hkind))
      simp only []
      split
      · rename_i hc
        refine State.cancelEffect_entries hupdate (fun x hx => ?_)
        rw [(s.updateFixture_spec r.tag _ (by intro; rfl)).1, he] at hx
        cases hx
        exact (e.isCancelled_iff).mp hc
      · rename_i hc
        exact hupdate
    · rename_i hnone
      split
      · rename_i hcreate
        exact State.createFixture_entries h hcreate hnone (partsAgree_awaitingEntry r.tag r.viewed hkind)
      · exact State.book_entries h _ _

theorem State.restorePass_entries {s : State} (h : entriesSound s) (r : PassRec) : entriesSound (s.restorePass r) := by
  unfold State.restorePass
  simp only []
  split
  · split
    · exact State.updatePass_entries h _ _
    · exact State.propagate_entries (State.updatePass_entries h _ _) _ _
  · split
    · have hcreated := entriesSound_of_framed (State.createPass_framed ‹_›) h
      split
      · exact hcreated
      · exact State.propagate_entries hcreated _ _
    · exact State.book_entries h _ _

theorem State.restoreRecords_entries {s : State} (h : entriesSound s) {f : S2Fields} (hf : ∀ r ∈ f.fixtures, recordOk r = true) :
    entriesSound (s.restoreRecords f) :=
  foldl_keeps (I := entriesSound) (fun r _ _ hs => State.restorePass_entries hs r) _
    (foldl_keeps (I := entriesSound) (fun r hr _ hs => State.restoreRecord_entries hs (hf r hr)) s h)

theorem State.endRestore_entries {s : State} (h : entriesSound s) (hnone : s.refunds = []) {j2 : Judged S2Fields}
    (hnodup : ((recordsOf j2).fixtures.map (·.tag)).Nodup) (hok : ∀ r ∈ (recordsOf j2).fixtures, recordOk r = true)
    (j0 : Judged S0Fields) (j1 : Judged (List LogEntry)) (st : RetentionState) : entriesSound (s.endRestore j0 j1 j2 st) := by
  have htaken : ∀ u : State, u.fixtures = s.fixtures → u.refunds = [] → entriesSound (u.restoreRecords (recordsOf j2)).serveRestored := fun u hf hu =>
    State.serveRestored_entries (State.restoreRecords_core (queueCore_of_refunds_nil hu) hu hnodup)
      (State.restoreRecords_entries (entriesSound_of_same h hf) hok)
  have hframe : ∀ u : State, framed [.store, .placement, .reports, .orders] u
      ((u.settleS2 s.store.dirty.s2 j2).setStore st).handPlaced.wake := fun u =>
    (((u.settleS2_framed _ _).andThen (cs := [.store]) (State.setStore_framed _ st)).andThen (cs := [.store, .placement, .reports])
      (State.handPlaced_framed _)).andThen (State.wake_framed _)
  rw [State.endRestore_eq]
  unfold State.restoredTables
  exact entriesSound_of_framed (hframe _) (htaken (if (restoredCredit j0 j1).reconciled then (s.takeCredit (restoredCredit j0 j1)).bookLost (only .s1)
    else s.takeCredit (restoredCredit j0 j1)) (by split <;> rfl) (by split <;> exact hnone))

theorem judgeS2_ok (x : SectionBytes S2Fields) : ∀ r ∈ (recordsOf (judgeS2 x)).fixtures, recordOk r = true := by
  unfold judgeS2
  rcases judge_cases x (x.fields.fixtures.all recordOk) x.fields with ⟨-, h⟩ | ⟨-, -, h⟩ | ⟨-, -, hsound, h⟩ <;> rw [h]
  · exact fun r hr => nomatch hr
  · exact fun r hr => nomatch hr
  · exact fun r hr => List.all_eq_true.mp hsound r hr

theorem State.sectionRead_entries {r : SectionRead} (hwf : r.wf = true) {s : State} (h : entriesSound s) (hquiet : s.restoring = true → s.refunds = []) :
    entriesSound (s.sectionRead r) := by
  unfold State.sectionRead
  split
  · exact h
  · split
    · exact entriesSound_of_framed (((s.bookIfLost_framed _ _).andThen (cs := [.conds, .store]) (State.setStore_framed _ _)).andThen
        (cs := [.conds, .store, .emitted]) (State.bus_framed _ _)) h
    · exact entriesSound_of_framed (((s.bookIfLost_framed _ _).andThen (cs := [.conds, .store]) (State.setStore_framed _ _)).andThen
        (cs := [.conds, .store, .emitted]) (State.bus_framed _ _)) h
    · rename_i x hst
      exact State.endRestore_entries (entriesSound_of_framed (s.bookIfLost_framed _ _) h)
        ((s.bookIfLost_framed _ _).refunds.trans (hquiet (by simp [State.restoring, hst]))) (judgeS2_tags hwf) (judgeS2_ok x) _ _ _
    · exact h

theorem State.storeFails_entries {s : State} (h : entriesSound s) (hquiet : s.restoring = true → s.refunds = []) (why : NoAck) :
    entriesSound (s.storeFails why) := by
  unfold State.storeFails
  split
  · split
    · rename_i j0 j1 hst
      have hnone := hquiet (by simp [State.restoring, hst])
      refine State.book_entries ?_ _ _
      unfold State.failRestore
      refine State.endRestore_entries (j2 := .lost) (State.book_entries (entriesSound_of_same h ?_) _ _) ((State.book_framed _ _ _).refunds.trans ?_)
        List.nodup_nil (fun r hr => nomatch hr) _ _ _
      · simp only []
        repeat' split
        all_goals rfl
      · simp only []
        repeat' split
        all_goals exact hnone
    · refine State.book_entries ?_ _ _
      exact entriesSound_of_same h rfl
    · exact h
  · exact h

/-! ### Every step -/

theorem State.complete_entries {s : State} {k : CtrlKind} {effect : List Byte → State → State} (hs : entriesSound s)
    (heffect : ∀ cell, entriesSound (effect cell s)) : entriesSound (s.complete k effect) :=
  State.complete_keeps hs (fun u => entriesSound_of_framed u.popCell_framed) (fun cell _ => heffect cell)

theorem State.completeGrant_entries {s : State} {is : List Byte → Bool} {owner : List Byte → State → State} (hs : entriesSound s)
    (howner : ∀ cell u, u.fixtures = s.fixtures → u.refunds = s.refunds → entriesSound u → entriesSound (owner cell u)) : entriesSound (s.completeGrant is owner) :=
  State.completeGrant_keeps hs (fun u => entriesSound_of_framed u.popCell_framed)
    (fun cell _ => howner cell _ (s.advanceSeq_framed cell).fixtures (s.advanceSeq_framed cell).refunds (entriesSound_of_framed (s.advanceSeq_framed cell) hs))

theorem State.takeOrder_entries {s : State} {is : Answer → Bool} {need : Nat} {f : Nat → Answer → State → List Report × State} (hs : entriesSound s)
    (hf : ∀ slot a, entriesSound (f slot a s).2) : entriesSound (s.takeOrder is need f) :=
  State.takeOrder_keeps hs (fun u _ => entriesSound_of_framed (u.withOrders_framed _)) (fun slot a _ => hf slot a)

theorem after_entriesSound {c : Instr} (hwf : c.wf = true) {s : State} (hq : refundsSound s) (h : entriesSound s) : entriesSound (after c s) := by
  cases c with
  | powerOnReset => exact ⟨fun e he => absurd he (not_inUse_replicate 32 e), keyed_replicate FixtureEntry.tag 32⟩
  | linkReset => exact entriesSound_of_agrees h s.linkReset_agrees s.linkReset_tables
  | gatedReadAnswer id a | forwardedAnswer id a => exact entriesSound_of_agrees h (s.memoryAnswer_agrees id a) (s.memoryAnswer_tables id a)
  | unwrapCompletion =>
    exact entriesSound_of_framed (State.drain_framed _)
      (State.complete_entries h (fun cell => entriesSound_of_agrees h (s.completeKey_agrees cell) (s.completeKey_tables cell)))
  | announcement => exact State.complete_entries h (fun cell => State.applyAnnouncement_entries h cell)
  | passCellCompletion => exact State.complete_entries h (fun cell => State.applyPassCell_entries h cell)
  | timeCellAdoption => exact State.complete_entries h (fun cell => entriesSound_of_agrees h (s.adoptTime_agrees _) (s.adoptTime_tables _))
  | entitleFixture => exact State.completeGrant_entries h (fun cell u _ _ hu => State.entitleFixture_entries hu _)
  | entitlePass => exact State.completeGrant_entries h (fun cell u _ _ hu => State.entitlePass_entries hu _)
  | revokeFixture => exact State.completeGrant_entries h (fun cell u _ _ hu => State.revokeFixture_entries hu _)
  | revokePass => exact State.completeGrant_entries h (fun cell u _ _ hu => State.revokePass_entries hu _)
  | logAck =>
    exact State.completeGrant_entries h (fun cell u hf hr hu => State.acknowledge_entries ((queueStands_of_same hf hr).core hq.queue.1) hu _)
  | nightReset => exact State.completeGrant_entries h (fun cell u _ _ hu => State.nightReset_entries hu)
  | secondEvent => exact entriesSound_of_agrees h s.secondEvent_agrees s.secondEvent_tables
  | buyFixture =>
    refine State.takeOrder_entries h (fun slot a => ?_)
    unfold State.answerBuyFixture
    simp only []
    split
    · exact State.buyFixture_entries h _ _
    · exact h
  | buyPass =>
    refine State.takeOrder_entries h (fun slot a => ?_)
    unfold State.answerBuyPass
    simp only []
    split
    · exact State.buyPass_entries h _ _
    · exact h
  | cancel =>
    refine State.takeOrder_entries h (fun slot a => ?_)
    unfold State.answerCancel
    simp only []
    split
    · exact State.cancelFixture_entries h ‹_›
    · exact h
  | eepromSectionRead r => exact State.sectionRead_entries hwf h (fun hr => (hq.quiet.tables hr).refunds)
  | eepromNoAcknowledge why => exact State.storeFails_entries h (fun hr => (hq.quiet.tables hr).refunds) why
  | _ => exact entriesSound_of_framed (after_framed _ s) h (by simp [footprint])

/-- Settles O8: an entry keeps its schedule part in agreement with its phase, and loses its entitlement only with a schedule part or with its place. -/
theorem fixturePartsStayInAgreement : Obligations.FixturePartsStayInAgreement := fun s t hkeyed hrefunds hs hfront h => by
  have hquiet := (refundQueueSound_iff s).mp hrefunds
  have hsound : entriesSound s := ⟨hs, hkeyed.1⟩
  rcases step_cases h with ⟨-, rfl⟩ | ⟨c, rest, hp, rfl⟩
  · exact (entriesSound_of_agrees (entriesSound_of_framed s.busCycle_framed hsound) (State.tick_agrees _) (State.tick_tables _)).parts
  · have hrest := (refundQueueSound_iff { s with pending := rest }).mp hrefunds
    exact (after_entriesSound (hfront c rest hp) hrest ⟨hs, hkeyed.1⟩).parts

/-! ### The state after power-on reset -/

theorem reset_ledger : Ledger State.reset.purse State.reset.log ∧ JudgedSound State.reset.store.st := by
  refine (creditSound_iff State.reset).mp ⟨⟨rfl, ⟨by decide, by decide, by decide, by decide⟩, by decide, by decide, by decide, fun j0 j1 hst => ?_⟩, trivial, nofun, fun j0 es hst => nomatch hst⟩
  cases hst
  exact ⟨nofun, nofun⟩

theorem reset_capacities : capacities State.reset where
  queue := by decide
  lists _ := Nat.zero_le 32
  keys := rfl
  fixtures := rfl
  passes := rfl
  memberships := ⟨rfl, fun _ _ hst _ hf => by cases hst; cases hf⟩
  placement := ⟨by decide, by decide, List.nodup_nil, by decide, fun _ _ _ hst => nomatch hst⟩
  sub := by decide
  counts := countsBounded_none
  members := (reset_tables (s := State.reset) rfl rfl).1
  zones := (reset_tables (s := State.reset) rfl rfl).2

theorem reset_refundsSound : refundsSound State.reset where
  places := rfl
  queue := queueHolds_of_refunds_nil rfl
  quiet := ⟨fun _ => ⟨rfl, rfl, rfl, fun e he => absurd he (not_inUse_replicate 32 e), fun p hp => absurd hp (not_inUse_replicate 4 p)⟩,
    fun _ => nofun⟩

theorem reset_placementSound : PlacementSound State.reset :=
  ⟨fun _ => ⟨rfl, rfl, rfl, rfl, rfl, rfl⟩, nofun, nofun, fun _ => rfl⟩

/-- Settles O12: every table is free, the queues are empty and no request is in flight after power-on reset. -/
theorem resetMeetsEveryCondition : Obligations.ResetMeetsEveryCondition := by
  obtain ⟨hcredit, hnumbered⟩ := (creditSound_iff State.reset).mpr reset_ledger
  exact ⟨hcredit, hnumbered, (capacity_iff State.reset).mpr reset_capacities, keyBankSound_of_free rfl, tablesKeyed_of_free rfl rfl,
    (refundQueueSound_iff State.reset).mpr reset_refundsSound, fun e he => absurd he (not_inUse_replicate 32 e), reset_placementSound, nofun, nofun,
    List.nodup_nil, nofun⟩

end Sys2Proof.Machine

/-! Proofs: the taking of a request (R142 to R147, R8, R9): what is presented, and what joins the class list. -/

namespace Sys2Proof.Machine

open Sys2Proof.Safety

set_option Elab.async false

/-! ### Where the bytes of a request lie (R8, R142) -/

theorem cellByte_eq_some {rs : List Region} {p : Region → Bool} {a : Addr} {i r n off : Nat} :
    cellByte rs p a i = some (r, n, off) ↔ ∃ g, locate rs (addrAt a i) = some (r, g) ∧ g.kind = .cellRing ∧ p g = true ∧
      n = (addrAt a i - g.base.toNat) / 128 ∧ off = (addrAt a i - g.base.toNat) % 128 := by
  unfold cellByte
  constructor
  · intro h
    split at h
    · rename_i k g hg
      obtain ⟨hring, h⟩ := of_ite_ne_else h nofun
      simp only [Option.some.injEq, Prod.mk.injEq] at h
      obtain ⟨rfl, rfl, rfl⟩ := h
      exact ⟨g, hg, hring.1, hring.2, rfl, rfl⟩
    · cases h
  · rintro ⟨g, hg, hkind, hp, rfl, rfl⟩
    simp [hg, hkind, hp]

theorem gatedAt_iff {s : State} {c : Cls} {a : Addr} {i k n off : Nat} :
    gatedAt s c a i k n off ↔ cellByte s.path.regions (fun g => inSet g.readers c) a i = some (k, n, off) ∧ 16 ≤ off := by
  rw [cellByte_eq_some]
  constructor
  · rintro ⟨g, hg, hkind, hreader, hn, hoff, h16⟩
    exact ⟨⟨g, hg, hkind, hreader, hn, hoff⟩, h16⟩
  · rintro ⟨⟨g, hg, hkind, hreader, hn, hoff⟩, h16⟩
    exact ⟨g, hg, hkind, hreader, hn, hoff, h16⟩

theorem mem_gatedBytes_iff {s : State} {c : Cls} {a : Addr} {len i k n off : Nat} :
    (i, k, n, off) ∈ gatedBytes s.path.regions c a len ↔ i < len ∧ gatedAt s c a i k n off := by
  simp only [gatedBytes, List.mem_filterMap, List.mem_range, gatedAt_iff]
  constructor
  · rintro ⟨j, hj, h⟩
    split at h
    · rename_i r m o hbyte
      obtain ⟨h16, h⟩ := of_ite_ne_else h nofun
      simp only [Option.some.injEq, Prod.mk.injEq] at h
      obtain ⟨rfl, rfl, rfl, rfl⟩ := h
      exact ⟨hj, hbyte, h16⟩
    · cases h
  · rintro ⟨hi, hbyte, h16⟩
    exact ⟨i, hi, by simp [hbyte, h16]⟩

theorem gatedBytes_eq_nil_iff (s : State) (c : Cls) (a : Addr) (len : Nat) :
    gatedBytes s.path.regions c a len = [] ↔ ∀ i k n off, i < len → ¬ gatedAt s c a i k n off := by
  rw [List.eq_nil_iff_forall_not_mem]
  exact ⟨fun h i k n off hi hg => h _ (mem_gatedBytes_iff.mpr ⟨hi, hg⟩), fun h x hx => h _ _ _ _ (mem_gatedBytes_iff.mp hx).1 (mem_gatedBytes_iff.mp hx).2⟩

/-! ### Joining the class list (R144) -/

/-- The request that a taking adds to the list of its class. -/
def newInflight (s : State) (c : Cls) (req : Request) (parts : List Part) (answer : Option Answer) : Inflight :=
  { id := s.path.nextId, cls := c, req := req, parts := parts, answer := answer }

theorem State.takeOn_inflight (s : State) (c : Cls) (req : Request) (parts : List Part) (answer : Option Answer) :
    (s.takeOn c req parts answer).path.inflight = s.path.inflight ++ [newInflight s c req parts answer] := rfl

theorem State.takeOn_classList (s : State) (c c' : Cls) (req : Request) (parts : List Part) (answer : Option Answer) :
    (s.takeOn c req parts answer).classList c' = s.classList c' ++ (if c = c' then [newInflight s c req parts answer] else []) := by
  unfold State.classList
  rw [State.takeOn_inflight, List.filter_append]
  congr 1
  by_cases hc : c = c' <;> simp [newInflight, hc]

/-- A request that joins its class list unanswered makes no answer ready (R145). -/
theorem State.takeOn_noReadyOldest {s : State} (h : NoReadyOldest s) (c : Cls) (req : Request) (parts : List Part) :
    NoReadyOldest (s.takeOn c req parts none) := by
  intro c' e he
  rw [State.takeOn_classList] at he
  cases hlist : s.classList c' with
  | nil =>
    rw [hlist] at he
    split at he
    · cases he
      rfl
    · cases he
  | cons x xs =>
    rw [hlist] at he
    cases he
    exact h c' e (by rw [hlist]; rfl)

/-! ### The placement unit is shown a request (R155) -/

theorem State.armWatch_of_reading {s : State} (h : reading s) (r : Request) : s.armWatch r = s := by
  obtain ⟨a, head, got, hst⟩ := h
  unfold State.armWatch
  rw [hst]

theorem State.armWatch_read {s : State} (h : ¬ reading s) (r : ReadReq) : s.armWatch (.read r) = s.setRun none := by
  unfold State.armWatch
  split
  · exact absurd ⟨_, _, _, ‹_›⟩ h
  · rfl

theorem State.showPlacement_of_stands {s : State} {c : Cls} (h : c ≠ .cpu ∨ reading s) (r : Request) : s.showPlacement c r = s := by
  unfold State.showPlacement
  split
  · rename_i hc
    exact State.armWatch_of_reading (h.resolve_left (Classical.not_not.mpr hc)) r
  · rename_i hc
    rfl

theorem State.showPlacement_read {s : State} {c : Cls} (hc : c = .cpu) (h : ¬ reading s) (r : ReadReq) : s.showPlacement c (.read r) = s.setRun none := by
  unfold State.showPlacement
  rw [if_pos hc, State.armWatch_read h]

/-! ### A read (R8, R9, R144) -/

/-- The request as it is presented, under its handled class (R143, R144). -/
def shownRead (r : ReadReq) : Request := .read { r with cls := handled r.cls }

/-- What a taken read presents together: itself, and the slate reads of parts settled at once (R11). -/
def State.readPresents (s : State) (r : ReadReq) : List Emission :=
  .forward s.path.nextId (handled r.cls) (shownRead r) :: s.slateReads s.path.nextId (s.gateParts (handled r.cls) r.addr r.len)

theorem State.takeRead_eq (s : State) (r : ReadReq) :
    s.takeRead (handled r.cls) r = State.presentTogether (s.readPresents r)
      (s.takeOn (handled r.cls) (shownRead r) (s.gateParts (handled r.cls) r.addr r.len) none) := rfl

theorem State.takeRead_noReadyOldest {s : State} (h : NoReadyOldest s) (r : ReadReq) : NoReadyOldest (s.takeRead (handled r.cls) r) := by
  rw [State.takeRead_eq]
  exact noReadyOldest_of_inflight (State.presentTogether_requestsStand _ _).1 (State.takeOn_noReadyOldest h _ _ _)

/-- A read that is taken returns no answer in its step (R145). -/
theorem State.takeRequest_read_eq {s : State} (h : NoReadyOldest s) {r : ReadReq} (hroom : roomFor (handled r.cls) s) :
    s.takeRequest (.read r) = (s.takeRead (handled r.cls) r).showPlacement (handled r.cls) (.read r) := by
  rw [State.takeRequest_read hroom]
  exact State.drain_of_noReady _ (noReadyOldest_of_inflight (State.showPlacement_requestsStand _ _ _).1 (State.takeRead_noReadyOldest h r))

theorem State.takeRead_reading {s : State} {r : ReadReq} : reading (s.takeRead (handled r.cls) r) ↔ reading s := by
  unfold reading
  rw [(s.takeRead_framed _ r).placement]

/-- A read without gated bytes: it is forwarded, and joins its class list without parts. -/
theorem State.takeRead_ungated {s : State} {r : ReadReq} (hgated : gatedBytes s.path.regions (handled r.cls) r.addr r.len = []) :
    s.takeRead (handled r.cls) r = { s with
      emitted := s.emitted ++ [.forward s.path.nextId (handled r.cls) (shownRead r)]
      path := { s.path with
        inflight := s.path.inflight ++ [newInflight s (handled r.cls) (shownRead r) [] none]
        nextId := s.path.nextId + 1 } } := by
  have hparts : s.gateParts (handled r.cls) r.addr r.len = [] := by simp [State.gateParts, hgated, groupParts]
  rw [State.takeRead_eq]
  unfold State.readPresents
  rw [hparts]
  simp [State.slateReads, State.presentTogether, State.present, State.takeOn, newInflight, ownOf]

theorem State.showPlacement_read_cases (s : State) (c : Cls) (r : ReadReq) :
    s.showPlacement c (.read r) = { s with placement := (s.showPlacement c (.read r)).placement } ∧
      (c ≠ .cpu ∨ reading s → (s.showPlacement c (.read r)).placement = s.placement) ∧
      (c = .cpu ∧ ¬ reading s → (s.showPlacement c (.read r)).placement = { s.placement with run := none }) := by
  by_cases h : c ≠ .cpu ∨ reading s
  · rw [State.showPlacement_of_stands h]
    exact ⟨rfl, fun _ => rfl, fun hcpu => absurd h (by simp [hcpu.1, hcpu.2])⟩
  · obtain ⟨hc, hr⟩ : c = .cpu ∧ ¬ reading s := by simpa using h
    rw [State.showPlacement_read hc hr]
    exact ⟨rfl, fun h' => absurd h' h, fun _ => rfl⟩

/-- Settles O15: a full class list leaves the state as it is; a read without gated bytes is one emission and one request in flight. -/
theorem requestsWaitOrAreForwardedWhole : Obligations.RequestsWaitOrAreForwardedWhole := by
  refine ⟨⟨rfl, fun c hc => by cases c <;> first | rfl | exact absurd rfl hc⟩, fun _ _ => rfl, gatedBytes_eq_nil_iff, fun s r w q cmd => ?_⟩
  refine ⟨fun hfull => ?_, fun hfull => ?_, fun hfull => ?_, fun hcmd hroom hready hgated => ?_⟩
  · have hsame := State.takeRequest_full (r := .read r) hfull
    exact ⟨congrArg Host.Outcome.next hsame, congrArg Host.Outcome.next hsame⟩
  · have hsame := congrArg (fun t => (Host.Outcome.next t : Host.Outcome State Fault Refusal)) (State.takeRequest_full (r := .write w) hfull)
    exact ⟨hsame, hsame, hsame, hsame, hsame⟩
  · exact congrArg Host.Outcome.next (State.takeRequest_full hfull)
  · refine ⟨_, exec_carriesRead hcmd s, ?_⟩
    obtain ⟨heq, hstands, hbroken⟩ := (s.takeRead (handled r.cls) r).showPlacement_read_cases (handled r.cls) r
    rw [State.takeRead_reading, (s.takeRead_framed _ r).placement] at hstands hbroken
    rw [State.takeRequest_read_eq hready hroom]
    refine ⟨?_, hstands, hbroken⟩
    rw [heq, State.takeRead_ungated hgated]
    rfl

end Sys2Proof.Machine

/-! Proofs: the parts of a gated read (R8, R9, R11, R23). -/

namespace Sys2Proof.Machine

open Sys2Proof.Safety

set_option Elab.async false

/-! ### The region of a byte (R146) -/

theorem Region.contains_iff (g : Region) (a : Nat) : g.contains a = true ↔ g.base.toNat ≤ a ∧ a < g.base.toNat + g.size := by simp [Region.contains]

theorem locateFrom_some {rs : List Region} {a r : Nat} {g : Region} : ∀ {i : Nat}, locateFrom i rs a = some (r, g) → ∃ j, r = i + j ∧ rs[j]? = some g ∧ g.contains a = true := by
  induction rs with
  | nil => exact fun h => nomatch h
  | cons x xs ih =>
    intro i h
    unfold locateFrom at h
    split at h
    · rename_i hx
      cases h
      exact ⟨0, rfl, rfl, hx⟩
    · obtain ⟨j, hj, hget, hg⟩ := ih h
      exact ⟨j + 1, by omega, by simpa using hget, hg⟩

theorem locate_some {rs : List Region} {a r : Nat} {g : Region} (h : locate rs a = some (r, g)) :
    rs[r]? = some g ∧ g.base.toNat ≤ a ∧ a < g.base.toNat + g.size := by
  obtain ⟨j, rfl, hget, hg⟩ := locateFrom_some h
  rw [Nat.zero_add]
  exact ⟨hget, (g.contains_iff a).mp hg⟩

theorem locateFrom_of_disjoint {rs : List Region} (h : rs.Pairwise (fun x y => x.base.toNat + x.size ≤ y.base.toNat ∨ y.base.toNat + y.size ≤ x.base.toNat))
    {a j : Nat} {g : Region} : ∀ {i : Nat}, rs[j]? = some g → g.contains a = true → locateFrom i rs a = some (i + j, g) := by
  induction rs generalizing j with
  | nil => exact fun hget _ => nomatch hget
  | cons x xs ih =>
    intro i hget hg
    obtain ⟨hx, hxs⟩ := List.pairwise_cons.mp h
    unfold locateFrom
    cases j with
    | zero =>
      cases hget
      rw [if_pos hg]
      rfl
    | succ j =>
      have hget' : xs[j]? = some g := by simpa using hget
      have hout : ¬ x.contains a = true := fun hin => by
        have hdisjoint := hx g (List.mem_of_getElem? hget')
        rw [Region.contains_iff] at hin hg
        omega
      rw [if_neg hout, ih hxs hget' hg, Nat.add_right_comm]
      rfl

/-- On a sound map a byte lies in the one region that spans its address (R146). -/
theorem locate_iff {rs : List Region} (h : mapSound rs) (a r : Nat) (g : Region) :
    locate rs a = some (r, g) ↔ rs[r]? = some g ∧ g.base.toNat ≤ a ∧ a < g.base.toNat + g.size := by
  refine ⟨locate_some, fun ⟨hget, hspan⟩ => ?_⟩
  have hfound := locateFrom_of_disjoint h.2 (i := 0) hget ((g.contains_iff a).mpr hspan)
  rwa [Nat.zero_add] at hfound

/-! ### The bytes that one slot supplies -/

/-- Between two payload bytes of one slot lie only payload bytes of that slot: a read is shorter than the address space is wide (R8, R142). -/
theorem gatedAt_between {s : State} {c : Cls} {a : Addr} (h : mapSound s.path.regions) {i j k n o o' : Nat} (hi : gatedAt s c a i k n o)
    (hj : gatedAt s c a j k n o') (hij : i ≤ j) (hshort : j ≤ 128) :
    o' = o + (j - i) ∧ ∀ m, i ≤ m → m ≤ j → gatedAt s c a m k n (o + (m - i)) := by
  obtain ⟨g, hg, hkind, hreader, hn, ho, h16⟩ := hi
  obtain ⟨g', hg', -, -, hn', ho', -⟩ := hj
  rw [locate_iff h] at hg hg'
  obtain ⟨hget, hlow, hhigh⟩ := hg
  obtain ⟨hget', hlow', hhigh'⟩ := hg'
  obtain rfl : g = g' := by simpa [hget] using hget'
  have hspan := (h.1 g (List.mem_of_getElem? hget)).2.2.2
  have ha := a.isLt
  unfold addrAt at *
  refine ⟨by omega, fun m hm hm' => ⟨g, (locate_iff h _ _ _).mpr ⟨hget, ?_, ?_⟩, hkind, hreader, ?_, ?_, by omega⟩⟩ <;> unfold addrAt <;> omega

/-! ### Grouping into parts -/

/-- A gated byte: its index in the read, and its ring, slot and offset. -/
abbrev GatedByte := Nat × Nat × Nat × Nat

/-- Bytes in the order of the read; two of one slot are joined by all the bytes between them. -/
structure slotRuns (xs : List GatedByte) : Prop where
  sorted : xs.Pairwise (fun x y => x.1 < y.1)
  joined : ∀ i j k n o o', (i, k, n, o) ∈ xs → (j, k, n, o') ∈ xs → i ≤ j → o' = o + (j - i) ∧ ∀ m, i ≤ m → m ≤ j → (m, k, n, o + (m - i)) ∈ xs

theorem slotRuns.tail {x : GatedByte} {xs : List GatedByte} (h : slotRuns (x :: xs)) : slotRuns xs := by
  obtain ⟨hfirst, hsorted⟩ := List.pairwise_cons.mp h.sorted
  refine ⟨hsorted, fun i j k n o o' hi hj hij => ?_⟩
  obtain ⟨ho, hbetween⟩ := h.joined i j k n o o' (List.mem_cons_of_mem _ hi) (List.mem_cons_of_mem _ hj) hij
  refine ⟨ho, fun m hm hm' => ?_⟩
  rcases List.mem_cons.mp (hbetween m hm hm') with heq | hmem
  · have hlt := hfirst _ hi
    rw [← heq] at hlt
    exact absurd hlt (by show ¬ m < i; omega)
  · exact hmem

/-- The part of a single byte. -/
def bytePart (i r n o : Nat) : Part := { region := r, slot := n, start := i, offset := o, len := 1, serving := .raw }

/-- A part that takes the byte before its first one. -/
def Part.extend (p : Part) (i o : Nat) : Part := { p with start := i, offset := o, len := p.len + 1 }

theorem groupParts_cons_nil {i r n o : Nat} {xs : List GatedByte} (h : groupParts xs = []) : groupParts ((i, r, n, o) :: xs) = [bytePart i r n o] := by
  rw [groupParts, h]
  rfl

theorem groupParts_cons_same {i r n o : Nat} {xs : List GatedByte} {p : Part} {ps : List Part} (h : groupParts xs = p :: ps) (hsame : p.region = r ∧ p.slot = n) :
    groupParts ((i, r, n, o) :: xs) = p.extend i o :: ps := by
  rw [groupParts, h]
  simp only [if_pos hsame]
  rfl

theorem groupParts_cons_other {i r n o : Nat} {xs : List GatedByte} {p : Part} {ps : List Part} (h : groupParts xs = p :: ps)
    (hother : ¬ (p.region = r ∧ p.slot = n)) : groupParts ((i, r, n, o) :: xs) = bytePart i r n o :: p :: ps := by
  rw [groupParts, h]
  simp only [if_neg hother]
  rfl

/-- The first part begins at the first byte. -/
theorem groupParts_head (i r n o : Nat) (xs : List GatedByte) :
    ∃ p ps, groupParts ((i, r, n, o) :: xs) = p :: ps ∧ p.start = i ∧ p.region = r ∧ p.slot = n ∧ p.offset = o := by
  cases h : groupParts xs with
  | nil => exact ⟨_, _, groupParts_cons_nil h, rfl, rfl, rfl, rfl⟩
  | cons p ps =>
    by_cases hsame : p.region = r ∧ p.slot = n
    · exact ⟨_, _, groupParts_cons_same h hsame, rfl, hsame.1, hsame.2, rfl⟩
    · exact ⟨_, _, groupParts_cons_other h hsame, rfl, rfl, rfl, rfl⟩

theorem groupParts_eq_nil {xs : List GatedByte} (h : groupParts xs = []) : xs = [] := by
  cases xs with
  | nil => rfl
  | cons x xs =>
    obtain ⟨i, r, n, o⟩ := x
    obtain ⟨p, ps, hcons, -⟩ := groupParts_head i r n o xs
    rw [hcons] at h
    cases h

/-- Each part begins at one of the bytes, and stands for a slot of one of them. -/
theorem groupParts_start (xs : List GatedByte) : ∀ p ∈ groupParts xs, (p.start, p.region, p.slot, p.offset) ∈ xs := by
  induction xs with
  | nil => exact fun p hp => nomatch hp
  | cons x xs ih =>
    obtain ⟨i, r, n, o⟩ := x
    intro p hp
    cases h : groupParts xs with
    | nil =>
      rw [groupParts_cons_nil h] at hp
      rw [List.mem_singleton.mp hp]
      exact List.mem_cons_self
    | cons q qs =>
      rw [h] at ih
      by_cases hsame : q.region = r ∧ q.slot = n
      · rw [groupParts_cons_same h hsame] at hp
        rcases List.mem_cons.mp hp with rfl | hp
        · obtain ⟨rfl, rfl⟩ := hsame
          exact List.mem_cons_self
        · exact List.mem_cons_of_mem _ (ih p (List.mem_cons_of_mem _ hp))
      · rw [groupParts_cons_other h hsame] at hp
        rcases List.mem_cons.mp hp with rfl | hp
        · exact List.mem_cons_self
        · exact List.mem_cons_of_mem _ (ih p hp)

/-- Each byte's slot has a part. -/
theorem groupParts_slot (xs : List GatedByte) : ∀ i k n o, (i, k, n, o) ∈ xs → ∃ p ∈ groupParts xs, p.region = k ∧ p.slot = n := by
  induction xs with
  | nil => exact fun _ _ _ _ h => nomatch h
  | cons x xs ih =>
    obtain ⟨i, r, n, o⟩ := x
    intro j k m o' hj
    rcases List.mem_cons.mp hj with heq | hj
    · obtain ⟨p, ps, hcons, -, hr, hn, -⟩ := groupParts_head i r n o xs
      cases heq
      exact ⟨p, by rw [hcons]; exact List.mem_cons_self, hr, hn⟩
    · obtain ⟨p, hp, hpart⟩ := ih j k m o' hj
      cases h : groupParts xs with
      | nil =>
        rw [h] at hp
        cases hp
      | cons q qs =>
        rw [h] at hp
        by_cases hsame : q.region = r ∧ q.slot = n
        · rw [groupParts_cons_same h hsame]
          rcases List.mem_cons.mp hp with rfl | hp
          · exact ⟨_, List.mem_cons_self, hpart⟩
          · exact ⟨p, List.mem_cons_of_mem _ hp, hpart⟩
        · rw [groupParts_cons_other h hsame]
          exact ⟨p, List.mem_cons_of_mem _ hp, hpart⟩

/-- The parts of a list of bytes: each byte is covered at its offset, each part covers bytes of the list alone, and no two parts stand for one slot. -/
structure partsCover (xs : List GatedByte) (ps : List Part) : Prop where
  covered : ∀ i k n o, (i, k, n, o) ∈ xs → ∃ p ∈ ps, p.region = k ∧ p.slot = n ∧ p.start ≤ i ∧ i < p.start + p.len ∧ p.offset + (i - p.start) = o
  exact : ∀ p ∈ ps, ∀ i, p.start ≤ i → i < p.start + p.len → (i, p.region, p.slot, p.offset + (i - p.start)) ∈ xs
  distinct : ps.Pairwise (fun p q => ¬ (p.region = q.region ∧ p.slot = q.slot))

theorem bytePart_covers (i r n o j : Nat) (h : (bytePart i r n o).start ≤ j) (h' : j < (bytePart i r n o).start + (bytePart i r n o).len) : j = i := by
  have hi : i ≤ j := h
  have hj : j < i + 1 := h'
  omega

/-- The byte just before a part of its own slot joins it. -/
theorem partsCover.extend {i r n o : Nat} {xs : List GatedByte} {p : Part} {ps : List Part} (h : partsCover xs (p :: ps)) (hr : p.region = r) (hn : p.slot = n)
    (hstart : p.start = i + 1) (hoffset : p.offset = o + 1) : partsCover ((i, r, n, o) :: xs) (p.extend i o :: ps) where
  covered j k m o' hj := by
    rcases List.mem_cons.mp hj with heq | hj
    · cases heq
      refine ⟨_, List.mem_cons_self, hr, hn, Nat.le_refl _, ?_, ?_⟩
      · show i < i + (p.len + 1)
        omega
      · show o + (i - i) = o
        omega
    · obtain ⟨q, hq, hk, hm, hlow, hhigh, ho⟩ := h.covered j k m o' hj
      rcases List.mem_cons.mp hq with rfl | hq
      · refine ⟨_, List.mem_cons_self, hk, hm, ?_, ?_, ?_⟩
        · show i ≤ j
          omega
        · show j < i + (q.len + 1)
          omega
        · show o + (j - i) = o'
          omega
      · exact ⟨q, List.mem_cons_of_mem _ hq, hk, hm, hlow, hhigh, ho⟩
  exact q hq j hlow hhigh := by
    rcases List.mem_cons.mp hq with rfl | hq
    · change i ≤ j at hlow
      change j < i + (p.len + 1) at hhigh
      show (j, p.region, p.slot, o + (j - i)) ∈ (i, r, n, o) :: xs
      by_cases heq : j = i
      · rw [heq, Nat.sub_self, Nat.add_zero, hr, hn]
        exact List.mem_cons_self
      · have hmem := h.exact p List.mem_cons_self j (by omega) (by omega)
        rw [show o + (j - i) = p.offset + (j - p.start) by omega]
        exact List.mem_cons_of_mem _ hmem
    · exact List.mem_cons_of_mem _ (h.exact q (List.mem_cons_of_mem _ hq) j hlow hhigh)
  distinct := by
    obtain ⟨hfirst, hrest⟩ := List.pairwise_cons.mp h.distinct
    exact List.pairwise_cons.mpr ⟨hfirst, hrest⟩

/-- A byte of a slot that no part stands for begins a part. -/
theorem partsCover.begin {i r n o : Nat} {xs : List GatedByte} {ps : List Part} (h : partsCover xs ps) (hnew : ∀ p ∈ ps, ¬ (p.region = r ∧ p.slot = n)) :
    partsCover ((i, r, n, o) :: xs) (bytePart i r n o :: ps) where
  covered j k m o' hj := by
    rcases List.mem_cons.mp hj with heq | hj
    · cases heq
      refine ⟨_, List.mem_cons_self, rfl, rfl, Nat.le_refl _, Nat.lt_succ_self _, ?_⟩
      show o + (i - i) = o
      omega
    · obtain ⟨q, hq, hcover⟩ := h.covered j k m o' hj
      exact ⟨q, List.mem_cons_of_mem _ hq, hcover⟩
  exact q hq j hlow hhigh := by
    rcases List.mem_cons.mp hq with rfl | hq
    · rw [bytePart_covers i r n o j hlow hhigh]
      show (i, r, n, o + (i - i)) ∈ (i, r, n, o) :: xs
      rw [Nat.sub_self, Nat.add_zero]
      exact List.mem_cons_self
    · exact List.mem_cons_of_mem _ (h.exact q hq j hlow hhigh)
  distinct := List.pairwise_cons.mpr ⟨fun q hq hsame => hnew q hq ⟨hsame.1.symm, hsame.2.symm⟩, h.distinct⟩

/-- Where the first byte's slot supplies another byte, the next byte is of that slot too. -/
theorem slotRuns.next {i r n o j o' : Nat} {xs : List GatedByte} (h : slotRuns ((i, r, n, o) :: xs)) (hj : (j, r, n, o') ∈ xs) :
    ∃ rest, xs = (i + 1, r, n, o + 1) :: rest := by
  obtain ⟨hfirst, hsorted⟩ := List.pairwise_cons.mp h.sorted
  have hij : i < j := hfirst _ hj
  obtain ⟨-, hbetween⟩ := h.joined i j r n o o' List.mem_cons_self (List.mem_cons_of_mem _ hj) (Nat.le_of_lt hij)
  have hnext := hbetween (i + 1) (Nat.le_succ i) hij
  rw [Nat.add_sub_cancel_left] at hnext
  rcases List.mem_cons.mp hnext with heq | hnext
  · exact absurd (congrArg Prod.fst heq) (by simp)
  · cases xs with
    | nil => cases hnext
    | cons x rest =>
      rcases List.mem_cons.mp hnext with heq | hrest
      · exact ⟨rest, by rw [heq]⟩
      · have hlow : i < x.1 := hfirst x List.mem_cons_self
        have hhigh : x.1 < i + 1 := (List.pairwise_cons.mp hsorted).1 _ hrest
        omega

theorem groupParts_cover {xs : List GatedByte} (h : slotRuns xs) : partsCover xs (groupParts xs) := by
  induction xs with
  | nil => exact ⟨fun _ _ _ _ hm => absurd hm List.not_mem_nil, fun p hp => absurd hp List.not_mem_nil, List.Pairwise.nil⟩
  | cons x xs ih =>
    obtain ⟨i, r, n, o⟩ := x
    have hcover := ih h.tail
    cases hparts : groupParts xs with
    | nil =>
      rw [groupParts_cons_nil hparts]
      rw [hparts] at hcover
      exact hcover.begin (fun p hp => nomatch hp)
    | cons p ps =>
      have hstart := groupParts_start xs
      rw [hparts] at hcover hstart
      by_cases hsame : p.region = r ∧ p.slot = n
      · rw [groupParts_cons_same hparts hsame]
        obtain ⟨rest, rfl⟩ := h.next (hsame.1 ▸ hsame.2 ▸ hstart p List.mem_cons_self)
        obtain ⟨q, qs, hq, hqs, -, -, hqo⟩ := groupParts_head (i + 1) r n (o + 1) rest
        rw [hparts] at hq
        cases hq
        exact hcover.extend hsame.1 hsame.2 hqs hqo
      · rw [groupParts_cons_other hparts hsame]
        refine hcover.begin (fun q hq hslot => ?_)
        obtain ⟨rest, rfl⟩ := h.next (hslot.1 ▸ hslot.2 ▸ hstart q hq)
        obtain ⟨q', qs, hq', -, hr, hn, -⟩ := groupParts_head (i + 1) r n (o + 1) rest
        rw [hparts] at hq'
        cases hq'
        exact hsame ⟨hr, hn⟩

/-! ### The parts of a read -/

theorem gatedBytes_sorted (rs : List Region) (c : Cls) (a : Addr) (len : Nat) : (gatedBytes rs c a len).Pairwise (fun x y => x.1 < y.1) := by
  unfold gatedBytes
  refine List.Pairwise.filterMap _ (fun i j hij x hx y hy => ?_) List.pairwise_lt_range
  have hfirst : ∀ (i : Nat) (x : GatedByte), (match cellByte rs (fun g => inSet g.readers c) a i with
      | some (r, n, o) => if 16 ≤ o then some (i, r, n, o) else none
      | none => none) = some x → x.1 = i := by
    intro i x hx
    split at hx
    · obtain ⟨-, hx⟩ := of_ite_ne_else hx nofun
      cases hx
      rfl
    · cases hx
  rw [hfirst i x hx, hfirst j y hy]
  exact hij

theorem gatedBytes_runs {s : State} (h : mapSound s.path.regions) (c : Cls) (a : Addr) {len : Nat} (hlen : len ≤ 128) :
    slotRuns (gatedBytes s.path.regions c a len) where
  sorted := gatedBytes_sorted _ c a len
  joined i j k n o o' hi hj hij := by
    rw [mem_gatedBytes_iff] at hi hj
    obtain ⟨ho, hbetween⟩ := gatedAt_between h hi.2 hj.2 hij (by omega)
    exact ⟨ho, fun m hm hm' => mem_gatedBytes_iff.mpr ⟨by omega, hbetween m hm hm'⟩⟩

/-- Table 1-9 as the model reads it. -/
theorem servingAt_table19 (st : Option SlotState) : table19 st (servingAt st) := by
  rcases st with _ | st
  · trivial
  · cases st with
    | program h v => cases v <;> rfl
    | _ => rfl

theorem State.mem_gateParts {s : State} {c : Cls} {a : Addr} {len : Nat} {p : Part} (h : p ∈ s.gateParts c a len) :
    p.serving = servingAt (s.slotAt p.region p.slot) ∧ gatedAt s c a p.start p.region p.slot p.offset := by
  obtain ⟨q, hq, rfl⟩ := List.mem_map.mp h
  exact ⟨rfl, (mem_gatedBytes_iff.mp (groupParts_start _ q hq)).2⟩

theorem State.gateParts_cover {s : State} (h : mapSound s.path.regions) (c : Cls) (a : Addr) {len : Nat} (hlen : len ≤ 128) :
    partsCover (gatedBytes s.path.regions c a len) (s.gateParts c a len) := by
  have hcover := groupParts_cover (gatedBytes_runs h c a hlen)
  refine ⟨fun i k n o hmem => ?_, fun p hp => ?_, ?_⟩
  · obtain ⟨p, hp, hcovered⟩ := hcover.covered i k n o hmem
    exact ⟨_, List.mem_map_of_mem hp, hcovered⟩
  · obtain ⟨q, hq, rfl⟩ := List.mem_map.mp hp
    exact hcover.exact q hq
  · exact List.pairwise_map.mpr hcover.distinct

theorem State.slateReads_mem (s : State) (id : Nat) {ps : List Part} {p : Part} (hp : p ∈ ps) {k : Fin 8} (hk : p.serving = .slate k none) :
    slateReadFor s id p k.val ∈ s.slateReads id ps :=
  List.mem_filterMap.mpr ⟨p, hp, by rw [hk]; rfl⟩

/-! ### The step of a gated read -/

theorem State.takeOn_changesOnly (s : State) (c : Cls) (req : Request) (parts : List Part) (answer : Option Answer) :
    changesOnly [.path] s (s.takeOn c req parts answer) := by
  intro b hb; cases b <;> first | rfl | simp at hb

theorem State.showPlacement_changesOnly (s : State) (c : Cls) (r : Request) : changesOnly [.placement, .emitted, .path] s (s.showPlacement c r) :=
  changesOnly_ite (fun _ => s.armWatch_frame r) (fun _ => changesOnly_refl _ _)

/-- Settles O16: the parts are the runs of the gated bytes of one slot, and the slate reads are presented with the read. -/
theorem gatedReadIsServedBySlotState : Obligations.GatedReadIsServedBySlotState := by
  refine ⟨fun s g hg => by simp [State.slateBase, hg], fun s r cmd hcmd hroom hready => ?_⟩
  obtain ⟨issued, hperm, hemitted, hown, hregions, hinflight, hnext, hframe⟩ := State.presentTogether_spec
    (s.takeOn (handled r.cls) (shownRead r) (s.gateParts (handled r.cls) r.addr r.len) none) (s.readPresents r)
  rw [← State.takeRead_eq] at hemitted hown hregions hinflight hnext hframe
  obtain ⟨heq, -⟩ := (s.takeRead (handled r.cls) r).showPlacement_read_cases (handled r.cls) r
  have hmem : ∀ x ∈ s.readPresents r, x ∈ issued := fun x hx => hperm.mem_iff.mpr hx
  refine ⟨_, newInflight s (handled r.cls) (shownRead r) (s.gateParts (handled r.cls) r.addr r.len) none, issued, exec_carriesRead hcmd s, ?_⟩
  rw [State.takeRequest_read_eq hready hroom]
  refine ⟨?_, ?_, ?_, ?_, rfl, rfl, rfl, rfl, fun p hp => ?_, ?_, hperm, fun p hp k hk => hmem _ (List.mem_cons_of_mem _ (s.slateReads_mem _ hp hk)),
    fun i k n off hi hgated => ?_, fun hwf hmap => ?_⟩
  · exact changesOnly_trans (changesOnly_mono (State.takeOn_changesOnly _ _ _ _ _) (by simp)) (changesOnly_trans (changesOnly_mono hframe (by simp))
      (changesOnly_mono (State.showPlacement_changesOnly _ _ _) (by simp)))
  · rw [heq]
    exact hregions
  · rw [heq]
    exact hnext
  · rw [heq]
    exact hinflight
  · obtain ⟨hserving, g, hg, hkind, hreader, -, -, h16⟩ := State.mem_gateParts hp
    refine ⟨?_, h16, g, (locate_some hg).1, hkind, hreader⟩
    rw [hserving]
    exact servingAt_table19 _
  · rw [heq]
    exact ⟨hemitted, hown⟩
  · obtain ⟨p, hp, hpart⟩ := groupParts_slot _ i k n off (mem_gatedBytes_iff.mpr ⟨hi, hgated⟩)
    exact ⟨_, List.mem_map_of_mem hp, hpart⟩
  · have hlen : r.len ≤ 128 := by
      simp only [ReadReq.wf, lengthOk, Bool.and_eq_true, decide_eq_true_eq] at hwf
      omega
    have hcover := State.gateParts_cover hmap (handled r.cls) r.addr hlen
    exact ⟨fun i k n off hi hgated => hcover.covered i k n off (mem_gatedBytes_iff.mpr ⟨hi, hgated⟩),
      fun p hp i hlow hhigh => mem_gatedBytes_iff.mp (hcover.exact p hp i hlow hhigh), hcover.distinct⟩

end Sys2Proof.Machine

/-! Proofs: the masking of a write, what it presents, and SHIELD_HIT (R144, R146, R147, R149, R169). -/

namespace Sys2Proof.Machine

open Sys2Proof.Safety

set_option Elab.async false

/-! ### Masking (R146, R147, Table 9-1) -/

theorem inSet_iff (set : BitVec 8) (c : Cls) :
    inSet set c = true ↔ set.toNat / 2 ^ [Cls.cpu, .transport, .video, .audio, .display, .periph, .spare, .internal].idxOf c % 2 = 1 := by
  have hcode : [Cls.cpu, .transport, .video, .audio, .display, .periph, .spare, .internal].idxOf c = classCode c := by cases c <;> decide
  rw [hcode, inSet, BitVec.getLsbD, Nat.testBit_eq_decide_div_mod_eq, decide_eq_true_eq]

theorem keptIn_iff (g : Region) (off : Nat) (c : Cls) : keptIn g off c = true ↔ table91 g off c := by
  unfold keptIn table91
  rw [Bool.and_eq_true]
  cases g.kind with
  | cellRing | slate | shielded => simp
  | orderRing => simp [Nat.lt_succ_iff]
  | reportRing => simp [Nat.lt_succ_iff]

theorem byteKept_iff (s : State) (c : Cls) (a : Addr) (i : Nat) : byteKept s.path.regions c a i = true ↔ kept91 s c a i := by
  unfold byteKept kept91
  rcases locate s.path.regions (addrAt a i) with _ | ⟨k, g⟩
  · exact ⟨fun _ => trivial, fun _ => rfl⟩
  · exact keptIn_iff g _ c

theorem keptEnables_true_iff (rs : List Region) (c : Cls) (w : WriteReq) (i : Nat) :
    (keptEnables rs c w)[i]? = some true ↔ w.enables[i]? = some true ∧ byteKept rs c w.addr i = true := by
  rw [keptEnables, List.getElem?_mapIdx]
  cases w.enables[i]? with
  | none => simp
  | some e => cases e <;> simp

theorem keptEnables_getElem? (s : State) (c : Cls) (w : WriteReq) (i : Nat) :
    (keptEnables s.path.regions c w)[i]? = some true ↔ w.enables[i]? = some true ∧ kept91 s c w.addr i := by
  rw [keptEnables_true_iff, byteKept_iff]

theorem mem_lostAddrs_iff (s : State) (c : Cls) (w : WriteReq) (a : Nat) :
    a ∈ lostAddrs s.path.regions c w ↔ ∃ i, w.enables[i]? = some true ∧ ¬ kept91 s c w.addr i ∧ a = addrAt w.addr i := by
  simp only [lostAddrs, List.mem_filterMap, List.mem_range, ← byteKept_iff]
  constructor
  · rintro ⟨i, hi, h⟩
    obtain ⟨hlost, h⟩ := of_ite_ne_else h nofun
    cases h
    obtain ⟨henabled, hmasked⟩ : w.enables.getD i false = true ∧ byteKept s.path.regions c w.addr i = false := by simpa using hlost
    exact ⟨i, by rw [List.getElem?_eq_getElem hi]; simpa [List.getD_eq_getElem?_getD, hi] using henabled, by simp [hmasked], rfl⟩
  · rintro ⟨i, henabled, hmasked, rfl⟩
    have hi : i < w.enables.length := (List.getElem?_eq_some_iff.mp henabled).1
    exact ⟨i, hi, by simp [List.getD_eq_getElem?_getD, henabled, hmasked]⟩

/-! ### What a step puts on the pins -/

/-- Answers are returned, and nothing else leaves, in the drain (R145). -/
theorem drainList_answers (es : List Inflight) : ∀ blocked : List Cls, ∀ x ∈ (drainList blocked es).2, isAnswer x = true := by
  induction es with
  | nil => exact fun _ x hx => nomatch hx
  | cons e es ih =>
    intro blocked x hx
    unfold drainList at hx
    split at hx
    · exact ih _ x hx
    · rcases List.mem_cons.mp hx with rfl | hx
      · rfl
      · exact ih _ x hx

theorem ownOf_of_answer {x : Emission} (h : isAnswer x = true) : ownOf x = none := by
  cases x <;> first | rfl | cases h

theorem State.drain_presents (s : State) : presentedAs (drainList [] s.path.inflight).2 s s.drain := by
  refine ⟨rfl, ?_⟩
  rw [List.filterMap_eq_nil_iff.mpr (fun x hx => ownOf_of_answer (drainList_answers _ _ x hx)), List.append_nil]
  rfl

theorem State.completeArming_presents (s : State) (a : Addr) :
    ∃ issued, (∀ x ∈ issued, isUnitRequest x = true) ∧ presentedAs issued s (s.completeArming a) := by
  unfold State.completeArming
  simp only []
  split
  · exact ⟨[.own (.headRead (a + 16))], by simp [isUnitRequest], rfl, rfl⟩
  · exact ⟨[_], fun x hx => by rw [List.mem_singleton.mp hx]; rfl, rfl, rfl⟩
  · exact ⟨[], fun x hx => (nomatch hx), by simp, by simp⟩

/-- The placement unit presents own requests alone (R156). -/
theorem State.armWatch_presents (s : State) (r : Request) : ∃ issued, (∀ x ∈ issued, isUnitRequest x = true) ∧ presentedAs issued s (s.armWatch r) := by
  have hsame : ∀ t : State, t.emitted = s.emitted → t.path.own = s.path.own →
      ∃ issued, (∀ x ∈ issued, isUnitRequest x = true) ∧ presentedAs issued s t :=
    fun t he ho => ⟨[], fun x hx => (nomatch hx), by simp [he], by simp [ho]⟩
  unfold State.armWatch State.startRun
  split
  · exact hsame _ rfl rfl
  · split
    · exact hsame _ rfl rfl
    · split
      · split
        · split
          · split
            · exact s.completeArming_presents _
            · exact hsame _ rfl rfl
          · exact hsame _ rfl rfl
        · exact hsame _ rfl rfl
      · exact hsame _ rfl rfl

theorem State.showPlacement_presents (s : State) (c : Cls) (r : Request) :
    ∃ issued, (∀ x ∈ issued, isUnitRequest x = true) ∧ presentedAs issued s (s.showPlacement c r) := by
  unfold State.showPlacement
  split
  · exact s.armWatch_presents r
  · exact ⟨[], fun x hx => (nomatch hx), presentedAs_refl s⟩

/-! ### The step of a write -/

/-- The request as it is presented: under its handled class, with its masked enables (R143, R144, R147). -/
def shownWrite (s : State) (w : WriteReq) : Request :=
  .write { w with cls := handled w.cls, enables := keptEnables s.path.regions (handled w.cls) w }

/-- An enable is left after masking (R147). -/
def anyKept (s : State) (w : WriteReq) : Bool := (keptEnables s.path.regions (handled w.cls) w).contains true

theorem State.writeShown_emitted (s : State) (c : Cls) (w : WriteReq) : (s.writeShown c w).emitted = s.emitted := by
  have htracked : ∀ touched whole, framed [.slots, .path, .engine, .keys, .conds] s (State.handOverWrite whole w.data (s.trackWrite touched whole w.data)) :=
    fun touched whole => (s.trackWrite_framed touched whole w.data).andThen (State.handOverWrite_framed _ whole w.data)
  unfold State.writeShown
  exact (((htracked _ _).andThen (cs := [.slots, .path, .engine, .keys, .conds, .orders, .reports]) (State.notices_framed _ c w _)).andThen
    (cs := [.slots, .path, .engine, .keys, .conds, .orders, .reports]) (State.bookShield_framed _ c _)).emitted

theorem State.takeWrite_presents (s : State) (c : Cls) (w : WriteReq) :
    ∃ issued, issued.Perm (s.writePresents c w) ∧ presentedAs issued s (s.takeWrite c w) := by
  obtain ⟨issued, hperm, hemitted, hown⟩ := State.presentTogether_presentedAs
    ((s.writeShown c w).takeOn c (.write { w with cls := c, enables := keptEnables s.path.regions c w }) [] (writeAnswer (keptEnables s.path.regions c w)))
    (s.writePresents c w)
  refine ⟨issued, hperm, ?_, ?_⟩
  · rw [State.takeWrite_eq, hemitted]
    exact congrArg (· ++ issued) (s.writeShown_emitted c w)
  · rw [State.takeWrite_eq, hown]
    have hkept := congrArg MemoryPath.own (s.writeShown_path c w)
    exact congrArg (· ++ issued.filterMap ownOf) hkept

/-- A taken write presents itself and its slate reads, then what the placement unit presents, and answers leave last (R144, R145). -/
theorem State.takeRequest_write_presents {s : State} {w : WriteReq} (hroom : roomFor (handled w.cls) s) :
    ∃ shown placed, shown.Perm (s.writePresents (handled w.cls) w) ∧ (∀ x ∈ placed, isUnitRequest x = true) ∧
      presentedAs (shown ++ placed ++ (drainList [] (s.takeWrite (handled w.cls) w).path.inflight).2) s (s.takeRequest (.write w)) := by
  obtain ⟨shown, hshown, hs⟩ := s.takeWrite_presents (handled w.cls) w
  obtain ⟨placed, hplaced, hp⟩ := (s.takeWrite (handled w.cls) w).showPlacement_presents (handled w.cls) (.write w)
  refine ⟨shown, placed, hshown, hplaced, ?_⟩
  rw [State.takeRequest_write hroom, ← (State.showPlacement_requestsStand (s.takeWrite (handled w.cls) w) (handled w.cls) (.write w)).1]
  exact presentedAs_trans (presentedAs_trans hs hp) (State.drain_presents _)

theorem State.mem_heldSlateReads {s : State} {slots : List (Nat × Nat)} {k : Fin 8} {x : Emission} (h : x ∈ s.heldSlateReads slots k) : isSlateRead x = true := by
  obtain ⟨e, -, he⟩ := List.mem_flatMap.mp h
  obtain ⟨p, -, rfl⟩ := List.mem_map.mp he
  rfl

theorem not_forward_of_slateRead {x : Emission} (h : isSlateRead x = true) : isForward x = false := by
  cases x <;> first | rfl | cases h

theorem not_forward_of_unitRequest {x : Emission} (h : isUnitRequest x = true) : isForward x = false := by
  cases x <;> first | rfl | cases h

theorem not_forward_of_answer {x : Emission} (h : isAnswer x = true) : isForward x = false := by
  cases x <;> first | rfl | cases h

/-- Of what a taken write presents, its own request is the only one forwarded. -/
theorem State.filter_forward_of_write {s : State} {w : WriteReq} {shown placed answers : List Emission} (hshown : shown.Perm (s.writePresents (handled w.cls) w))
    (hplaced : ∀ x ∈ placed, isUnitRequest x = true) (hanswers : ∀ x ∈ answers, isAnswer x = true) :
    (shown ++ placed ++ answers).filter isForward =
      if anyKept s w then [.forward s.path.nextId (handled w.cls) (shownWrite s w)] else [] := by
  have hnone : ∀ xs : List Emission, (∀ x ∈ xs, isForward x = false) → xs.filter isForward = [] := fun xs h =>
    List.filter_eq_nil_iff.mpr (fun x hx => by simp [h x hx])
  have hwrite : (s.writePresents (handled w.cls) w).filter isForward =
      if anyKept s w then [.forward s.path.nextId (handled w.cls) (shownWrite s w)] else [] := by
    unfold State.writePresents
    rw [List.filter_append, hnone _ (fun x hx => not_forward_of_slateRead (State.mem_heldSlateReads hx)), List.append_nil]
    unfold anyKept
    repeat' split
    all_goals rfl
  have hperm := hshown.filter isForward
  rw [hwrite] at hperm
  rw [List.filter_append, List.filter_append, hnone placed (fun x hx => not_forward_of_unitRequest (hplaced x hx)),
    hnone answers (fun x hx => not_forward_of_answer (hanswers x hx)), List.append_nil, List.append_nil]
  by_cases h : anyKept s w
  · rw [if_pos h] at hperm ⊢
    exact List.perm_singleton.mp hperm
  · rw [if_neg h] at hperm ⊢
    exact hperm.eq_nil

/-! ### The frame of a write -/

theorem State.setOrderProducer_changesOnly (s : State) (v : BitVec 32) : changesOnly [.orders, .conds] s (s.setOrderProducer v) := by
  have hview : ∀ o : OrderUnit, changesOnly [.orders, .conds] s { s with orders := o } := fun o b hb => by
    cases b <;> first | rfl | simp at hb
  unfold State.setOrderProducer
  split
  · split
    · exact changesOnly_mono (s.book_spec _ _).1 (by simp)
    · simp only []
      split
      · exact hview _
      · exact changesOnly_trans (hview _) (changesOnly_mono (State.wake_frame _) (by simp))
  · exact changesOnly_refl _ _

theorem State.setReportConsumer_changesOnly (s : State) (v : BitVec 32) : changesOnly [.reports, .conds] s (s.setReportConsumer v) := by
  unfold State.setReportConsumer
  split
  · split
    · exact changesOnly_mono (s.book_spec _ _).1 (by simp)
    · intro b hb
      cases b <;> first | rfl | simp at hb
  · exact changesOnly_refl _ _

theorem State.noticeOrder_changesOnly (s : State) (w : WriteReq) (kept : List Bool) : changesOnly [.orders, .conds] s (s.noticeOrder w kept) := by
  unfold State.noticeOrder
  split
  · split
    · exact s.setOrderProducer_changesOnly _
    · exact changesOnly_refl _ _
  · exact changesOnly_refl _ _

theorem State.noticeReport_changesOnly (s : State) (w : WriteReq) (kept : List Bool) : changesOnly [.reports, .conds] s (s.noticeReport w kept) := by
  unfold State.noticeReport
  split
  · split
    · exact s.setReportConsumer_changesOnly _
    · exact changesOnly_refl _ _
  · exact changesOnly_refl _ _

theorem State.notices_changesOnly (s : State) (c : Cls) (w : WriteReq) (kept : List Bool) : changesOnly [.orders, .reports, .conds] s (s.notices c w kept) :=
  changesOnly_ite (fun _ => changesOnly_trans (changesOnly_mono (s.noticeOrder_changesOnly w kept) (by simp))
    (changesOnly_mono (State.noticeReport_changesOnly _ w kept) (by simp))) (fun _ => changesOnly_refl _ _)

theorem State.bookShield_changesOnly (s : State) (c : Cls) (lost : List Nat) : changesOnly [.conds] s (s.bookShield c lost) := by
  unfold State.bookShield
  split
  · split
    · exact (s.book_spec _ _).1
    · exact changesOnly_refl _ _
  · exact changesOnly_refl _ _

theorem State.trackWrite_changesOnly (s : State) (touched : List (Nat × Nat)) (whole : Option (Nat × Nat)) (cell : List Byte) :
    changesOnly [.slots, .path] s (s.trackWrite touched whole cell) := by
  intro b hb; cases b <;> first | rfl | simp at hb

theorem State.handOverWrite_changesOnly (s : State) (whole : Option (Nat × Nat)) (cell : List Byte) :
    changesOnly [.engine, .keys, .conds] s (s.handOverWrite whole cell) :=
  changesOnly_ite (fun _ => s.handOver_frame cell) (fun _ => changesOnly_refl _ _)

/-- The blocks that the taking of a write may change. -/
def writeBlocks : List Block := [.path, .emitted, .slots, .engine, .keys, .orders, .reports, .placement, .conds]

theorem State.writeShown_changesOnly (s : State) (c : Cls) (w : WriteReq) : changesOnly writeBlocks s (s.writeShown c w) := by
  unfold State.writeShown
  have htracked := changesOnly_trans (changesOnly_mono (cs := writeBlocks) (s.trackWrite_changesOnly
    (touchedSlots s.path.regions w.addr (keptEnables s.path.regions c w)) (wholeCellSlot s.path.regions w.addr (keptEnables s.path.regions c w)) w.data)
    (by decide)) (changesOnly_mono (State.handOverWrite_changesOnly _ (wholeCellSlot s.path.regions w.addr (keptEnables s.path.regions c w)) w.data) (by decide))
  exact changesOnly_trans (changesOnly_trans htracked (changesOnly_mono (State.notices_changesOnly _ c w _) (by decide)))
    (changesOnly_mono (State.bookShield_changesOnly _ c _) (by decide))

theorem State.takeWrite_changesOnly (s : State) (c : Cls) (w : WriteReq) : changesOnly writeBlocks s (s.takeWrite c w) := by
  obtain ⟨_, -, -, -, -, -, -, hpresented⟩ := State.presentTogether_spec
    ((s.writeShown c w).takeOn c (.write { w with cls := c, enables := keptEnables s.path.regions c w }) [] (writeAnswer (keptEnables s.path.regions c w)))
    (s.writePresents c w)
  rw [State.takeWrite_eq]
  exact changesOnly_trans (changesOnly_trans (s.writeShown_changesOnly c w) (changesOnly_mono (State.takeOn_changesOnly _ _ _ _ _) (by decide)))
    (changesOnly_mono hpresented (by decide))

theorem State.takeRequest_write_changesOnly {s : State} {w : WriteReq} (hroom : roomFor (handled w.cls) s) :
    changesOnly writeBlocks s (s.takeRequest (.write w)) := by
  rw [State.takeRequest_write hroom]
  exact changesOnly_trans (changesOnly_trans (s.takeWrite_changesOnly _ w) (changesOnly_mono (State.showPlacement_changesOnly _ _ _) (by decide)))
    (changesOnly_mono (State.drain_frame _) (by decide))

/-! ### The request that a write adds (R144) -/

/-- The requests in flight once a write has joined them: parts of the slots it touches are stale (R17). -/
theorem State.takeWrite_inflight (s : State) (w : WriteReq) :
    (s.takeWrite (handled w.cls) w).path.inflight =
      s.path.inflight.map (fun e => { e with
        parts := e.parts.map (Part.stale (touchedSlots s.path.regions w.addr (keptEnables s.path.regions (handled w.cls) w))) }) ++
      [newInflight s (handled w.cls) (shownWrite s w) [] (writeAnswer (keptEnables s.path.regions (handled w.cls) w))] := by
  rw [State.takeWrite_eq, (State.presentTogether_requestsStand _ _).1, State.takeOn_inflight]
  have hpath := s.writeShown_path (handled w.cls) w
  rw [hpath]
  unfold newInflight
  rw [hpath]
  rfl

theorem State.takeWrite_nextId (s : State) (w : WriteReq) : (s.takeWrite (handled w.cls) w).path.nextId = s.path.nextId + 1 := by
  have hkept := congrArg MemoryPath.nextId (s.writeShown_path (handled w.cls) w)
  rw [State.takeWrite_eq, (State.presentTogether_requestsStand _ _).2.1]
  exact congrArg (· + 1) hkept

theorem State.takeWrite_mapKept (s : State) (w : WriteReq) : mapKept s (s.takeWrite (handled w.cls) w) := by
  have hpath := congrArg MemoryPath.regions (s.writeShown_path (handled w.cls) w)
  rw [State.takeWrite_eq]
  exact (State.presentTogether_requestsStand _ _).2.2.trans hpath

theorem State.takeRequest_write_requests {s : State} {w : WriteReq} (hroom : roomFor (handled w.cls) s) :
    (s.takeRequest (.write w)).path.inflight = (drainList [] (s.takeWrite (handled w.cls) w).path.inflight).1 ∧
      (s.takeRequest (.write w)).path.nextId = s.path.nextId + 1 ∧ mapKept s (s.takeRequest (.write w)) := by
  obtain ⟨hin, hid, hmap⟩ := State.showPlacement_requestsStand (s.takeWrite (handled w.cls) w) (handled w.cls) (.write w)
  rw [State.takeRequest_write hroom]
  exact ⟨congrArg (fun es => (drainList [] es).1) hin, hid.trans (s.takeWrite_nextId w), hmap.trans (s.takeWrite_mapKept w)⟩

/-- A ready request alone on its class list leaves at once (R145). -/
theorem drainList_single {es : List Inflight} {c : Cls} {e : Inflight} (h : es.filter (fun x => x.cls == c) = [e]) (hready : e.ready = true) :
    .answer e.id c e.final ∈ (drainList [] es).2 := by
  obtain ⟨done, hsplit, -, -, hhead, hanswers⟩ := drainList_spec c es []
  rw [h] at hsplit
  have hdone : done = [e] := by
    cases done with
    | nil =>
      have hfirst := hhead (List.not_mem_nil) e (by rw [List.nil_append] at hsplit; rw [← hsplit]; rfl)
      rw [hready] at hfirst
      cases hfirst
    | cons d ds =>
      obtain ⟨rfl, hnil⟩ := List.cons.inj hsplit
      rw [(List.append_eq_nil_iff.mp hnil.symm).1]
  have hmem : Emission.answer e.id c e.final ∈ (drainList [] es).2.filter (answerOf c) := by
    rw [hanswers, hdone]
    exact List.mem_singleton.mpr rfl
  exact (List.mem_filter.mp hmem).1

/-- The answer of a write without an enable left is ready, empty and clean (R147). -/
theorem newInflight_acknowledged {s : State} {c : Cls} {req : Request} {kept : List Bool} (h : kept.contains true = false) :
    (newInflight s c req [] (writeAnswer kept)).ready = true ∧ (newInflight s c req [] (writeAnswer kept)).final = { data := [], err := false } := by
  have hanswer : writeAnswer kept = some { data := [], err := false } := by
    unfold writeAnswer
    rw [if_neg (by rw [h]; exact Bool.false_ne_true)]
  rw [hanswer]
  exact ⟨rfl, rfl⟩

theorem State.takeWrite_classList (s : State) (w : WriteReq) (h : s.classList (handled w.cls) = []) :
    (s.takeWrite (handled w.cls) w).path.inflight.filter (fun e => e.cls == handled w.cls) =
      [newInflight s (handled w.cls) (shownWrite s w) [] (writeAnswer (keptEnables s.path.regions (handled w.cls) w))] := by
  have hold : ∀ touched, (s.path.inflight.map (fun e => { e with parts := e.parts.map (Part.stale touched) })).filter (fun e => e.cls == handled w.cls) = [] := by
    intro touched
    rw [List.filter_map]
    exact List.map_eq_nil_iff.mpr h
  rw [State.takeWrite_inflight, List.filter_append, hold]
  simp [newInflight]

/-- Settles O17: the masked write is the one request forwarded; with no enable left it joins its class list answered. -/
theorem writeIsPresentedMasked : Obligations.WriteIsPresentedMasked := by
  refine ⟨inSet_iff, keptEnables_getElem?, fun s w cmd hcmd hroom => ?_⟩
  obtain ⟨shown, placed, hshown, hplaced, hpresented⟩ := State.takeRequest_write_presents hroom
  obtain ⟨-, hnext, hmap⟩ := State.takeRequest_write_requests hroom
  have hforward := State.filter_forward_of_write hshown hplaced (drainList_answers (s.takeWrite (handled w.cls) w).path.inflight [])
  refine ⟨_, _, exec_carriesWrite hcmd s, hpresented, hmap, hnext, State.takeRequest_write_changesOnly hroom, fun id c q => ?_, fun hkept hempty => ?_, ?_⟩
  · have hmem : ∀ xs : List Emission, Emission.forward id c q ∈ xs ↔ Emission.forward id c q ∈ xs.filter isForward := fun xs => by simp [isForward]
    rw [hmem, hforward]
    unfold anyKept
    split
    · rename_i h
      simp only [h, true_and, List.mem_singleton, Emission.forward.injEq]
      rfl
    · rename_i h
      simp only [h, Bool.false_eq_true, false_and, List.not_mem_nil]
  · have hready := newInflight_acknowledged (s := s) (c := handled w.cls) (req := shownWrite s w) hkept
    refine List.mem_append_right _ ?_
    have hleft := drainList_single (s.takeWrite_classList w hempty) hready.1
    rwa [hready.2] at hleft
  · rw [List.countP_eq_length_filter, hforward]
    unfold anyKept
    repeat' split
    all_goals rfl

/-! ### Bookings (R169) and SHIELD_HIT (R149) -/

theorem Cond.book_bookedWith (c : Cond) (d : CondData) : bookedWith d c (c.book d) := by
  refine ⟨rfl, rfl, fun a b hc hd => ?_, fun hfree => ?_⟩
  · rw [hd]
    unfold Cond.book mergeData
    rw [hc]
  · unfold Cond.book mergeData
    dsimp only
    split
    · rename_i a b hc
      rcases hfree with hfree | hfree
      · exact absurd hc (hfree a)
      · exact absurd rfl (hfree b)
    · rfl

/-- A cell handed over books CELL_DROP or BAD_CELL alone (R119). -/
theorem State.handOver_conds (s : State) (cell : List Byte) : condsOnly [.cellDrop, .badCell] s (s.handOver cell) := by
  have hbook : ∀ (u : State) (k : CondKind) (d : CondData), u.conds = s.conds → k ∈ [CondKind.cellDrop, .badCell] →
      condsOnly [.cellDrop, .badCell] s (u.book k d) := fun u k d hu hk k' hk' => by
    rw [(u.book_spec k d).2.2 k' (fun hmem => hk' (List.mem_singleton.mp hmem ▸ hk)), hu]
  have hsame : ∀ u : State, u.conds = s.conds → condsOnly [.cellDrop, .badCell] s u := fun u hu => condsOnly_of_eq hu
  have hdrop : ∀ k, condsOnly [.cellDrop, .badCell] s (s.queueOrDrop k cell) := fun k => by
    unfold State.queueOrDrop
    split
    · exact hbook s _ _ rfl (by simp)
    · exact hsame _ rfl
  unfold State.handOver
  split
  · split
    · exact hbook s _ _ rfl (by simp)
    · split
      · unfold State.takeKeyCell
        split
        · exact hsame _ rfl
        · simp only []
          split
          · split
            · exact hsame _ rfl
            split
            · exact hbook s _ _ rfl (by simp)
            · exact hsame _ rfl
          · split
            · exact hbook s _ _ rfl (by simp)
            · split
              · exact hbook s _ _ rfl (by simp)
              · exact hsame _ rfl
      · unfold State.takeGrantCell
        split
        · exact hbook s _ _ rfl (by simp)
        split
        · exact hsame _ rfl
        split
        · exact hbook s _ _ rfl (by simp)
        · exact hdrop _
      · exact hdrop _
      · exact hdrop _
      · exact hdrop _
  · exact hsame _ rfl

theorem State.setOrderProducer_conds (s : State) (v : BitVec 32) : condsOnly [.indexBad] s (s.setOrderProducer v) := by
  unfold State.setOrderProducer
  split
  · split
    · exact (s.book_spec _ _).2.2
    · simp only []
      split
      · exact condsOnly_refl _ _
      · exact condsOnly_of_eq (State.wake_framed _).conds
  · exact condsOnly_refl _ _

theorem State.setReportConsumer_conds (s : State) (v : BitVec 32) : condsOnly [.indexBad] s (s.setReportConsumer v) := by
  unfold State.setReportConsumer
  split
  · split
    · exact (s.book_spec _ _).2.2
    · exact condsOnly_refl _ _
  · exact condsOnly_refl _ _

/-- The host index words book INDEX_BAD alone (R163, R168). -/
theorem State.notices_conds (s : State) (c : Cls) (w : WriteReq) (kept : List Bool) : condsOnly [.indexBad] s (s.notices c w kept) := by
  unfold State.notices
  split
  · refine condsOnly_trans (t := s.noticeOrder w kept) ?_ ?_
    · unfold State.noticeOrder
      split
      · split
        · exact s.setOrderProducer_conds _
        · exact condsOnly_refl _ _
      · exact condsOnly_refl _ _
    · unfold State.noticeReport
      split
      · split
        · exact State.setReportConsumer_conds _ _
        · exact condsOnly_refl _ _
      · exact condsOnly_refl _ _
  · exact condsOnly_refl _ _

/-- The conditions once the cell and the index words of a write have been handed on. -/
theorem State.writeNoticed_conds (s : State) (c : Cls) (w : WriteReq) (touched : List (Nat × Nat)) (whole : Option (Nat × Nat)) (kept : List Bool) :
    condsOnly [.cellDrop, .badCell, .indexBad] s ((State.handOverWrite whole w.data (s.trackWrite touched whole w.data)).notices c w kept) := by
  have hhanded : condsOnly [.cellDrop, .badCell, .indexBad] s (State.handOverWrite whole w.data (s.trackWrite touched whole w.data)) := by
    unfold State.handOverWrite
    split
    · exact fun k hk => State.handOver_conds (s.trackWrite touched whole w.data) w.data k (fun hmem => hk (by revert hmem; cases k <;> decide))
    · exact condsOnly_of_eq rfl
  exact condsOnly_trans hhanded (fun k hk => State.notices_conds _ c w kept k (fun hmem => hk (by revert hmem; cases k <;> decide)))

theorem State.bookShield_nil (s : State) (c : Cls) : s.bookShield c [] = s := rfl

/-- SHIELD_HIT takes the region of the least address lost (R149, assumption log 18). -/
theorem State.bookShield_least {s : State} {c : Cls} {lost : List Nat} {a r : Nat} {g : Region} (ha : a ∈ lost) (hleast : ∀ b ∈ lost, a ≤ b)
    (hg : locate s.path.regions a = some (r, g)) : s.bookShield c lost = s.book .shieldHit (.shield c r) := by
  have hmin : lost.min? = some a := List.min?_eq_some_iff.mpr ⟨ha, hleast⟩
  unfold State.bookShield
  rw [hmin]
  simp only [hg]

/-- After the placement unit has been shown a write and the drain, the conditions are those of the step before. -/
theorem State.takeRequest_write_conds {s : State} {w : WriteReq} (hroom : roomFor (handled w.cls) s) :
    (s.takeRequest (.write w)).conds = (s.writeShown (handled w.cls) w).conds := by
  rw [State.takeRequest_write hroom, ((State.showPlacement_framed _ _ _).andThen (cs := [.path, .emitted, .placement]) (State.drain_framed _)).conds,
    State.takeWrite_eq, ((State.takeOn_framed _ _ _ _ _).andThen (cs := [.emitted, .path]) (State.presentTogether_framed _ _)).conds]

/-- Settles O18: what is handed on books CELL_DROP, BAD_CELL and INDEX_BAD alone, and SHIELD_HIT is booked after it, once. -/
theorem shieldHitIsBookedOnce : Obligations.ShieldHitIsBookedOnce := by
  refine ⟨mem_lostAddrs_iff, fun s k d => ⟨(s.book_spec k d).1, (s.book_spec k d).2.2, ?_⟩, Cond.book_bookedWith, fun s w cmd hcmd hroom => ?_⟩
  · rw [(s.book_spec k d).2.1]
    exact Cond.book_bookedWith _ _
  · have hnoticed := s.writeNoticed_conds (handled w.cls) w (touchedSlots s.path.regions w.addr (keptEnables s.path.regions (handled w.cls) w))
      (wholeCellSlot s.path.regions w.addr (keptEnables s.path.regions (handled w.cls) w)) (keptEnables s.path.regions (handled w.cls) w) .shieldHit (by decide)
    have hregions := ((State.handOverWrite_framed (s.trackWrite (touchedSlots s.path.regions w.addr (keptEnables s.path.regions (handled w.cls) w))
      (wholeCellSlot s.path.regions w.addr (keptEnables s.path.regions (handled w.cls) w)) w.data)
      (wholeCellSlot s.path.regions w.addr (keptEnables s.path.regions (handled w.cls) w)) w.data).andThen (cs := [.engine, .keys, .conds, .orders, .reports])
      (State.notices_framed _ (handled w.cls) w (keptEnables s.path.regions (handled w.cls) w))).path
    refine ⟨_, exec_carriesWrite hcmd s, fun hnone => ?_, fun a r g ha hleast hg => ?_⟩
    · rw [State.takeRequest_write_conds hroom]
      unfold State.writeShown
      rw [hnone]
      exact hnoticed
    · rw [State.takeRequest_write_conds hroom]
      unfold State.writeShown
      dsimp only
      rw [State.bookShield_least ha hleast (by rw [hregions]; exact hg)]
      exact congrArg (fun c : Cond => c.book (.shield (handled w.cls) r)) hnoticed

end Sys2Proof.Machine

/-! Proofs: a write starts a cell or breaks one, reaches the reads that wait on it, and hands its cell over (R1, R4 to R7, R17, R119). -/

namespace Sys2Proof.Machine

open Sys2Proof.Safety

set_option Elab.async false

/-! ### Cells (R1, R5, Tables 1-6, 13-1) -/

theorem parseHeader_table131 (cell : List Byte) : table131 cell (parseHeader cell) := by
  refine ⟨rfl, ?_, ?_, le16_toNat cell 4, le16_toNat cell 6, le32_toNat cell 8⟩
  · show (byteAt cell 1).getLsbD 0 = true ↔ _
    rw [BitVec.getLsbD, Nat.testBit_eq_decide_div_mod_eq, decide_eq_true_eq, Nat.pow_zero, Nat.div_one]
  · show ((le16 cell 2).setWidth 10).toNat = _
    rw [BitVec.toNat_setWidth, le16_toNat]

theorem classify_table16 (kind : Byte) : table16 kind (classify kind) := by
  unfold classify table16
  split
  · rename_i h1
    exact .inl ⟨h1, rfl⟩
  rename_i h1
  split
  · rename_i h2
    exact .inr (.inl ⟨h2, rfl⟩)
  rename_i h2
  split
  · rename_i h3
    exact .inr (.inr (.inl ⟨h3, rfl⟩))
  rename_i h3
  split
  · rename_i h4
    exact .inr (.inr (.inr (.inl ⟨h4, rfl⟩)))
  rename_i h4
  split
  · rename_i h5
    exact .inr (.inr (.inr (.inr (.inl ⟨h5, rfl⟩))))
  rename_i h5
  split
  · rename_i h6
    exact .inr (.inr (.inr (.inr (.inr (.inl ⟨h6, rfl⟩)))))
  · rename_i h6
    refine .inr (.inr (.inr (.inr (.inr (.inr ⟨?_, rfl⟩)))))
    bv_omega

theorem startCell_of_program {cell : List Byte} (h : byteAt cell 0 = 1) : startCell cell = .program (parseHeader cell) .undecided := by
  simp [startCell, classify, h]

theorem startCell_of_control {cell : List Byte} (h : 2 ≤ (byteAt cell 0).toNat) (h' : (byteAt cell 0).toNat ≤ 6) : startCell cell = .control := by
  unfold startCell
  rcases classify_table16 (byteAt cell 0) with ⟨hk, -⟩ | ⟨-, hc⟩ | ⟨-, hc⟩ | ⟨-, hc⟩ | ⟨-, hc⟩ | ⟨-, hc⟩ | ⟨hk, -⟩
  · rw [hk] at h
    exact absurd h (by decide)
  · rw [hc]
  · rw [hc]
  · rw [hc]
  · rw [hc]
  · rw [hc]
  · rcases hk with hk | hk
    · rw [hk] at h
      exact absurd h (by decide)
    · omega

theorem startCell_of_opaque {cell : List Byte} (h : byteAt cell 0 = 0 ∨ 7 ≤ (byteAt cell 0).toNat) : startCell cell = .opaqueCell := by
  have hclass : classify (byteAt cell 0) = .opaqueCell := by
    unfold classify
    split
    · rename_i h1
      rw [h1] at h; exact absurd h (by decide)
    rename_i h1
    split
    · rename_i h2
      rw [h2] at h; exact absurd h (by decide)
    rename_i h2
    split
    · rename_i h3
      rw [h3] at h; exact absurd h (by decide)
    rename_i h3
    split
    · rename_i h4
      rw [h4] at h; exact absurd h (by decide)
    rename_i h4
    split
    · rename_i h5
      rw [h5] at h; exact absurd h (by decide)
    rename_i h5
    split
    · rename_i h6
      rw [h6] at h; exact absurd h (by decide)
    · rename_i h6
      rfl
  unfold startCell
  rw [hclass]

/-! ### Slots (R2, R4, R5) -/

theorem State.slotAt_eq_some_iff {s : State} (h : slotsDistinct s) (r n : Nat) (st : SlotState) : s.slotAt r n = some st ↔ ⟨r, n, st⟩ ∈ s.slots := by
  unfold State.slotAt
  constructor
  · intro hfind
    obtain ⟨x, hx, rfl⟩ := Option.map_eq_some_iff.mp hfind
    obtain ⟨hr, hn⟩ : x.region = r ∧ x.number = n := by simpa using List.find?_some hx
    subst hr
    subst hn
    exact List.mem_of_find?_eq_some hx
  · intro hmem
    cases hfind : s.slots.find? (fun x => x.region == r && x.number == n) with
    | none => exact absurd (List.find?_eq_none.mp hfind _ hmem) (by simp)
    | some y =>
      obtain ⟨hr, hn⟩ : y.region = r ∧ y.number = n := by simpa using List.find?_some hfind
      have hsame := eq_of_nodup_map h (List.mem_of_find?_eq_some hfind) hmem (by rw [hr, hn])
      rw [hsame]
      rfl

theorem mem_touchedSlots_iff (rs : List Region) (c : Cls) (w : WriteReq) (r n : Nat) :
    (r, n) ∈ touchedSlots rs w.addr (keptEnables rs c w) ↔ ∃ i, touchesAt rs c w i r n := by
  have hbyte : ∀ i, (keptEnables rs c w).getD i false = true ↔ (keptEnables rs c w)[i]? = some true := fun i => by
    rw [List.getD_eq_getElem?_getD]
    cases (keptEnables rs c w)[i]? with
    | none => simp
    | some b => cases b <;> simp
  have hwriter : ∀ i g, locate rs (addrAt w.addr i) = some (r, g) → g.kind = .cellRing → (byteKept rs c w.addr i = true ↔ inSet g.writers c = true) :=
    fun i g hg hkind => by simp [byteKept, hg, keptIn, hkind]
  simp only [touchedSlots, List.mem_filterMap, List.mem_range]
  constructor
  · rintro ⟨i, -, h⟩
    obtain ⟨hkept, h⟩ := of_ite_ne_else h nofun
    obtain ⟨⟨r', n', off⟩, hcell, heq⟩ := Option.map_eq_some_iff.mp h
    cases heq
    obtain ⟨g, hg, hkind, -, hn, -⟩ := cellByte_eq_some.mp hcell
    obtain ⟨henabled, hkept⟩ := (keptEnables_true_iff rs c w i).mp ((hbyte i).mp hkept)
    exact ⟨i, g, henabled, hg, hkind, (hwriter i g hg hkind).mp hkept, hn⟩
  · rintro ⟨i, g, henabled, hg, hkind, hset, rfl⟩
    have hkept := (keptEnables_true_iff rs c w i).mpr ⟨henabled, (hwriter i g hg hkind).mpr hset⟩
    refine ⟨i, (List.getElem?_eq_some_iff.mp hkept).1, ?_⟩
    rw [if_pos ((hbyte i).mpr hkept), cellByte_eq_some.mpr ⟨g, hg, hkind, rfl, rfl, rfl⟩]
    rfl

theorem wholeCellSlot_eq_some_iff (rs : List Region) (a : Addr) (kept : List Bool) (r n : Nat) :
    wholeCellSlot rs a kept = some (r, n) ↔ kept = List.replicate 128 true ∧ cellByte rs (fun _ => true) a 0 = some (r, n, 0) := by
  have hall : kept.length = 128 ∧ kept.all id = true ↔ kept = List.replicate 128 true := by
    rw [List.eq_replicate_iff, List.all_eq_true]
    exact Iff.rfl
  unfold wholeCellSlot
  rw [← hall]
  constructor
  · intro h
    obtain ⟨hkept, h⟩ := of_ite_ne_else h nofun
    split at h
    · rename_i hcell
      cases h
      exact ⟨hkept, hcell⟩
    · cases h
  · rintro ⟨hkept, hcell⟩
    rw [if_pos hkept, hcell]
    rfl

theorem eq_replicate_true_iff (xs : List Bool) (n : Nat) : xs = List.replicate n true ↔ xs.length = n ∧ ∀ i, i < n → xs[i]? = some true := by
  constructor
  · rintro rfl
    exact ⟨List.length_replicate, fun i hi => by simp [hi]⟩
  · rintro ⟨hlen, hall⟩
    refine List.ext_getElem? (fun i => ?_)
    by_cases hi : i < n
    · simp [hall i hi, hi]
    · simp [hlen, hi]

theorem keptEnables_eq_replicate_iff (rs : List Region) (c : Cls) (w : WriteReq) :
    keptEnables rs c w = List.replicate 128 true ↔ w.enables = List.replicate 128 true ∧ ∀ i, i < 128 → byteKept rs c w.addr i = true := by
  have hlen : (keptEnables rs c w).length = w.enables.length := List.length_mapIdx
  rw [eq_replicate_true_iff, eq_replicate_true_iff, hlen]
  simp only [keptEnables_true_iff, and_assoc]
  exact and_congr_right (fun _ => ⟨fun h => ⟨fun i hi => (h i hi).1, fun i hi => (h i hi).2⟩, fun h i hi => ⟨h.1 i hi, h.2 i hi⟩⟩)

/-- On a sound map a write is a whole-cell write of the slot whose bytes it covers, all of them enabled (R5). -/
theorem wholeCellSlot_covers {rs : List Region} (h : mapSound rs) (c : Cls) (w : WriteReq) (r n : Nat) :
    wholeCellSlot rs w.addr (keptEnables rs c w) = some (r, n) ↔ coversSlot rs c w r n := by
  have ha := w.addr.isLt
  rw [wholeCellSlot_eq_some_iff, keptEnables_eq_replicate_iff, cellByte_eq_some]
  constructor
  · rintro ⟨⟨henables, hkept⟩, g, hg, hkind, -, hn, hoff⟩
    have hset : inSet g.writers c = true := by
      have hfirst := hkept 0 (by omega)
      simpa [byteKept, hg, keptIn, hkind] using hfirst
    obtain ⟨hget, hlow, hhigh⟩ := locate_some hg
    obtain ⟨hbase, hsize, -, -⟩ := h.1 g (List.mem_of_getElem? hget)
    unfold addrAt at hn hoff hlow hhigh
    exact ⟨henables, g, hget, hkind, hset, by omega, by omega⟩
  · rintro ⟨henables, g, hget, hkind, hset, hn, haddr⟩
    obtain ⟨hbase, hsize, -, htop⟩ := h.1 g (List.mem_of_getElem? hget)
    have hlocate : ∀ i, i < 128 → locate rs (addrAt w.addr i) = some (r, g) := fun i hi => by
      refine (locate_iff h _ _ _).mpr ⟨hget, ?_, ?_⟩ <;> unfold addrAt <;> omega
    refine ⟨⟨henables, fun i hi => by simp [byteKept, hlocate i hi, keptIn, hkind, hset]⟩, g, hlocate 0 (by omega), hkind, rfl, ?_, ?_⟩ <;>
      unfold addrAt <;> omega

theorem State.takeRequest_write_slots {s : State} {w : WriteReq} (hroom : roomFor (handled w.cls) s) :
    (s.takeRequest (.write w)).slots = (s.trackWrite (touchedSlots s.path.regions w.addr (keptEnables s.path.regions (handled w.cls) w))
      (wholeCellSlot s.path.regions w.addr (keptEnables s.path.regions (handled w.cls) w)) w.data).slots := by
  rw [State.takeRequest_write hroom, ((State.showPlacement_framed _ _ _).andThen (cs := [.path, .emitted, .placement]) (State.drain_framed _)).slots,
    State.takeWrite_eq, ((State.takeOn_framed _ _ _ _ _).andThen (cs := [.emitted, .path]) (State.presentTogether_framed _ _)).slots]
  exact (((State.handOverWrite_framed _ _ _).andThen (cs := [.engine, .keys, .conds, .orders, .reports]) (State.notices_framed _ _ _ _)).andThen
    (cs := [.engine, .keys, .conds, .orders, .reports]) (State.bookShield_framed _ _ _)).slots

/-- Settles O19: the tracker changes the slots that a write touches, and nothing later in the step changes a slot. -/
theorem writesStartOrBreakCells : Obligations.WritesStartOrBreakCells := by
  refine ⟨fun cell => ⟨parseHeader_table131 cell, startCell_of_program, startCell_of_control, startCell_of_opaque⟩,
    fun s r n st h => State.slotAt_eq_some_iff h r n st,
    fun rs c w r n => ⟨mem_touchedSlots_iff rs c w r n, fun h => ⟨wholeCellSlot_covers h c w r n, fun a g => locate_iff h a r g⟩⟩,
    fun s w cmd hcmd hroom => ⟨_, exec_carriesWrite hcmd s, (State.takeRequest_write_requests hroom).2.2, fun r n => ?_⟩⟩
  rw [State.slotAt_of_slots (State.takeRequest_write_slots hroom), State.trackWrite_slotAt]
  split
  · rfl
  split
  · rfl
  · exact Option.map_id'

/-! ### The reads that wait (R17, R145) -/

theorem Part.stale_eq_madeStale (touched : List (Nat × Nat)) : Part.stale touched = madeStale touched := by
  funext p
  unfold Part.stale madeStale
  by_cases htouched : (p.region, p.slot) ∈ touched
  · exact (if_pos (List.contains_iff_mem.mpr htouched)).trans (if_pos htouched).symm
  · exact (if_neg (fun h => htouched (List.contains_iff_mem.mp h))).trans (if_neg htouched).symm

theorem Part.stale_done (touched : List (Nat × Nat)) (p : Part) : (p.stale touched).done = p.done := by
  unfold Part.stale
  split
  · split <;> rename_i hserving <;> simp [Part.done, hserving]
  · rfl

/-- A request of which some parts become stale is ready as it was before (R17, R145). -/
theorem Inflight.stale_ready (touched : List (Nat × Nat)) (e : Inflight) : Inflight.ready { e with parts := e.parts.map (Part.stale touched) } = e.ready := by
  unfold Inflight.ready
  rw [List.all_map, show Part.done ∘ Part.stale touched = Part.done from funext (Part.stale_done touched)]

/-- No request that is oldest of its class is ready. -/
def noneReadyFirst (es : List Inflight) : Prop := ∀ c e, (es.filter (fun x => x.cls == c)).head? = some e → e.ready = false

theorem noneReadyFirst_map {es : List Inflight} {f : Inflight → Inflight} (hf : ∀ e, (f e).cls = e.cls ∧ (f e).ready = e.ready) (h : noneReadyFirst es) :
    noneReadyFirst (es.map f) := by
  intro c e he
  rw [List.filter_map, show (fun x : Inflight => x.cls == c) ∘ f = fun x => x.cls == c from funext (fun x => by rw [Function.comp_apply, (hf x).1]),
    List.head?_map] at he
  obtain ⟨x, hx, rfl⟩ := Option.map_eq_some_iff.mp he
  rw [(hf x).2]
  exact h c x hx

/-- A request behind another of its class, or not ready itself, makes no answer leave. -/
theorem noneReadyFirst_append {es : List Inflight} {x : Inflight} (h : noneReadyFirst es) (hx : x.ready = false ∨ es.filter (fun e => e.cls == x.cls) ≠ []) :
    noneReadyFirst (es ++ [x]) := by
  intro c e he
  rw [List.filter_append] at he
  cases hlist : es.filter (fun e => e.cls == c) with
  | cons y ys =>
    rw [hlist] at he
    cases he
    exact h c e (by rw [hlist]; rfl)
  | nil =>
    rw [hlist, List.nil_append] at he
    by_cases hc : x.cls = c
    · have hsame : x = e := by simpa [hc] using he
      rw [← hsame]
      exact hx.resolve_right (Classical.not_not.mpr (hc ▸ hlist))
    · simp [hc] at he

theorem drainList_of_noneReady {es : List Inflight} (h : noneReadyFirst es) : drainList [] es = (es, []) := drainList_idle es [] (fun c _ e he => h c e he)

/-- A ready request that joins an empty class list leaves at once, and no other request moves (R145). -/
theorem drainList_append_ready {x : Inflight} (hready : x.ready = true) (es : List Inflight) : ∀ blocked : List Cls, x.cls ∉ blocked → (∀ e ∈ es, e.cls ≠ x.cls) →
    (∀ c, c ∉ blocked → ∀ e, (es.filter (fun e => e.cls == c)).head? = some e → e.ready = false) →
    drainList blocked (es ++ [x]) = (es, [.answer x.id x.cls x.final]) := by
  induction es with
  | nil =>
    intro blocked hfree _ _
    have hgo : ¬ (blocked.contains x.cls || !x.ready) = true := by simp [hready, hfree]
    simp only [List.nil_append, drainList, hgo]
    rfl
  | cons e es ih =>
    intro blocked hfree hother h
    have hstay : (blocked.contains e.cls || !e.ready) = true := by
      by_cases hm : e.cls ∈ blocked
      · simp [hm]
      · simp [h e.cls hm e (by simp)]
    have hrest := ih (e.cls :: blocked) (fun hm => by
        rcases List.mem_cons.mp hm with heq | hm
        · exact hother e List.mem_cons_self heq.symm
        · exact hfree hm)
      (fun y hy => hother y (List.mem_cons_of_mem _ hy)) (fun c hc y hy => h c (fun hm => hc (List.mem_cons_of_mem _ hm)) y (by
        have hne : (e.cls == c) = false := by simpa using fun heq : e.cls = c => hc (heq ▸ List.mem_cons_self)
        simpa [List.filter_cons, hne] using hy))
    rw [List.cons_append]
    unfold drainList
    simp only [hstay, if_true, hrest]

/-- What the drain does after a write has joined its class list: with no enable left and no older request of its class, its acknowledgment leaves alone (R145, R147). -/
theorem State.takeWrite_drain {s : State} (h : NoReadyOldest s) (w : WriteReq) :
    drainList [] (s.takeWrite (handled w.cls) w).path.inflight =
      if anyKept s w = false ∧ s.classList (handled w.cls) = [] then
        (s.path.inflight.map (fun e => { e with
          parts := e.parts.map (Part.stale (touchedSlots s.path.regions w.addr (keptEnables s.path.regions (handled w.cls) w))) }),
          [.answer s.path.nextId (handled w.cls) { data := [], err := false }])
      else ((s.takeWrite (handled w.cls) w).path.inflight, []) := by
  have hold : noneReadyFirst (s.path.inflight.map (fun e => { e with
      parts := e.parts.map (Part.stale (touchedSlots s.path.regions w.addr (keptEnables s.path.regions (handled w.cls) w))) })) :=
    noneReadyFirst_map (fun e => ⟨rfl, e.stale_ready _⟩) h
  rw [State.takeWrite_inflight]
  split
  · rename_i hleaves
    obtain ⟨hkept, hempty⟩ := hleaves
    obtain ⟨hready, hfinal⟩ := newInflight_acknowledged (s := s) (c := handled w.cls) (req := shownWrite s w) hkept
    rw [drainList_append_ready hready _ [] List.not_mem_nil (fun e he => ?_) (fun c _ e he => hold c e he), hfinal]
    · rfl
    · obtain ⟨x, hx, rfl⟩ := List.mem_map.mp he
      intro hcls
      have hsame : x.cls = handled w.cls := hcls
      have hmem : x ∈ s.classList (handled w.cls) := List.mem_filter.mpr ⟨hx, by simp [hsame]⟩
      rw [hempty] at hmem
      cases hmem
  · rename_i hleaves
    refine drainList_of_noneReady (noneReadyFirst_append hold ?_)
    by_cases hkept : anyKept s w = true
    · left
      have hanswer : writeAnswer (keptEnables s.path.regions (handled w.cls) w) = none := if_pos hkept
      rw [hanswer]
      rfl
    · right
      intro hnil
      refine hleaves ⟨by simpa using hkept, ?_⟩
      rw [List.filter_map] at hnil
      exact List.map_eq_nil_iff.mp hnil

/-! ### The cell handed over (R7, R119) -/

theorem checksumOk_iff (cell : List Byte) : checksumOk cell = true ↔ sumBytes ((cell.drop 16).take 112) = 0 := by simp [checksumOk]

theorem State.handOver_of_not_control {s : State} {cell : List Byte} (h : ∀ k, classify (byteAt cell 0) ≠ .control k) : s.handOver cell = s := by
  unfold State.handOver
  split
  · exact absurd ‹_› (h _)
  · rfl

theorem State.handOver_of_badChecksum {s : State} {cell : List Byte} {k : CtrlKind} (hk : classify (byteAt cell 0) = .control k)
    (h : sumBytes ((cell.drop 16).take 112) ≠ 0) : s.handOver cell = s.book .badCell (.reason .badChecksum) := by
  have hbad : (!checksumOk cell) = true := by simpa [checksumOk] using h
  unfold State.handOver
  rw [hk]
  simp only [hbad, if_true]

theorem State.queueOrDrop_full {s : State} (h : 16 ≤ s.engine.queue.length) (k : CtrlKind) (cell : List Byte) :
    s.queueOrDrop k cell = s.book .cellDrop (.reason .queueFull) := by
  simp [State.queueOrDrop, State.queueFull, h]

/-- A cell that joins the queue: only a KEY cell has a group key, looked up when it is at the head (R36, R123). -/
theorem State.queueOrDrop_room {s : State} (h : s.engine.queue.length < 16) {k : CtrlKind} (hk : k ≠ .key) (cell : List Byte) :
    s.queueOrDrop k cell = { s with engine :=
      { queue := s.engine.queue ++ [⟨k, cell⟩], headKey := if s.engine.queue = [] then none else s.engine.headKey } } := by
  simp [State.queueOrDrop, State.queueFull, Nat.not_le.mpr h, State.enqueue, State.headKeyFor, hk]

theorem State.handOver_queued {s : State} {cell : List Byte} {k : CtrlKind} (hk : classify (byteAt cell 0) = .control k)
    (hsum : sumBytes ((cell.drop 16).take 112) = 0) (hkind : k = .time ∨ k = .fixture ∨ k = .pass) : s.handOver cell = s.queueOrDrop k cell := by
  have hgood : (!checksumOk cell) = false := by simpa [checksumOk] using hsum
  unfold State.handOver
  rw [hk]
  rcases hkind with rfl | rfl | rfl <;> simp [hgood]

theorem wordWritten_of_whole {w : WriteReq} {a : Addr} {v : BitVec 32} (h : wordWritten w (List.replicate 128 true) a = some v) :
    (a - w.addr).toNat + 3 < 128 := by
  unfold wordWritten at h
  dsimp only at h
  obtain ⟨hall, -⟩ := of_ite_ne_else h nofun
  refine Classical.byContradiction fun hout => ?_
  have hlast := List.all_eq_true.mp hall 3 (by decide)
  rw [List.getD_eq_getElem?_getD, List.getElem?_eq_none (by rw [List.length_replicate]; omega)] at hlast
  cases hlast

/-- On a sound map a whole-cell write writes no index word: no ring's base lies in a cell ring (R5, R148, R158). -/
theorem wordWritten_whole {rs : List Region} (h : mapSound rs) {c : Cls} {w : WriteReq} {r n : Nat} (hwhole : wholeCellSlot rs w.addr (keptEnables rs c w) = some (r, n))
    {g : Region} (hg : g ∈ rs) (hkind : g.kind ≠ .cellRing) {off : Nat} (hoff : off < g.size) :
    wordWritten w (keptEnables rs c w) (g.base + BitVec.ofNat 32 off) = none := by
  cases hword : wordWritten w (keptEnables rs c w) (g.base + BitVec.ofNat 32 off) with
  | none => rfl
  | some v =>
    have hall := ((wholeCellSlot_eq_some_iff rs w.addr _ r n).mp hwhole).1
    rw [hall] at hword
    have hclose := wordWritten_of_whole hword
    obtain ⟨-, x, hget, hcell, -, hn, haddr⟩ := (wholeCellSlot_covers h c w r n).mp hwhole
    obtain ⟨hxbase, hxsize, -, hxtop⟩ := h.1 x (List.mem_of_getElem? hget)
    obtain ⟨j, hj, hjg⟩ := List.mem_iff_getElem.mp hg
    have hgtop := (h.1 g hg).2.2.2
    have hsum : (g.base + BitVec.ofNat 32 off).toNat = g.base.toNat + off := by
      rw [BitVec.toNat_add, BitVec.toNat_ofNat]
      omega
    have haddrLt := w.addr.isLt
    have hat : g.base.toNat + off = w.addr.toNat + (g.base + BitVec.ofNat 32 off - w.addr).toNat := by
      have hsub := BitVec.toNat_sub (g.base + BitVec.ofNat 32 off) w.addr
      rw [hsum] at hsub
      omega
    have hin : locate rs (g.base.toNat + off) = some (r, x) := (locate_iff h _ _ _).mpr ⟨hget, by omega, by omega⟩
    have hin' : locate rs (g.base.toNat + off) = some (j, g) :=
      (locate_iff h _ _ _).mpr ⟨by rw [List.getElem?_eq_getElem hj, hjg], by omega, by omega⟩
    rw [hin] at hin'
    cases hin'
    exact absurd hcell hkind

section
variable (s : State) (xs : List Slot) (p : MemoryPath)

/-- The state with other slots and another memory path. -/
def State.withSlots : State := { s with slots := xs, path := p }

theorem State.queueOrDrop_withSlots (k : CtrlKind) (cell : List Byte) : (s.withSlots xs p).queueOrDrop k cell = (s.queueOrDrop k cell).withSlots xs p := by
  have hfull : (s.withSlots xs p).queueFull = s.queueFull := rfl
  unfold State.queueOrDrop
  rw [hfull]
  split <;> rfl

theorem State.takeKeyCell_withSlots (cell : List Byte) : (s.withSlots xs p).takeKeyCell cell = (s.takeKeyCell cell).withSlots xs p := by
  have hmembership : (s.withSlots xs p).membership (keyGroup cell) = s.membership (keyGroup cell) := rfl
  have hentry : (s.withSlots xs p).keyEntry (parseHeader cell).service = s.keyEntry (parseHeader cell).service := rfl
  have hfull : (s.withSlots xs p).queueFull = s.queueFull := rfl
  have hkeys : (s.withSlots xs p).keys = s.keys := rfl
  unfold State.takeKeyCell
  rw [hmembership]
  split
  · rfl
  · dsimp only
    rw [hentry, hfull, hkeys]
    split
    · repeat' split
      all_goals rfl
    · split
      · rfl
      · repeat' split
        all_goals rfl

theorem State.takeGrantCell_withSlots (cell : List Byte) : (s.withSlots xs p).takeGrantCell cell = (s.takeGrantCell cell).withSlots xs p := by
  have hrestoring : (s.withSlots xs p).restoring = s.restoring := rfl
  have haddressed : (s.withSlots xs p).grantAddressed cell = s.grantAddressed cell := rfl
  unfold State.takeGrantCell
  rw [hrestoring, haddressed, State.queueOrDrop_withSlots]
  repeat' split
  all_goals rfl

/-- The hand-over reads and changes neither slots nor memory path (R7). -/
theorem State.handOver_withSlots (cell : List Byte) : (s.withSlots xs p).handOver cell = (s.handOver cell).withSlots xs p := by
  unfold State.handOver
  split
  · split
    · rfl
    · split
      · exact s.takeKeyCell_withSlots xs p cell
      · exact s.takeGrantCell_withSlots xs p cell
      · exact s.queueOrDrop_withSlots xs p .time cell
      · exact s.queueOrDrop_withSlots xs p .fixture cell
      · exact s.queueOrDrop_withSlots xs p .pass cell
  · rfl

end

/-- What a write's step leaves of the blocks that the message engine and the notices write. -/
theorem State.takeRequest_write_shown {s : State} {w : WriteReq} (hroom : roomFor (handled w.cls) s) :
    framed [.path, .emitted, .placement] (s.writeShown (handled w.cls) w) (s.takeRequest (.write w)) := by
  rw [State.takeRequest_write hroom, State.takeWrite_eq]
  exact (((State.takeOn_framed _ _ _ _ _).andThen (cs := [.path, .emitted, .placement]) (State.presentTogether_framed _ _)).andThen
    (cs := [.path, .emitted, .placement]) (State.showPlacement_framed _ _ _)).andThen (State.drain_framed _)

/-- A whole-cell write loses no byte, and its words are no index words: on a sound map its step hands the cell over, and nothing else books (R5, R148, R149). -/
theorem State.writeShown_whole {s : State} (h : PlacementSound s) {c : Cls} {w : WriteReq} {r n : Nat}
    (hwhole : wholeCellSlot s.path.regions w.addr (keptEnables s.path.regions c w) = some (r, n)) :
    s.writeShown c w = State.handOver w.data (s.trackWrite (touchedSlots s.path.regions w.addr (keptEnables s.path.regions c w)) (some (r, n)) w.data) := by
  have hmap : mapSound s.path.regions := by
    obtain ⟨hstands, -⟩ := (placementSound_iff s).mp h
    by_cases hplaced : s.placement.st = .placed
    · exact (hstands.placed hplaced).1
    · rw [(hstands.unplaced hplaced).1]
      exact ⟨fun g hg => absurd hg List.not_mem_nil, List.Pairwise.nil⟩
  obtain ⟨henables, hkept⟩ := (keptEnables_eq_replicate_iff _ c w).mp ((wholeCellSlot_eq_some_iff _ _ _ r n).mp hwhole).1
  have hlost : lostAddrs s.path.regions c w = [] := by
    refine List.eq_nil_iff_forall_not_mem.mpr (fun a ha => ?_)
    obtain ⟨i, henabled, hmasked, -⟩ := (mem_lostAddrs_iff s c w a).mp ha
    have hi : i < 128 := by
      have hlt := (List.getElem?_eq_some_iff.mp henabled).1
      rwa [henables, List.length_replicate] at hlt
    exact hmasked ((byteKept_iff s c w.addr i).mp (hkept i hi))
  have hnotices : ∀ u : State, u.path.regions = s.path.regions → u.notices c w (keptEnables s.path.regions c w) = u := by
    intro u hu
    have horder : u.noticeOrder w (keptEnables s.path.regions c w) = u := by
      unfold State.noticeOrder
      rw [hu]
      split
      · rename_i g hg
        have hword := wordWritten_whole hmap hwhole (List.mem_of_find?_eq_some hg) (by have hk := List.find?_some hg; simp at hk; simp [hk])
          (off := 0) (by have hsize := (hmap.1 g (List.mem_of_find?_eq_some hg)).2.2.1; omega)
        rw [BitVec.add_zero] at hword
        rw [hword]
      · rfl
    have hreport : u.noticeReport w (keptEnables s.path.regions c w) = u := by
      unfold State.noticeReport
      rw [hu]
      split
      · rename_i g hg
        have hword := wordWritten_whole hmap hwhole (List.mem_of_find?_eq_some hg) (by have hk := List.find?_some hg; simp at hk; simp [hk])
          (off := 64) (by obtain ⟨-, hmod, hpos, -⟩ := hmap.1 g (List.mem_of_find?_eq_some hg); omega)
        rw [show g.base + 64 = g.base + BitVec.ofNat 32 64 from rfl, hword]
      · rfl
    unfold State.notices
    rw [horder, hreport, ite_self]
  unfold State.writeShown
  dsimp only
  rw [hlost, State.bookShield_nil, hwhole]
  refine (hnotices _ ?_).trans rfl
  exact (congrArg MemoryPath.regions (State.handOverWrite_framed _ _ _).path).trans rfl

/-- A write that is no whole-cell write books SHIELD_HIT and INDEX_BAD alone, and leaves the message engine and the key bank (R7, R119). -/
theorem State.writeShown_partial {s : State} {c : Cls} {w : WriteReq} (hwhole : wholeCellSlot s.path.regions w.addr (keptEnables s.path.regions c w) = none) :
    framed [.slots, .path, .orders, .reports, .conds] s (s.writeShown c w) ∧ condsOnly [.shieldHit, .indexBad] s (s.writeShown c w) := by
  unfold State.writeShown
  dsimp only
  rw [hwhole]
  have hnone : ∀ u : State, u.handOverWrite none w.data = u := fun u => rfl
  rw [hnone]
  refine ⟨((s.trackWrite_framed _ _ _).andThen (cs := [.slots, .path, .orders, .reports, .conds]) (State.notices_framed _ c w _)).andThen
    (State.bookShield_framed _ c _), ?_⟩
  have hnotices : condsOnly [.shieldHit, .indexBad] s ((s.trackWrite (touchedSlots s.path.regions w.addr (keptEnables s.path.regions c w)) none w.data).notices
      c w (keptEnables s.path.regions c w)) := fun k hk =>
    State.notices_conds _ c w _ k (fun hmem => hk (by revert hmem; cases k <;> decide))
  refine condsOnly_trans hnotices (fun k hk => ?_)
  unfold State.bookShield
  split
  · split
    · exact (State.book_spec _ _ _).2.2 k (fun hmem => hk (by revert hmem; cases k <;> decide))
    · rfl
  · rfl

/-! ### What the step puts out (R17, R145) -/

theorem filter_eq_nil_of {p : Emission → Bool} {xs : List Emission} (h : ∀ x ∈ xs, p x = false) : xs.filter p = [] :=
  List.filter_eq_nil_iff.mpr (fun x hx => by simp [h x hx])

theorem not_answer_of_slateRead {x : Emission} (h : isSlateRead x = true) : isAnswer x = false := by cases x <;> first | rfl | cases h

theorem not_answer_of_unitRequest {x : Emission} (h : isUnitRequest x = true) : isAnswer x = false := by cases x <;> first | rfl | cases h

theorem not_slateRead_of_answer {x : Emission} (h : isAnswer x = true) : isSlateRead x = false := by cases x <;> first | rfl | cases h

theorem not_slateRead_of_unitRequest {x : Emission} (h : isUnitRequest x = true) : isSlateRead x = false := by
  cases x with
  | own r => cases r <;> first | rfl | cases h
  | _ => rfl

theorem State.mem_writePresents {s : State} {c : Cls} {w : WriteReq} {x : Emission} (h : x ∈ s.writePresents c w) : isForward x = true ∨ isSlateRead x = true := by
  rcases List.mem_append.mp h with h | h
  · split at h
    · rw [List.mem_singleton.mp h]
      exact .inl rfl
    · cases h
  · exact .inr (State.mem_heldSlateReads h)

theorem not_answer_of_forward {x : Emission} (h : isForward x = true) : isAnswer x = false := by cases x <;> first | rfl | cases h

theorem not_slateRead_of_forward {x : Emission} (h : isForward x = true) : isSlateRead x = false := by cases x <;> first | rfl | cases h

/-- Of what a write's step puts out, the answers are those of the drain (R145). -/
theorem State.filter_answer_of_write {s : State} {c : Cls} {w : WriteReq} {shown placed answers : List Emission} (hshown : shown.Perm (s.writePresents c w))
    (hplaced : ∀ x ∈ placed, isUnitRequest x = true) (hanswers : ∀ x ∈ answers, isAnswer x = true) :
    (shown ++ placed ++ answers).filter isAnswer = answers := by
  have hnone : shown.filter isAnswer = [] := filter_eq_nil_of (fun x hx =>
    (State.mem_writePresents (hshown.mem_iff.mp hx)).elim not_answer_of_forward not_answer_of_slateRead)
  rw [List.filter_append, List.filter_append, hnone, filter_eq_nil_of (fun x hx => not_answer_of_unitRequest (hplaced x hx)),
    List.filter_eq_self.mpr hanswers]
  rfl

/-- Of what a write's step puts out, the slate reads are those of the held parts it settles (R17). -/
theorem State.filter_slateRead_of_write {s : State} {c : Cls} {w : WriteReq} {shown placed answers : List Emission} (hshown : shown.Perm (s.writePresents c w))
    (hplaced : ∀ x ∈ placed, isUnitRequest x = true) (hanswers : ∀ x ∈ answers, isAnswer x = true) :
    ((shown ++ placed ++ answers).filter isSlateRead).Perm (s.heldSlateReads (touchedSlots s.path.regions w.addr (keptEnables s.path.regions c w)) 0) := by
  have hwrite : (s.writePresents c w).filter isSlateRead = s.heldSlateReads (touchedSlots s.path.regions w.addr (keptEnables s.path.regions c w)) 0 := by
    unfold State.writePresents
    dsimp only
    rw [List.filter_append, List.filter_eq_self.mpr (fun x hx => State.mem_heldSlateReads hx), filter_eq_nil_of, List.nil_append]
    intro x hx
    split at hx
    · rw [List.mem_singleton.mp hx]
      rfl
    · cases hx
  rw [List.filter_append, List.filter_append, filter_eq_nil_of (fun x hx => not_slateRead_of_unitRequest (hplaced x hx)),
    filter_eq_nil_of (fun x hx => not_slateRead_of_answer (hanswers x hx)), List.append_nil, List.append_nil, ← hwrite]
  exact hshown.filter isSlateRead

theorem Part.heldOn_iff (slots : List (Nat × Nat)) (p : Part) : p.heldOn slots = true ↔ p.serving = .held ∧ (p.region, p.slot) ∈ slots := by
  simp [Part.heldOn]

theorem State.mem_heldSlateReads_iff {s : State} {slots : List (Nat × Nat)} {k : Fin 8} {x : Emission} :
    x ∈ s.heldSlateReads slots k ↔ ∃ e ∈ s.path.inflight, ∃ p ∈ e.parts, p.serving = .held ∧ (p.region, p.slot) ∈ slots ∧ x = s.slateRequest e.id p k := by
  simp only [State.heldSlateReads, List.mem_flatMap, List.mem_map, List.mem_filter, Part.heldOn_iff]
  constructor
  · rintro ⟨e, he, p, ⟨hp, hheld, hslot⟩, rfl⟩
    exact ⟨e, he, p, hp, hheld, hslot, rfl⟩
  · rintro ⟨e, he, p, hp, hheld, hslot, rfl⟩
    exact ⟨e, he, p, ⟨hp, hheld, hslot⟩, rfl⟩

theorem State.takeRequest_write_reaches {s : State} {w : WriteReq} {cmd : Instr} (hcmd : carriesWrite w cmd) (hroom : roomFor (handled w.cls) s)
    (hready : NoReadyOldest s) : ∃ t issued later, exec cmd s = .next t ∧ t.emitted = s.emitted ++ issued ∧
      t.path.inflight = s.path.inflight.map (fun e =>
        { e with parts := e.parts.map (madeStale (touchedSlots s.path.regions w.addr (keptEnables s.path.regions (handled w.cls) w))) }) ++ later ∧
      later = (if anyKept s w = false ∧ s.classList (handled w.cls) = [] then [] else
        [newInflight s (handled w.cls) (shownWrite s w) [] (writeAnswer (keptEnables s.path.regions (handled w.cls) w))]) ∧
      issued.filter isAnswer = (if anyKept s w = false ∧ s.classList (handled w.cls) = [] then
        [.answer s.path.nextId (handled w.cls) { data := [], err := false }] else []) ∧
      (issued.filter isSlateRead).Perm
        (s.heldSlateReads (touchedSlots s.path.regions w.addr (keptEnables s.path.regions (handled w.cls) w)) 0) := by
  obtain ⟨shown, placed, hshown, hplaced, hemitted, -⟩ := State.takeRequest_write_presents hroom
  have hanswers := drainList_answers (s.takeWrite (handled w.cls) w).path.inflight []
  have hdrain := State.takeWrite_drain hready w
  refine ⟨_, _, _, exec_carriesWrite hcmd s, hemitted, ?_, rfl, ?_, State.filter_slateRead_of_write hshown hplaced hanswers⟩
  · rw [(State.takeRequest_write_requests hroom).1, hdrain, ← Part.stale_eq_madeStale]
    split
    · exact (List.append_nil _).symm
    · exact s.takeWrite_inflight w
  · rw [State.filter_answer_of_write hshown hplaced hanswers, hdrain]
    repeat' split
    all_goals rfl

/-- Settles O20: the reads that a write meets become stale, its cell is handed over, and only its own acknowledgment can leave in the step. -/
theorem writesReachReadersAndMessageEngine : Obligations.WritesReachReadersAndMessageEngine := by
  refine ⟨fun s w cmd hcmd hroom hready => ?_, fun s w cmd r n hcmd hroom hplaced hwhole => ?_, fun s w cmd hcmd hroom hwhole => ?_,
    classify_table16, fun s cell h => State.handOver_of_not_control h, fun s cell k hk => ⟨State.handOver_of_badChecksum hk, fun hsum hkind => ⟨fun hfull => ?_, fun hq => ?_⟩⟩⟩
  · obtain ⟨t, issued, later, hexec, hemitted, hinflight, hlater, hanswers, hslates⟩ := State.takeRequest_write_reaches hcmd hroom hready
    have hmem : ∀ x, isSlateRead x = true → (x ∈ issued ↔
        x ∈ s.heldSlateReads (touchedSlots s.path.regions w.addr (keptEnables s.path.regions (handled w.cls) w)) 0) := fun x hx => by
      rw [← hslates.mem_iff, List.mem_filter, and_iff_left hx]
    refine ⟨t, issued, later, hexec, hemitted, hinflight, fun hkept => ?_, fun hkept hempty => ?_, fun hkept hnonempty => ?_, hanswers, hslates,
      fun e he p hp hheld hslot => ?_, fun a len id r n hissued => ?_⟩
    · have hanswer : writeAnswer (keptEnables s.path.regions (handled w.cls) w) = none := if_pos hkept
      rw [hlater, if_neg (fun h => Bool.noConfusion (hkept.symm.trans h.1)), hanswer]
      rfl
    · rw [hlater, if_pos ⟨hkept, hempty⟩]
    · have hanswer : writeAnswer (keptEnables s.path.regions (handled w.cls) w) = some { data := [], err := false } :=
        if_neg (by rw [hkept]; exact Bool.false_ne_true)
      rw [hlater, if_neg (fun h => hnonempty h.2), hanswer]
      rfl
    · exact (hmem _ rfl).mpr (State.mem_heldSlateReads_iff.mpr ⟨e, he, p, hp, hheld, hslot, rfl⟩)
    · obtain ⟨e, he, p, hp, hheld, hslot, hx⟩ := State.mem_heldSlateReads_iff.mp ((hmem _ rfl).mp hissued)
      cases hx
      exact ⟨hslot, e, he, rfl, p, hp, hheld, rfl, rfl⟩
  · have hframe := State.takeRequest_write_shown hroom
    refine ⟨_, exec_carriesWrite hcmd s, ?_⟩
    rw [hframe.engine, hframe.keys, hframe.conds, State.writeShown_whole hplaced hwhole]
    have htracked := s.handOver_withSlots (s.trackWrite (touchedSlots s.path.regions w.addr (keptEnables s.path.regions (handled w.cls) w)) (some (r, n)) w.data).slots
      (s.trackWrite (touchedSlots s.path.regions w.addr (keptEnables s.path.regions (handled w.cls) w)) (some (r, n)) w.data).path w.data
    have hengine := congrArg State.engine htracked
    have hkeys := congrArg State.keys htracked
    have hconds := congrArg State.conds htracked
    exact ⟨hengine, hkeys, hconds⟩
  · have hframe := State.takeRequest_write_shown hroom
    obtain ⟨hpartial, hconds⟩ := State.writeShown_partial hwhole
    exact ⟨_, exec_carriesWrite hcmd s, hframe.engine.trans hpartial.engine, hframe.keys.trans hpartial.keys,
      condsOnly_trans hconds (condsOnly_of_eq hframe.conds)⟩
  · rw [State.handOver_queued hk hsum hkind, State.queueOrDrop_full hfull]
  · rw [State.handOver_queued hk hsum hkind, State.queueOrDrop_room hq (by rcases hkind with rfl | rfl | rfl <;> exact nofun)]

end Sys2Proof.Machine

/-! Proofs: GRANT and KEY cells at their write (R32 to R36, R119 to R123), and where a new entry goes (R33, R34, R64, R71, R81). -/

namespace Sys2Proof.Machine

open Sys2Proof.Safety

set_option Elab.async false

/-! ### Fields and the checksum (R178, Tables 13-5, 13-6) -/

theorem cell_payloadFields (cell : List Byte) : payloadFields cell := fun p => ⟨rfl, le16_toNat cell (16 + p), le32_toNat cell (16 + p)⟩

theorem grant_table135 (cell : List Byte) : table135 cell := by
  refine ⟨rfl, rfl, le32_toNat cell 18, le16_toNat cell 18, le32_toNat cell 22, rfl, le16_toNat cell 27, ?_⟩
  show ((le16 cell 27).setWidth 8).toNat = _
  rw [BitVec.toNat_setWidth, le16_toNat]

theorem foldl_add_toNat (bs : List Byte) : ∀ a : Byte, (bs.foldl (· + ·) a).toNat = (a.toNat + (bs.map (·.toNat)).sum) % 256 := by
  induction bs with
  | nil => intro a; simpa using (Nat.mod_eq_of_lt a.isLt).symm
  | cons b bs ih =>
    intro a
    rw [List.foldl_cons, ih, BitVec.toNat_add, List.map_cons, List.sum_cons]
    omega

theorem sumBytes_toNat (bs : List Byte) : (sumBytes bs).toNat = (bs.map (·.toNat)).sum % 256 := by
  rw [sumBytes, foldl_add_toNat]
  simp

/-! ### Memberships (R32, R36) -/

theorem tableFind_map_some {α : Type} (xs : List α) (p : α → Bool) : tableFind (xs.map some) p = xs.find? p := by
  induction xs with
  | nil => rfl
  | cons x xs ih =>
    by_cases hp : p x = true
    · simp [tableFind, Option.filter, hp]
    · have hrest : tableFind (List.map some xs) p = xs.find? p := ih
      simpa [tableFind, Option.filter, hp] using hrest

theorem State.membership_membershipOf (s : State) (g : Group) : membershipOf s g (s.membership g) := by
  unfold State.membership
  refine ⟨fun hg => if_pos hg, fun hg => ?_⟩
  rw [if_neg hg, ← tableFind_map_some]
  exact tableFind_firstWith _ (by simp)

theorem State.membership_none {s : State} {g : Group} (h : g = 0 ∨ ∀ m ∈ s.purse.memberships, m.group ≠ g) : s.membership g = none := by
  unfold State.membership
  split
  · rename_i hg
    rfl
  · rename_i hg
    exact List.find?_eq_none.mpr (fun m hm => by simpa using (h.resolve_left hg) m hm)

theorem State.restoring_iff (s : State) : s.restoring = true ↔ ∃ j0 j1, s.store.st = .restoring j0 j1 := by
  unfold State.restoring
  split
  · exact ⟨fun _ => ⟨_, _, ‹_›⟩, fun _ => rfl⟩
  · rename_i hst
    exact ⟨fun h => (nomatch h), fun ⟨j0, j1, h⟩ => absurd h (hst j0 j1)⟩

/-! ### A GRANT cell (R120 to R122, Table 7-1) -/

theorem State.grantAddressed_iff (s : State) (cell : List Byte) :
    s.grantAddressed cell = true ↔ (grantTarget cell = 0 ∧ grantUnit cell = s.unit.number ∧ grantUnit cell ≠ 0) ∨
      (grantTarget cell = 1 ∧ s.membership (grantGroup cell) ≠ none ∧ (grantKind cell = 5 ∨ grantKind cell = 6)) := by
  unfold State.grantAddressed
  split
  · rename_i h0
    simp [h0]
  rename_i h0
  split
  · rename_i h1
    simp [h1, Option.ne_none_iff_isSome]
  · rename_i h1
    exact iff_of_false (by simp) (fun h => h.elim (fun h => h0 h.1) (fun h => h1 h.1))

/-- The operands that Table 7-1 rejects. -/
def grantRejected (cell : List Byte) : Prop :=
  grantKind cell = 0 ∨ 8 < (grantKind cell).toNat ∨ (grantKind cell = 1 ∧ 3 < (grantOp cell).toNat) ∨
    ((grantKind cell = 5 ∨ grantKind cell = 6) ∧ (1 < (grantOp cell).toNat ∨ (grantOp cell = 1 ∧ 255 < (grantIdent cell).toNat)))

theorem toNat_eq_iff_ofNat {k : Byte} {n : Nat} (hn : n < 256) : k.toNat = n ↔ k = BitVec.ofNat 8 n := by
  rw [← BitVec.toNat_inj, BitVec.toNat_ofNat, Nat.mod_eq_of_lt hn]

theorem grantOperandsOk_iff (cell : List Byte) : grantOperandsOk cell = true ↔ ¬ grantRejected cell := by
  have hop : ∀ n, n < 256 → ((grantOp cell).toNat = n ↔ grantOp cell = BitVec.ofNat 8 n) := fun n hn => toNat_eq_iff_ofNat hn
  have hkind : ∀ n, n < 256 → ((grantKind cell).toNat = n ↔ grantKind cell = BitVec.ofNat 8 n) := fun n hn => toNat_eq_iff_ofNat hn
  have hops := hop 0 (by decide)
  have hops1 := hop 1 (by decide)
  have h0 := hkind 0 (by decide)
  have h1 := hkind 1 (by decide)
  have h5 := hkind 5 (by decide)
  have h6 := hkind 6 (by decide)
  unfold grantOperandsOk grantRejected
  simp only [BitVec.ofNat_eq_ofNat] at *
  rw [← h0, ← h1, ← h5, ← h6]
  split
  · rename_i hk1
    rw [decide_eq_true_eq]
    omega
  rename_i hk1
  split
  · rename_i hk56
    rw [Bool.or_eq_true, Bool.and_eq_true, beq_iff_eq, beq_iff_eq, decide_eq_true_eq, ← hops, ← hops1]
    omega
  · rename_i hk56
    rw [decide_eq_true_eq]
    omega

theorem State.handOver_grant {s : State} {cell : List Byte} (h : classify (byteAt cell 0) = .control .grant) (hsum : sumBytes ((cell.drop 16).take 112) = 0) :
    s.handOver cell = s.takeGrantCell cell := by
  have hgood : (!checksumOk cell) = false := by simpa [checksumOk] using hsum
  unfold State.handOver
  rw [h]
  simp [hgood]

/-- Settles O21: the branches of the hand-over are the clauses, in their order. -/
theorem grantCellIsCheckedAtWrite : Obligations.GrantCellIsCheckedAtWrite := by
  refine ⟨fun cell => ⟨cell_payloadFields cell, grant_table135 cell⟩, sumBytes_toNat, State.membership_membershipOf, State.restoring_iff, fun s cell h => ?_⟩
  by_cases hsum : sumBytes ((cell.drop 16).take 112) ≠ 0
  · rw [if_pos hsum, State.handOver_of_badChecksum h hsum]
  · rw [if_neg hsum, State.handOver_grant h (Classical.not_not.mp hsum)]
    have haddress := State.grantAddressed_iff s cell
    have hrejected := grantOperandsOk_iff cell
    unfold grantRejected at hrejected
    unfold State.takeGrantCell
    by_cases hrestoring : s.restoring = true
    · rw [if_pos hrestoring, if_pos hrestoring]
    · rw [if_neg hrestoring, if_neg hrestoring]
      by_cases haddressed : s.grantAddressed cell = true
      · rw [if_neg (by simp [haddressed]), if_neg (Classical.not_not.mpr (haddress.mp haddressed))]
        by_cases hok : grantOperandsOk cell = true
        · rw [if_neg (by simp [hok]), if_neg (hrejected.mp hok)]
          by_cases hfull : 16 ≤ s.engine.queue.length
          · rw [if_pos hfull, State.queueOrDrop_full hfull]
          · rw [if_neg hfull, State.queueOrDrop_room (Nat.lt_of_not_le hfull) (k := .grant) nofun]
        · rw [if_pos (by simp [hok]), if_pos (Classical.not_not.mp (fun hnot => hok (hrejected.mpr hnot)))]
      · rw [if_pos (by simp [haddressed]), if_pos (fun h => haddressed (haddress.mpr h))]

/-! ### A KEY cell (R32 to R36) -/

theorem State.handOver_key {s : State} {cell : List Byte} (h : classify (byteAt cell 0) = .control .key) (hsum : sumBytes ((cell.drop 16).take 112) = 0) :
    s.handOver cell = s.takeKeyCell cell := by
  have hgood : (!checksumOk cell) = false := by simpa [checksumOk] using hsum
  unfold State.handOver
  rw [h]
  simp [hgood]

theorem keyGroup_toNat (cell : List Byte) : (keyGroup cell).toNat = leAt cell 16 2 := le16_toNat cell 16

theorem State.takeKeyCell_of_noMembership {s : State} {cell : List Byte} (h : s.membership (keyGroup cell) = none) : s.takeKeyCell cell = s := by
  unfold State.takeKeyCell
  rw [h]

theorem KeySlot.validFor_iff (k : KeySlot) (n : Period) : k.validFor n = true ↔ ∃ w, k = .valid n w := by
  cases k with
  | valid m w =>
    simp only [KeySlot.validFor, beq_iff_eq, KeySlot.valid.injEq]
    exact ⟨fun h => ⟨w, h, rfl⟩, fun ⟨_, h, _⟩ => h⟩
  | empty => exact ⟨fun h => (nomatch h), fun ⟨_, h⟩ => (nomatch h)⟩
  | pending m => exact ⟨fun h => (nomatch h), fun ⟨_, h⟩ => (nomatch h)⟩

theorem State.queueFull_iff (s : State) : s.queueFull = true ↔ 16 ≤ s.engine.queue.length := decide_eq_true_iff

/-- A KEY cell in an empty queue is at the head at once, and its membership's group key is looked up (R36, R123). -/
theorem State.enqueue_key {s u : State} {cell : List Byte} {m : Membership} (hm : s.membership (keyGroup cell) = some m) (hpurse : u.purse = s.purse)
    (hengine : u.engine = s.engine) :
    (u.enqueue ⟨.key, cell⟩).engine = { queue := s.engine.queue ++ [⟨.key, cell⟩], headKey := if s.engine.queue = [] then some m.key else s.engine.headKey } := by
  have hm' : u.membership (keyGroup cell) = some m := by
    rw [← hm]
    unfold State.membership
    rw [hpurse]
  simp [State.enqueue, State.headKeyFor, hm', hengine]

section
variable {s : State} {cell : List Byte} {m : Membership}

theorem State.takeKeyCell_duplicate {e : KeyEntry} (hm : s.membership (keyGroup cell) = some m) (he : s.keyEntry (parseHeader cell).service = some e)
    (hvalid : ∃ w, e.slot (parseHeader cell).parity = .valid (parseHeader cell).period w) : s.takeKeyCell cell = s := by
  unfold State.takeKeyCell
  simp only [hm, he, ((e.slot (parseHeader cell).parity).validFor_iff _).mpr hvalid, if_true]

theorem State.takeKeyCell_entry {e : KeyEntry} (hm : s.membership (keyGroup cell) = some m) (he : s.keyEntry (parseHeader cell).service = some e)
    (hnew : ∀ w, e.slot (parseHeader cell).parity ≠ .valid (parseHeader cell).period w) :
    s.takeKeyCell cell = if s.queueFull then s.book .cellDrop (.reason .queueFull) else State.enqueue ⟨.key, cell⟩
      (s.updateKey (parseHeader cell).service (fun e => some (e.setSlot (parseHeader cell).parity (.pending (parseHeader cell).period)))) := by
  have hvalid : ¬ (e.slot (parseHeader cell).parity).validFor (parseHeader cell).period = true := fun h => by
    obtain ⟨w, hw⟩ := (KeySlot.validFor_iff _ _).mp h
    exact hnew w hw
  unfold State.takeKeyCell
  simp only [hm, he, hvalid]
  rfl

theorem State.takeKeyCell_noPlace (hm : s.membership (keyGroup cell) = some m) (he : s.keyEntry (parseHeader cell).service = none)
    (hplace : allocate s.keys KeyEntry.evictKey = none) : s.takeKeyCell cell = s.book .cellDrop (.reason .keyTableFull) := by
  unfold State.takeKeyCell
  simp only [hm, he, hplace]

theorem State.takeKeyCell_place {i : Nat} (hm : s.membership (keyGroup cell) = some m) (he : s.keyEntry (parseHeader cell).service = none)
    (hplace : allocate s.keys KeyEntry.evictKey = some i) :
    s.takeKeyCell cell = if s.queueFull then s.book .cellDrop (.reason .queueFull) else State.enqueue ⟨.key, cell⟩
      { s with keys := s.keys.set i (some (newKeyEntry (parseHeader cell).service (parseHeader cell).parity (parseHeader cell).period s.now)) } := by
  unfold State.takeKeyCell
  simp only [hm, he, hplace]

end

/-- Settles O22: the cell is ignored, a duplicate, dropped, or marks its slot and joins the tail. -/
theorem keyCellMarksItsSlot : Obligations.KeyCellMarksItsSlot := by
  refine ⟨fun e odd k => ⟨rfl, rfl⟩, keyGroup_toNat, fun s cell h hsum hnone => ?_, fun s cell m e h hsum hm he => ⟨fun hvalid => ?_, fun hnew hfull => ?_, fun hnew hroom => ?_⟩⟩
  · rw [State.handOver_key h hsum]
    refine State.takeKeyCell_of_noMembership (State.membership_none (hnone.imp (fun hzero => ?_) (fun hother m hm heq => ?_)))
    · exact BitVec.eq_of_toNat_eq ((keyGroup_toNat cell).trans hzero)
    · exact hother m hm (by rw [heq, keyGroup_toNat])
  · rw [State.handOver_key h hsum, State.takeKeyCell_duplicate hm he hvalid]
  · rw [State.handOver_key h hsum, State.takeKeyCell_entry hm he hnew, if_pos ((s.queueFull_iff).mpr hfull)]
  · rw [State.handOver_key h hsum, State.takeKeyCell_entry hm he hnew, if_neg (fun hfull => absurd ((s.queueFull_iff).mp hfull) (Nat.not_le.mpr hroom))]
    obtain ⟨hsame, hother⟩ := s.updateKey_spec (parseHeader cell).service
      (fun e => e.setSlot (parseHeader cell).parity (.pending (parseHeader cell).period)) (fun e => e.setSlot_service _ _)
    refine ⟨changesOnly_trans (changesOnly_mono (s.updateKey_frame _ _) (by simp)) (changesOnly_mono (State.enqueue_frame _ _) (by simp)),
      State.enqueue_key hm rfl rfl, ?_, hother⟩
    exact hsame.trans (by rw [he]; rfl)

/-! ### Where a new entry goes -/

section
variable {α : Type} {t : List (Option α)} {key : α → Option Nat} {candidate : α → Nat → Prop}

/-- The candidates for eviction are the entries that have a key, their rank. -/
def ranksBy (t : List (Option α)) (key : α → Option Nat) (candidate : α → Nat → Prop) : Prop :=
  ∀ e, inUse t e → ∀ k, key e = some k ↔ candidate e k

theorem placeIn_of_allocate (hkey : ranksBy t key candidate) {i : Nat} (h : allocate t key = some i) : placeIn t candidate i := by
  rcases allocate_some h with ⟨hfree, hfirst⟩ | ⟨hfull, e, k, he, hk, hleast⟩
  · exact .inl ⟨hfree, hfirst⟩
  · refine .inr ⟨hfull, e, k, he, (hkey e (List.mem_of_getElem? he) k).mp hk, fun j f k' hf hcand => ?_⟩
    exact hleast j f k' hf ((hkey f (List.mem_of_getElem? hf) k').mpr hcand)

/-- There is one place at most. -/
theorem placeIn_unique {i j : Nat} (hi : placeIn t candidate i) (hj : placeIn t candidate j) : i = j := by
  rcases hi with ⟨hfree, hfirst⟩ | ⟨hfull, e, k, he, hcand, hleast⟩ <;> rcases hj with ⟨hfree', hfirst'⟩ | ⟨hfull', e', k', he', hcand', hleast'⟩
  · exact Nat.le_antisymm (Nat.le_of_not_lt (fun hlt => hfirst j hlt hfree')) (Nat.le_of_not_lt (fun hlt => hfirst' i hlt hfree))
  · exact absurd rfl (hfull' none (List.mem_of_getElem? hfree))
  · exact absurd rfl (hfull none (List.mem_of_getElem? hfree'))
  · have hij := hleast j e' k' he' hcand'
    have hji := hleast' i e k he hcand
    omega

theorem allocate_of_noPlaceIn (hkey : ranksBy t key candidate) (h : noPlaceIn t candidate) : allocate t key = none := by
  refine allocate_none.mpr (fun o ho => ?_)
  obtain ⟨e, rfl, hcand⟩ := h o ho
  refine ⟨e, rfl, ?_⟩
  cases hk : key e with
  | none => rfl
  | some k => exact absurd ((hkey e ho k).mp hk) (hcand k)

theorem noPlaceIn_of_allocate (hkey : ranksBy t key candidate) (h : allocate t key = none) : noPlaceIn t candidate := fun o ho => by
  obtain ⟨e, rfl, hk⟩ := allocate_none.mp h o ho
  refine ⟨e, rfl, fun k hcand => ?_⟩
  rw [(hkey e ho k).mpr hcand] at hk
  cases hk

theorem not_placeIn_of_noPlaceIn {i : Nat} (h : noPlaceIn t candidate) : ¬ placeIn t candidate i := by
  rintro (⟨hfree, -⟩ | ⟨-, e, k, he, hcand, -⟩)
  · obtain ⟨e, he, -⟩ := h none (List.mem_of_getElem? hfree)
    cases he
  · obtain ⟨e', he', hnone⟩ := h (some e) (List.mem_of_getElem? he)
    cases he'
    exact hnone k hcand

theorem allocate_of_placeIn (hkey : ranksBy t key candidate) {i : Nat} (h : placeIn t candidate i) : allocate t key = some i := by
  cases hplace : allocate t key with
  | none => exact absurd h (not_placeIn_of_noPlaceIn (noPlaceIn_of_allocate hkey hplace))
  | some j => rw [placeIn_unique (placeIn_of_allocate hkey hplace) h]

end

/-- A key bank entry that may be evicted, with its rank (R34). -/
def keyCandidate (e : KeyEntry) (k : Nat) : Prop := keyEvictable e = true ∧ k = e.lastUse.toNat

theorem KeyEntry.evictKey_iff (e : KeyEntry) (k : Nat) : e.evictKey = some k ↔ keyCandidate e k := by
  have hpending : (e.even.isPending || e.odd.isPending) = !keyEvictable e := by
    unfold keyEvictable
    cases e.even <;> cases e.odd <;> rfl
  unfold KeyEntry.evictKey keyCandidate
  rw [hpending]
  cases keyEvictable e <;> simp [eq_comm]

theorem keyRanks (t : List (Option KeyEntry)) : ranksBy t KeyEntry.evictKey keyCandidate := fun e _ k => e.evictKey_iff k

theorem keyPlace_iff (s : State) (i : Nat) : keyPlace s i ↔ placeIn s.keys keyCandidate i := by
  unfold keyPlace placeIn
  refine or_congr Iff.rfl (and_congr Iff.rfl ⟨?_, ?_⟩)
  · rintro ⟨e, he, hevict, hleast⟩
    exact ⟨e, _, he, ⟨hevict, rfl⟩, fun j f k' hf ⟨hfe, hk'⟩ => hk' ▸ hleast j f hf hfe⟩
  · rintro ⟨e, k, he, ⟨hevict, rfl⟩, hleast⟩
    exact ⟨e, he, hevict, fun j f hf hfe => hleast j f _ hf ⟨hfe, rfl⟩⟩

/-- Settles O23: a new service takes the place that the allocation finds; without a place or without room nothing is evicted. -/
theorem keyCellTakesAnEntry : Obligations.KeyCellTakesAnEntry := by
  intro s cell m h hsum hm he
  refine ⟨fun hfull => ?_, fun i hi => ⟨fun hqueue => ?_, fun hroom => ?_⟩⟩
  · rw [State.handOver_key h hsum]
    refine State.takeKeyCell_noPlace hm he (allocate_of_noPlaceIn (keyRanks s.keys) (fun o ho => ?_))
    obtain ⟨e, heq, hpending⟩ := hfull o ho
    exact ⟨e, heq, fun k hcand => Bool.noConfusion (hpending.symm.trans hcand.1)⟩
  · rw [State.handOver_key h hsum, State.takeKeyCell_place hm he (allocate_of_placeIn (keyRanks s.keys) ((keyPlace_iff s i).mp hi)),
      if_pos ((s.queueFull_iff).mpr hqueue)]
  · rw [State.handOver_key h hsum, State.takeKeyCell_place hm he (allocate_of_placeIn (keyRanks s.keys) ((keyPlace_iff s i).mp hi)),
      if_neg (fun hqueue => absurd ((s.queueFull_iff).mp hqueue) (Nat.not_le.mpr hroom))]
    refine ⟨?_, State.enqueue_key hm rfl rfl, ?_⟩
    · refine changesOnly_trans (t := { s with keys := s.keys.set i _ }) ?_ (changesOnly_mono (State.enqueue_frame _ _) (by simp))
      intro b hb
      cases b <;> first | rfl | simp at hb
    · show s.keys.set i _ = _
      unfold newKeyEntry KeyEntry.setSlot
      cases (parseHeader cell).parity <;> rfl

end Sys2Proof.Machine

/-! Proofs: ready answers (R145), what a read is answered with (R10 to R12), the verdict chain (R45 to R52), hold timers (R21), and which grants apply (R125). -/

namespace Sys2Proof.Machine

open Sys2Proof.Safety

set_option Elab.async false

/-! ### Ready answers (R145) -/

theorem Part.done_iff (p : Part) : p.done = true ↔ (∀ stale, p.serving ≠ .waiting stale) ∧ p.serving ≠ .held ∧ ∀ k, p.serving ≠ .slate k none := by
  unfold Part.done
  cases hs : p.serving with
  | slate k a => cases a <;> simp
  | _ => simp

theorem Inflight.ready_iff (e : Inflight) : e.ready = true ↔ e.answer ≠ none ∧
    ∀ p ∈ e.parts, (∀ stale, p.serving ≠ .waiting stale) ∧ p.serving ≠ .held ∧ ∀ k, p.serving ≠ .slate k none := by
  unfold Inflight.ready
  rw [Bool.and_eq_true, Option.isSome_iff_ne_none, List.all_eq_true]
  exact and_congr Iff.rfl (forall₂_congr fun p _ => p.done_iff)

/-- Settles O25: the drain takes each class list's ready answers from its oldest end. -/
theorem answersLeaveInArrivalOrder : Obligations.AnswersLeaveInArrivalOrder := by
  refine ⟨Inflight.ready_iff, fun s c => ?_, fun s => ⟨changesOnly_mono s.drain_frame (by simp), rfl, drainList_sublist _ _, _, rfl, drainList_answers _ _⟩, fun s c => ?_⟩
  · exact List.filter_congr (fun e _ => by rw [Bool.beq_eq_decide_eq])
  · obtain ⟨done, hlist, hready, -, hstop, hissued⟩ := drainList_spec c s.path.inflight []
    refine ⟨done, hlist, hready, hstop (by simp), ?_⟩
    have hdrop : s.drain.emitted.drop s.emitted.length = (drainList [] s.path.inflight).2 := List.drop_left
    rw [hdrop]
    exact hissued

/-! ### What a read is answered with (R10 to R12) -/

theorem Part.failed_iff (p : Part) : p.failed = true ↔ ∃ r sl, p.serving = .slate r (some sl) ∧ sl.err = true := by
  unfold Part.failed
  cases hs : p.serving with
  | slate k a =>
    cases a with
    | none => simp
    | some sl =>
      refine ⟨fun h => ⟨k, sl, rfl, h⟩, ?_⟩
      rintro ⟨r, sl', heq, h⟩
      cases heq
      exact h
  | _ => simp

theorem Inflight.final_data {e : Inflight} {a : Answer} (h : e.answer = some a) :
    e.final.data = a.data.mapIdx (fun i b => match e.parts.find? (fun p => p.covers i) with
      | some p => p.serve i b
      | none => b) := by
  obtain ⟨id, cls, req, parts, answer⟩ := e
  obtain rfl : answer = some a := h
  rfl

theorem Inflight.final_err {e : Inflight} {a : Answer} (h : e.answer = some a) : e.final.err = (a.err || e.parts.any Part.failed) := by
  unfold Inflight.final
  rw [h]

theorem Part.covers_iff (p : Part) (i : Nat) : p.covers i = true ↔ p.start ≤ i ∧ i < p.start + p.len := by
  simp [Part.covers]

theorem Part.serve_of {p : Part} {v : Serving} (h : p.serving = v) (i : Nat) (b : Byte) : p.serve i b = ({ p with serving := v } : Part).serve i b := by
  rw [← h]

/-- Settles O26: each byte is served by the first part that covers it. -/
theorem servedBytesFollowTheirParts : Obligations.ServedBytesFollowTheirParts := by
  intro e a i b ha hb
  have hbyte : ∀ r, e.parts.find? (fun p => p.covers i) = r →
      e.final.data[i]? = some (match r with
        | some p => p.serve i b
        | none => b) := by
    rintro r rfl
    rw [Inflight.final_data ha, List.getElem?_mapIdx, hb]
    rfl
  refine ⟨by rw [Inflight.final_data ha, List.length_mapIdx], ?_, fun hnone => ?_, fun p hp => ?_⟩
  · rw [Inflight.final_err ha, Bool.or_eq_true, List.any_eq_true]
    exact or_congr Iff.rfl (exists_congr fun p => and_congr Iff.rfl p.failed_iff)
  · exact hbyte none (List.find?_eq_none.mpr (fun p hp hcov => hnone p hp ((p.covers_iff i).mp hcov)))
  · have hserved := hbyte (some p) hp
    refine ⟨fun hv => ?_, fun w seed hv => ?_, fun r sl hv herr => ?_, fun r sl hv herr => ?_⟩
    all_goals rw [hserved]; dsimp only; rw [Part.serve_of hv]
    · rfl
    · rfl
    · simp [Part.serve, herr]
    · simp [Part.serve, herr]

/-! ### Memory's answer to a request without parts (R145, R152) -/

theorem find?_of_nodup {es : List Inflight} (hnodup : (es.map (·.id)).Nodup) {e : Inflight} (he : e ∈ es) : es.find? (fun x => x.id == e.id) = some e := by
  induction es with
  | nil => cases he
  | cons x es ih =>
    rw [List.map_cons, List.nodup_cons] at hnodup
    rcases List.mem_cons.mp he with rfl | hmem
    · simp
    · have hne : x.id ≠ e.id := fun h => hnodup.1 (h ▸ List.mem_map_of_mem hmem)
      rw [List.find?_cons_of_neg (by simpa using hne)]
      exact ih hnodup.2 hmem

theorem inflight_unique {es : List Inflight} (hnodup : (es.map (·.id)).Nodup) {e x : Inflight} (he : e ∈ es) (hx : x ∈ es) (h : x.id = e.id) : x = e := by
  have hfind := find?_of_nodup hnodup hx
  rw [h, find?_of_nodup hnodup he] at hfind
  exact (Option.some.inj hfind).symm

/-- The class list after the requests are changed in place, their classes kept. -/
theorem filter_class_map {es : List Inflight} {f : Inflight → Inflight} (hf : ∀ x, (f x).cls = x.cls) (c : Cls) :
    (es.map f).filter (fun x => x.cls == c) = (es.filter (fun x => x.cls == c)).map f := by
  rw [List.filter_map]
  congr 1
  exact List.filter_congr (fun x _ => by rw [Function.comp, hf])

/-- Request `id` takes its answer. -/
def takesAnswer (id : Nat) (a : Answer) (x : Inflight) : Inflight := if x.id = id then { x with answer := some a } else x

theorem takesAnswer_cls (id : Nat) (a : Answer) (x : Inflight) : (takesAnswer id a x).cls = x.cls := by
  unfold takesAnswer
  split <;> rfl

theorem takesAnswer_id (id : Nat) (a : Answer) (x : Inflight) : (takesAnswer id a x).id = x.id := by
  unfold takesAnswer
  split <;> rfl

/-- The state in which request `id` has its answer, before ready answers leave. -/
def State.answered (s : State) (id : Nat) (a : Answer) : State := { s with path := { s.path with inflight := s.path.inflight.map (takesAnswer id a) } }

section
variable {s : State} {a : Answer} {e : Inflight}

theorem State.memoryAnswer_of_noParts (hnodup : (s.path.inflight.map (·.id)).Nodup) (he : e ∈ s.path.inflight) (hanswer : e.answer = none) (hparts : e.parts = []) :
    s.memoryAnswer e.id a = (s.answered e.id a).drain := by
  have hset : s.setInflight e.id (fun x => { x with answer := some a, parts := [] }) = s.answered e.id a := by
    unfold State.setInflight State.answered
    refine congrArg (fun l => ({ s with path := { s.path with inflight := l } } : State)) (List.map_congr_left (fun x hx => ?_))
    unfold takesAnswer
    split
    · rename_i hid
      rw [inflight_unique hnodup he hx hid]
      exact congrArg (fun ps => ({ e with answer := some a, parts := ps } : Inflight)) hparts.symm
    · rename_i hid
      rfl
  unfold State.memoryAnswer
  rw [find?_of_nodup hnodup he]
  simp only [hanswer, hparts, settleParts, settledNow, List.zip_nil_left, List.filterMap_nil, State.slateReads, State.presentTogether, hset, Option.isSome_none,
    Bool.false_eq_true, if_false, ite_self]

theorem State.answered_classList (c : Cls) : (s.answered e.id a).classList c = (s.classList c).map (takesAnswer e.id a) :=
  filter_class_map (takesAnswer_cls e.id a) c

theorem Inflight.final_of_noParts (hparts : e.parts = []) : ({ e with answer := some a } : Inflight).final = a := by
  have hdata : a.data.mapIdx (fun _ b => b) = a.data := by simp [List.mapIdx_eq_zipIdx_map]
  simp [Inflight.final, hparts, hdata]

theorem takesAnswer_self : takesAnswer e.id a e = { e with answer := some a } := if_pos rfl

/-- The oldest request of its class leaves with its answer. -/
theorem State.answered_drain_head (hnodup : (s.path.inflight.map (·.id)).Nodup) (hparts : e.parts = []) (hhead : (s.classList e.cls).head? = some e) :
    .answer e.id e.cls a ∈ (drainList [] (s.answered e.id a).path.inflight).2 ∧ ∀ x ∈ (s.answered e.id a).drain.path.inflight, x.id ≠ e.id := by
  obtain ⟨done, hlist, hready, -, hstop, hissued⟩ := drainList_spec e.cls (s.answered e.id a).path.inflight []
  have hanswered := State.answered_classList (s := s) (a := a) (e := e) e.cls
  obtain ⟨rest, hrest⟩ : ∃ rest, s.classList e.cls = e :: rest := by
    cases hl : s.classList e.cls with
    | nil => rw [hl] at hhead; cases hhead
    | cons x rest => rw [hl] at hhead; cases hhead; exact ⟨rest, rfl⟩
  rw [hrest, List.map_cons, takesAnswer_self] at hanswered
  have hself : ({ e with answer := some a } : Inflight).ready = true := by simp [Inflight.ready, hparts]
  have hlist' := hanswered.symm.trans hlist
  cases done with
  | nil =>
    have hnot := hstop (by simp) { e with answer := some a } (by rw [List.nil_append] at hlist'; rw [← hlist']; rfl)
    exact absurd hself (by simp [hnot])
  | cons d done =>
    rw [List.cons_append, List.cons.injEq] at hlist'
    obtain ⟨rfl, -⟩ := hlist'
    refine ⟨?_, fun x hx hid => ?_⟩
    · have hmem : Emission.answer e.id e.cls a ∈ (drainList [] (s.answered e.id a).path.inflight).2.filter (answerOf e.cls) := by
        rw [hissued, List.map_cons, Inflight.final_of_noParts hparts]
        exact List.mem_cons_self
      exact (List.mem_filter.mp hmem).1
    · have hnodup' : ((s.answered e.id a).path.inflight.map (·.id)).Nodup := by
        show ((s.path.inflight.map (takesAnswer e.id a)).map (·.id)).Nodup
        rw [List.map_map, show (·.id) ∘ takesAnswer e.id a = (·.id) from funext (takesAnswer_id e.id a)]
        exact hnodup
      have hmember : ({ e with answer := some a } : Inflight) ∈ (s.answered e.id a).path.inflight :=
        (List.mem_filter.mp (show _ ∈ (s.answered e.id a).path.inflight.filter (fun x => x.cls == e.cls) by rw [hlist]; exact List.mem_cons_self)).1
      have hsame := inflight_unique hnodup' hmember ((drainList_sublist _ _).subset hx) hid
      subst hsame
      have hclass : (((s.answered e.id a).path.inflight.filter (fun x => x.cls == e.cls)).map (·.id)).Nodup := hnodup'.sublist (List.filter_sublist.map _)
      rw [hlist, List.cons_append, List.map_cons, List.nodup_cons] at hclass
      exact hclass.1 (List.mem_map_of_mem (List.mem_append_right _ (List.mem_filter.mpr ⟨hx, beq_self_eq_true _⟩)))

/-- A request that is not the oldest of its class keeps its answer with it. -/
theorem State.answered_noReadyOldest (hnodup : (s.path.inflight.map (·.id)).Nodup) (he : e ∈ s.path.inflight) (hidle : NoReadyOldest s)
    (hhead : (s.classList e.cls).head? ≠ some e) : NoReadyOldest (s.answered e.id a) := by
  intro c x hx
  rw [State.answered_classList, List.head?_map] at hx
  obtain ⟨y, hy, rfl⟩ := Option.map_eq_some_iff.mp hx
  have hmem := List.mem_filter.mp (List.mem_of_head? hy)
  unfold takesAnswer
  split
  · rename_i hid
    have hsame := inflight_unique hnodup he hmem.1 hid
    subst hsame
    have hcls : y.cls = c := by simpa using hmem.2
    exact absurd (hcls ▸ hy) hhead
  · rename_i hid
    exact hidle c y hy

end

/-- Settles O24: the request takes its answer, and the drain returns it exactly where it is the oldest of its class. -/
theorem forwardedAnswerIsReturnedInOrder : Obligations.ForwardedAnswerIsReturnedInOrder := by
  rintro s id a e hnodup he rfl hanswer hparts
  have hexec : exec (.forwardedAnswer e.id a) s = .next (s.answered e.id a).drain :=
    congrArg Host.Outcome.next (State.memoryAnswer_of_noParts hnodup he hanswer hparts)
  refine ⟨hexec, _, (drainList [] (s.answered e.id a).path.inflight).2, hexec, ?_, rfl, rfl, rfl, State.answered_drain_head hnodup hparts, fun hidle hhead => ?_⟩
  · refine changesOnly_trans (t := s.answered e.id a) ?_ (changesOnly_mono (State.drain_frame _) (by simp))
    intro b hb
    cases b <;> first | rfl | simp at hb
  · have hquiet := State.answered_noReadyOldest (a := a) hnodup he hidle hhead
    have hnone : drainList [] (s.answered e.id a).path.inflight = (_, []) := drainList_of_noneReady hquiet
    rw [State.drain_of_noReady _ hquiet]
    exact ⟨congrArg Prod.snd hnone, List.mem_map.mpr ⟨e, he, takesAnswer_self⟩⟩

/-! ### The verdict chain (R45 to R52, Table 3-1) -/

theorem State.fixture_firstWith (s : State) (u : Tag) : firstWith s.fixtures (fun e => e.tag = u) (s.fixture u) := tableFind_firstWith _ (by simp)

theorem blackedOut_iff (zone : Zone) (sch : Schedule) : blackedOut zone sch = true ↔ zone ≠ 0 ∧ zone ∈ sch.blackout := by
  simp [blackedOut]

theorem State.runChain_slate {s : State} {h : Header} {r : Fin 8} (hend : s.chainTest h = .slate r) : s.runChain h = (.slate r, s) := by
  unfold State.runChain
  rw [hend]

theorem State.runChain_check {s : State} {h : Header} {o : Origin} (hend : s.chainTest h = .keyCheck o) : s.runChain h = s.checkKey o h := by
  unfold State.runChain
  rw [hend]

/-- Where the chain ends for a tag whose entry has a schedule part. -/
theorem State.chainTest_scheduled {s : State} {h : Header} {e : FixtureEntry} {sch : Schedule} {ph : Phase} (hrun : s.clock.running = true) (htag : h.tag ≠ 0)
    (he : s.fixture h.tag = some e) (hst : e.standing = .scheduled sch ph) : s.chainTest h = chainScheduled s.purse.zone h.service e sch ph := by
  unfold State.chainTest
  rw [if_neg (fun h => Bool.noConfusion (hrun.symm.trans h.1)), if_neg htag, he]
  simp only [hst]

/-- Settles O28: the branches of the chain are the steps of Table 3-1, in their order. -/
theorem verdictChainFollowsItsTable : Obligations.VerdictChainFollowsItsTable := by
  refine ⟨State.fixture_firstWith, fun s h => ⟨fun hrun htag => ?_, fun htag => ?_, fun hrun htag hnone => ?_, fun e hrun htag he => ⟨fun hst => ?_, fun sch ph hst => ?_⟩⟩⟩
  · exact State.runChain_slate (if_pos ⟨hrun, htag⟩)
  · exact State.runChain_check (by simp [State.chainTest, htag])
  · exact State.runChain_slate (by unfold State.chainTest; rw [if_neg (fun h => Bool.noConfusion (hrun.symm.trans h.1)), if_neg htag, hnone])
  · exact State.runChain_check (by unfold State.chainTest; rw [if_neg (fun h => Bool.noConfusion (hrun.symm.trans h.1)), if_neg htag, he]; simp only [hst])
  · have hend := State.chainTest_scheduled hrun htag he hst
    unfold chainScheduled at hend
    refine ⟨fun hsvc => State.runChain_slate (hend.trans (if_pos hsvc)), fun hsvc hover => ?_, fun hsvc hcancelled hretired => ?_⟩
    · rw [if_neg (Classical.not_not.mpr hsvc), if_pos hover] at hend
      exact State.runChain_slate hend
    · rw [if_neg (Classical.not_not.mpr hsvc), if_neg (not_or.mpr ⟨hcancelled, hretired⟩)] at hend
      refine ⟨fun hblack => ?_, fun hclear => ?_⟩
      · rw [if_pos ((blackedOut_iff _ _).mpr hblack)] at hend
        exact State.runChain_slate hend
      · rw [if_neg (fun hblack => hclear ((blackedOut_iff _ _).mp hblack))] at hend
        refine ⟨fun hkind => ?_, fun hkind hph => ?_, fun hkind hph => ?_, fun hkind hph hleft => ?_, fun hkind hph hleft hallow => ?_, fun hkind hph hleft hallow => ?_⟩
        · exact State.runChain_check (hend.trans (if_pos hkind))
        all_goals rw [if_neg (Classical.not_not.mpr hkind)] at hend
        · exact State.runChain_slate (hend.trans (if_pos hph))
        · exact State.runChain_slate (by simpa [hph] using hend)
        all_goals
          have hended : ph ≠ .ended := by rintro rfl; simp at hph
          have hlisted : ph ≠ .listed := by rintro rfl; simp at hph
          rw [if_neg hended, if_neg hlisted] at hend
        · exact State.runChain_check (hend.trans (if_pos hleft))
        all_goals rw [if_neg (by rw [hleft]; exact Nat.lt_irrefl 0)] at hend
        · exact State.runChain_slate (hend.trans (if_pos hallow))
        · exact State.runChain_slate (hend.trans (if_neg (Classical.not_not.mpr hallow)))

/-! ### Frames with the dirty marks -/

/-- A frame that lets the retention unit change says nothing of its marks. -/
theorem changesOnly_of_framed {as bs : List Block} {s t : State} (h : framed as s t) (hsub : ∀ b ∈ as, b ∈ bs := by decide) (hstore : .store ∈ bs := by decide) :
    changesOnly bs s t := by
  intro b hb
  have hsame := h.into hsub b hb
  cases b
  case store => exact absurd hstore hb
  all_goals exact hsame

/-! ### The hold timer (R21) -/

theorem State.finishHold_frame (s : State) (r n : Nat) (h : Header) (v : Verdict) : changesOnly [.path, .slots, .emitted] s (s.finishHold r n h v) := by
  rw [State.finishHold_eq]
  refine changesOnly_trans (t := s.settleHold r n h v) ?_ ?_
  · intro b hb
    cases b <;> first | rfl | simp at hb
  · obtain ⟨-, -, -, -, -, -, -, hframe⟩ := (s.settleHold r n h v).presentTogether_spec (s.endReads r n v)
    exact changesOnly_mono hframe (by simp)

theorem State.finishHold_path (s : State) (r n : Nat) (h : Header) (v : Verdict) :
    (s.finishHold r n h v).path.inflight = s.path.inflight.map (fun e => { e with parts := e.parts.map (Part.endHold r n h v) }) ∧
      mapKept s (s.finishHold r n h v) ∧ (s.finishHold r n h v).path.nextId = s.path.nextId ∧
      ∃ issued, issued.Perm (s.endReads r n v) ∧ presentedAs issued s (s.finishHold r n h v) := by
  rw [State.finishHold_eq]
  obtain ⟨issued, hperm, hemitted, hown, hregions, hinflight, hnext, -⟩ := (s.settleHold r n h v).presentTogether_spec (s.endReads r n v)
  exact ⟨hinflight, hregions, hnext, issued, hperm, hemitted, hown⟩

theorem State.finishHold_slotAt (s : State) (r n : Nat) (h : Header) (v : Verdict) (r' n' : Nat) :
    (s.finishHold r n h v).slotAt r' n' = (s.latch r n v).slotAt r' n' := by
  rw [State.finishHold_eq]
  exact State.slotAt_of_slots ((s.settleHold r n h v).presentTogether_framed _).slots r' n'

theorem State.expireHold_held {s : State} {r n : Nat} {h : Header} {o : Origin} {svc : Service} {odd : Bool} {per : Period}
    (hst : s.slotAt r n = some (.program h (.held o svc odd per))) : s.expireHold r n = (s.finishHold r n h (.slate 4)).drain := by
  unfold State.expireHold
  rw [hst]

theorem State.expireHold_other {s : State} {r n : Nat} (hst : ∀ h o svc odd per, s.slotAt r n ≠ some (.program h (.held o svc odd per))) : s.expireHold r n = s := by
  unfold State.expireHold
  split
  · exact absurd ‹_› (hst _ _ _ _ _)
  · rfl

/-- Settles O31: the hold ends with SLATE(4); no other slot and no flag changes. -/
theorem holdExpiryLatchesNoKey : Obligations.HoldExpiryLatchesNoKey := by
  refine fun s r n => ⟨fun h o svc odd per hst => ?_, fun hst => congrArg Host.Outcome.next (State.expireHold_other hst)⟩
  obtain ⟨hinflight, hregions, -, -⟩ := s.finishHold_path r n h (.slate 4)
  refine ⟨_, congrArg Host.Outcome.next (State.expireHold_held hst), ?_, hregions, ?_, fun r' n' hother => ?_, fun e he p hp hr hn hheld => ?_⟩
  · exact changesOnly_trans (s.finishHold_frame r n h (.slate 4)) (changesOnly_mono (State.drain_frame _) (by simp))
  · exact (State.finishHold_slotAt ..).trans (by rw [State.latch_slotAt, if_pos ⟨rfl, rfl⟩, hst]; rfl)
  · exact (State.finishHold_slotAt ..).trans (by rw [State.latch_slotAt, if_neg hother])
  · have hmem := (drainList_sublist _ _).subset he
    rw [hinflight] at hmem
    obtain ⟨e', -, rfl⟩ := List.mem_map.mp hmem
    obtain ⟨q, -, rfl⟩ := List.mem_map.mp hp
    obtain ⟨-, heq, hnot⟩ := Part.endHold_held (nofun : endServing h (.slate 4) ≠ .held) hheld
    exact hnot (by rw [heq] at hr hn; exact ⟨hr, hn⟩)

/-! ### Which grants apply (R123, R125, R128) -/

theorem State.headCell_iff (s : State) (k : CtrlKind) (cell : List Byte) : s.headCell k = some cell ↔ ∃ rest, s.engine.queue = ⟨k, cell⟩ :: rest := by
  refine ⟨State.headCell_some, fun ⟨rest, hq⟩ => ?_⟩
  simp [State.headCell, hq]

theorem State.headGrant_iff (s : State) (is : List Byte → Bool) (cell : List Byte) :
    s.headGrant is = some cell ↔ s.headCell .grant = some cell ∧ is cell = true := by
  unfold State.headGrant
  cases s.headCell .grant with
  | none => simp
  | some c =>
    by_cases hc : is c = true
    · simp only [hc, if_true, Option.some.injEq]
      exact ⟨fun h => ⟨h, h ▸ hc⟩, fun h => h.1⟩
    · simp only [hc, Option.some.injEq]
      exact iff_of_false nofun (fun ⟨h, his⟩ => hc (h ▸ his))

theorem isGrant_iff (k : Nat) (cell : List Byte) : isGrant k cell = true ↔ (grantKind cell).toNat = k := by
  simp [isGrant]

theorem isGrantOf_iff (k target : Nat) (cell : List Byte) : isGrantOf k target cell = true ↔ (grantKind cell).toNat = k ∧ (grantOp cell).toNat = target := by
  simp [isGrantOf, isGrant]

theorem State.advanceSeq_purse (s : State) (cell : List Byte) : (s.advanceSeq cell).purse = if grantTarget cell = 1 then s.purse else sequenced s cell := by
  unfold State.advanceSeq
  split
  · rfl
  · rw [State.setPurse_purse]
    rfl

theorem State.grantApplies_iff (s : State) (cell : List Byte) : s.grantApplies cell = true ↔
    (grantTarget cell = 1 ∧ s.membership (grantGroup cell) ≠ none) ∨
      (grantTarget cell = 0 ∧ grantUnit cell = s.unit.number ∧ s.purse.lastSeq.toNat < (grantSeq cell).toNat) := by
  unfold State.grantApplies
  split
  · rename_i h1
    rw [Option.isSome_iff_ne_none]
    exact ⟨fun h => .inl ⟨h1, h⟩, fun h => h.elim And.right (fun ⟨h0, _⟩ => absurd (h0.symm.trans h1) (by decide))⟩
  · rename_i h1
    rw [Bool.and_eq_true, Bool.and_eq_true, beq_iff_eq, beq_iff_eq, decide_eq_true_eq, and_assoc]
    exact ⟨Or.inr, fun h => h.resolve_left (fun h => h1 h.1)⟩

/-- A completion command of grants is a completion with its owner (R128). -/
theorem exec_of_grantOf {cmd : Instr} {is : List Byte → Bool} (h : grantOf cmd = some is) : ∃ owner, ∀ s, exec cmd s = .next (s.completeGrant is owner) := by
  cases cmd
  case groupSet | zoneSet | purseTopup | limitsSet | entitleFixture | entitlePass | revokeFixture | revokePass | logAck | nightReset =>
    cases h
    exact ⟨_, fun _ => rfl⟩
  all_goals cases h

theorem State.completeGrant_noHead {s : State} {is : List Byte → Bool} (h : s.headGrant is = none) (owner : List Byte → State → State) : s.completeGrant is owner = s := by
  unfold State.completeGrant
  rw [h]

theorem State.completeGrant_setAside {s : State} {is : List Byte → Bool} {cell : List Byte} (h : s.headGrant is = some cell) (happlies : s.grantApplies cell = false)
    (owner : List Byte → State → State) : s.completeGrant is owner = { s with engine := headLeft s s.purse.memberships } := by
  unfold State.completeGrant
  simp only [h, happlies, Bool.false_eq_true, if_false]
  exact s.popCell_eq

theorem State.completeGrant_applied {s : State} {is : List Byte → Bool} {cell : List Byte} (h : s.headGrant is = some cell) (happlies : s.grantApplies cell = true)
    (owner : List Byte → State → State) : s.completeGrant is owner = (owner cell (s.advanceSeq cell)).popCell := by
  unfold State.completeGrant
  simp only [h, happlies, if_true]

/-- Settles O35: a grant that does not apply leaves the queue and changes nothing else. -/
theorem staleGrantsAreSetAside : Obligations.StaleGrantsAreSetAside := by
  refine ⟨State.headCell_iff, State.headGrant_iff, fun k target cell => ⟨isGrant_iff k cell, isGrantOf_iff k target cell⟩, State.advanceSeq_purse, fun s cmd is hgrant => ?_⟩
  obtain ⟨owner, hexec⟩ := exec_of_grantOf hgrant
  refine ⟨fun hnone => ?_, fun cell hcell => ⟨s.grantApplies_iff cell, fun hnot => ?_⟩⟩
  · rw [hexec, State.completeGrant_noHead hnone]
  · rw [hexec, State.completeGrant_setAside hcell hnot]

end Sys2Proof.Machine

/-! Proofs: memory's answers to gated reads (R10, R13, R14, R17, R23), and completions of KEY cells that fill nothing (R37, R38). -/

namespace Sys2Proof.Machine

open Sys2Proof.Safety

set_option Elab.async false

/-! ### Parts settled one after the other (R13, R23, assumption log 27) -/

theorem settleParts_cons (p : Part) (ps : List Part) (s : State) :
    settleParts (p :: ps) s = ((settlePart p s).1 :: (settleParts ps (settlePart p s).2).1, (settleParts ps (settlePart p s).2).2) := rfl

theorem settleParts_length (ps : List Part) : ∀ s : State, (settleParts ps s).1.length = ps.length := by
  induction ps with
  | nil => exact fun _ => rfl
  | cons p ps ih => exact fun s => by rw [settleParts_cons, List.length_cons, List.length_cons, ih]

/-- The state in which part `i` is judged. -/
def judgedFrom (ps : List Part) (s : State) (i : Nat) : State := (settleParts (ps.take i) s).2

theorem judgedFrom_succ (ps : List Part) : ∀ (s : State) (i : Nat) (p : Part), ps[i]? = some p →
    judgedFrom ps s (i + 1) = (settlePart p (judgedFrom ps s i)).2 ∧ (settleParts ps s).1[i]? = some (settlePart p (judgedFrom ps s i)).1 := by
  induction ps with
  | nil => exact fun _ _ _ h => nomatch h
  | cons q ps ih =>
    intro s i p hp
    cases i with
    | zero =>
      cases hp
      exact ⟨rfl, rfl⟩
    | succ i =>
      obtain ⟨hstate, hpart⟩ := ih (settlePart q s).2 i p hp
      exact ⟨hstate, hpart⟩

theorem judgedFrom_length (ps : List Part) (s : State) : judgedFrom ps s ps.length = (settleParts ps s).2 := by
  rw [judgedFrom, List.take_length]

/-! ### What settling one part does -/

theorem settlePart_stale {p : Part} (h : p.serving = .waiting true) (s : State) : settlePart p s = ({ p with serving := .slate 0 none }, s) := by
  unfold settlePart
  rw [h]

theorem settlePart_undecided {p : Part} {s : State} {h : Header} (hp : p.serving = .waiting false) (hst : s.slotAt p.region p.slot = some (.program h .undecided)) :
    settlePart p s = ({ p with serving := servingOf h (s.runChain h).1 }, (s.runChain h).2.latch p.region p.slot (s.runChain h).1) := by
  unfold settlePart
  rw [hp]
  dsimp only
  rw [hst]

theorem settlePart_decided {p : Part} {s : State} {h : Header} {v : Verdict} (hp : p.serving = .waiting false) (hst : s.slotAt p.region p.slot = some (.program h v))
    (hv : v ≠ .undecided) : settlePart p s = ({ p with serving := servingOf h v }, s) := by
  unfold settlePart
  rw [hp]
  dsimp only
  rw [hst]
  cases v with
  | undecided => exact absurd rfl hv
  | _ => rfl

theorem settlePart_settled {p : Part} (h : ∀ b, p.serving ≠ .waiting b) (s : State) : settlePart p s = (p, s) := by
  unfold settlePart
  split
  · exact absurd ‹_› (h true)
  · exact absurd ‹_› (h false)
  · rfl

/-- Only a part that waits on an UNDECIDED slot changes the state. -/
theorem settlePart_state {p : Part} {s : State} (h : p.serving ≠ .waiting false ∨ ∀ hd, s.slotAt p.region p.slot ≠ some (.program hd .undecided)) :
    (settlePart p s).2 = s := by
  unfold settlePart
  split
  · rfl
  · rename_i hp
    have hslot := h.resolve_left (fun hnot => hnot hp)
    split
    · exact absurd ‹_› (hslot _)
    · rfl
    · rfl
  · rfl

theorem settlePart_serving (p : Part) (s : State) : (settlePart p s).1 = { p with serving := (settlePart p s).1.serving } := by
  unfold settlePart
  split
  · rfl
  · split <;> rfl
  · rfl

/-! ### Memory's answer to a read with parts -/

section
variable {s : State} {id : Nat} {a : Answer} {e : Inflight}

/-- The state after a clean answer, before ready answers leave. -/
def State.settledBy (s : State) (id : Nat) (a : Answer) (e : Inflight) : State :=
  State.presentTogether ((settleParts e.parts s).2.slateReads id (settledNow e.parts (settleParts e.parts s).1))
    ((settleParts e.parts s).2.setInflight id (fun x => { x with answer := some a, parts := (settleParts e.parts s).1 }))

theorem State.memoryAnswer_clean (hfind : s.path.inflight.find? (fun x => x.id == id) = some e) (hanswer : e.answer = none) (herr : a.err = false) :
    s.memoryAnswer id a = (s.settledBy id a e).drain := by
  unfold State.memoryAnswer
  rw [hfind]
  simp only [hanswer, herr, Option.isSome_none, Bool.false_eq_true, if_false]
  rfl

theorem State.memoryAnswer_failed (hfind : s.path.inflight.find? (fun x => x.id == id) = some e) (hanswer : e.answer = none) (herr : a.err = true) :
    s.memoryAnswer id a = (s.setInflight id (fun x => { x with answer := some a, parts := [] })).drain := by
  unfold State.memoryAnswer
  rw [hfind]
  simp only [hanswer, herr, Option.isSome_none, Bool.false_eq_true, if_false, if_true]

theorem State.setInflight_frame (s : State) (id : Nat) (f : Inflight → Inflight) : changesOnly [.path] s (s.setInflight id f) := by
  intro b hb
  cases b <;> first | rfl | simp at hb

theorem State.settledBy_frame (s : State) (id : Nat) (a : Answer) (e : Inflight) : changesOnly [.path, .emitted] (settleParts e.parts s).2 (s.settledBy id a e) := by
  obtain ⟨-, -, -, -, -, -, -, hframe⟩ := State.presentTogether_spec
    ((settleParts e.parts s).2.setInflight id (fun x => { x with answer := some a, parts := (settleParts e.parts s).1 }))
    ((settleParts e.parts s).2.slateReads id (settledNow e.parts (settleParts e.parts s).1))
  exact changesOnly_trans (changesOnly_mono (State.setInflight_frame _ _ _) (by simp)) (changesOnly_mono hframe (by simp))

/-- What the port and the requests in flight are after a clean answer. -/
theorem State.settledBy_path (s : State) (id : Nat) (a : Answer) (e : Inflight) :
    mapKept s (s.settledBy id a e) ∧ (s.settledBy id a e).path.nextId = s.path.nextId ∧
      (s.settledBy id a e).path.inflight = s.path.inflight.map (fun x => if x.id = id then { x with answer := some a, parts := (settleParts e.parts s).1 } else x) ∧
      ∃ issued, issued.Perm ((settleParts e.parts s).2.slateReads id (settledNow e.parts (settleParts e.parts s).1)) ∧ presentedAs issued s (s.settledBy id a e) := by
  have hsettled := settleParts_frame e.parts s
  have hpath : (settleParts e.parts s).2.path = s.path := hsettled .path (by simp)
  have hemitted : (settleParts e.parts s).2.emitted = s.emitted := hsettled .emitted (by simp)
  obtain ⟨issued, hperm, hissued, hown, hregions, hinflight, hnext, -⟩ := State.presentTogether_spec
    ((settleParts e.parts s).2.setInflight id (fun x => { x with answer := some a, parts := (settleParts e.parts s).1 }))
    ((settleParts e.parts s).2.slateReads id (settledNow e.parts (settleParts e.parts s).1))
  refine ⟨hregions.trans (congrArg (·.regions) hpath), hnext.trans (congrArg (·.nextId) hpath), hinflight.trans ?_, issued, hperm, ?_, ?_⟩
  · exact congrArg (fun path : MemoryPath => path.inflight.map (fun x => if x.id = id then { x with answer := some a, parts := (settleParts e.parts s).1 } else x)) hpath
  · exact hissued.trans (congrArg (· ++ issued) hemitted)
  · have hports := congrArg (fun path : MemoryPath => path.own ++ issued.filterMap ownOf) hpath
    exact hown.trans hports

theorem settleParts_stale {ps : List Part} (h : ∀ p ∈ ps, p.serving = .waiting true) (s : State) :
    settleParts ps s = (ps.map (fun p => { p with serving := .slate 0 none }), s) := by
  induction ps with
  | nil => rfl
  | cons p ps ih => rw [settleParts_cons, settlePart_stale (h p List.mem_cons_self), ih (fun q hq => h q (List.mem_cons_of_mem _ hq))]; rfl

end

/-- Settles O27: the parts are judged one after the other, and only a part that waits on an UNDECIDED slot runs the chain. -/
theorem firstCleanAnswerLatchesVerdict : Obligations.FirstCleanAnswerLatchesVerdict := by
  intro s id a e hfind hanswer
  have hclean : a.err = false → exec (.gatedReadAnswer id a) s = .next (s.settledBy id a e).drain :=
    fun herr => congrArg Host.Outcome.next (State.memoryAnswer_clean hfind hanswer herr)
  have hdrained : ∀ u : State, changesOnly [.path, .emitted] u u.drain := fun u => changesOnly_mono u.drain_frame (by simp)
  have hfailed : a.err = true → exec (.gatedReadAnswer id a) s = .next (s.setInflight id (fun x => { x with answer := some a, parts := [] })).drain :=
    fun herr => congrArg Host.Outcome.next (State.memoryAnswer_failed hfind hanswer herr)
  refine ⟨fun p h herr hparts hp hst => ?_, fun herr => ?_, hfailed, fun hquiet => ?_⟩
  · have hsettled : (settleParts e.parts s).2 = (s.runChain h).2.latch p.region p.slot (s.runChain h).1 := by
      rw [hparts, settleParts_cons, settlePart_undecided hp hst]
      rfl
    have hframe := changesOnly_trans (s.settledBy_frame id a e) (hdrained _)
    rw [hsettled] at hframe
    have hchain := s.runChain_frame h
    have hslots : ∀ r n, (s.settledBy id a e).drain.slotAt r n = ((s.runChain h).2.latch p.region p.slot (s.runChain h).1).slotAt r n :=
      State.slotAt_of_slots (hframe .slots (by simp))
    have hsame : ∀ r n, (s.runChain h).2.slotAt r n = s.slotAt r n := State.slotAt_of_slots (hchain .slots (by simp))
    refine ⟨_, hclean herr, ?_, (s.settledBy_path id a e).1, ?_, fun r n hother => ?_, hframe .keys (by simp), hframe .fixtures (by simp), hframe .store (by simp)⟩
    · exact changesOnly_trans (changesOnly_mono hchain (by simp)) (changesOnly_trans (changesOnly_mono (State.latch_frame _ _ _ _) (by simp)) (changesOnly_mono hframe (by simp)))
    · rw [hslots, State.latch_slotAt, if_pos ⟨rfl, rfl⟩, hsame, hst]
      rfl
    · rw [hslots, State.latch_slotAt, if_neg hother, hsame]
  · refine ⟨judgedFrom e.parts s, _, hclean herr, rfl, ?_, fun i p hp => ?_⟩
    · rw [judgedFrom_length]
      exact changesOnly_trans (s.settledBy_frame id a e) (hdrained _)
    · obtain ⟨hstate, -⟩ := judgedFrom_succ e.parts s i p hp
      exact ⟨fun h hwait hst => hstate.trans (congrArg Prod.snd (settlePart_undecided hwait hst)), fun hnot => hstate.trans (settlePart_state hnot)⟩
  · by_cases herr : a.err = true
    · refine ⟨_, hfailed herr, changesOnly_trans (changesOnly_mono (State.setInflight_frame _ _ _) (by simp)) (hdrained _), rfl, fun e' he' hid => ⟨fun _ => ?_, fun hno => ?_⟩⟩
      · obtain ⟨x, -, rfl⟩ := List.mem_map.mp ((drainList_sublist _ _).subset he')
        split at hid
        · rw [if_pos hid]
        · exact absurd hid ‹_›
      · exact absurd (hno.symm.trans herr) (by decide)
    · have herr : a.err = false := by simpa using herr
      have hstale := hquiet.resolve_left (fun h => absurd (herr.symm.trans h) (by decide))
      have hsettled := settleParts_stale hstale s
      have hframe := s.settledBy_frame id a e
      rw [hsettled] at hframe
      obtain ⟨hregions, -, hinflight, -⟩ := s.settledBy_path id a e
      refine ⟨_, hclean herr, changesOnly_trans hframe (hdrained _), hregions, fun e' he' hid => ⟨fun h => absurd (herr.symm.trans h) (by decide), fun _ p hp => ?_⟩⟩
      have hmem := (drainList_sublist _ _).subset he'
      rw [hinflight, hsettled] at hmem
      obtain ⟨x, -, rfl⟩ := List.mem_map.mp hmem
      split at hid
      · rw [if_pos hid] at hp
        obtain ⟨q, -, rfl⟩ := List.mem_map.mp hp
        rfl
      · exact absurd hid ‹_›

/-! ### A completion that fills nothing (R37, R38) -/

theorem State.complete_head {s : State} {k : CtrlKind} {cell : List Byte} (h : s.headCell k = some cell) (effect : List Byte → State → State) :
    s.complete k effect = (effect cell s).popCell := by
  unfold State.complete
  rw [h]

theorem headLeft_of {s u : State} (h : u.engine = s.engine) (ms : List Membership) : headLeft u ms = headLeft s ms := by
  unfold headLeft
  rw [h]

/-- The queue's head leaves a state whose queue and memberships are those of `s` (R123). -/
theorem State.popCell_of {s u : State} (hengine : u.engine = s.engine) (hms : u.purse.memberships = s.purse.memberships) :
    u.popCell = { u with engine := headLeft s s.purse.memberships } := by
  rw [State.popCell_eq, headLeft_of hengine, hms]

theorem State.pendingFor_iff (s : State) (h : Header) :
    s.pendingFor h = true ↔ ∃ e, s.keyEntry h.service = some e ∧ e.slot h.parity = .pending h.period := by
  unfold State.pendingFor
  cases he : s.keyEntry h.service with
  | none => simp
  | some e => simp

theorem State.completeKey_unmatched {s : State} {cell : List Byte} (h : s.pendingFor (parseHeader cell) = false) : State.completeKey cell s = s := by
  unfold State.completeKey
  simp only [h, Bool.false_eq_true, if_false]

theorem State.completeKey_noKey {s : State} {cell : List Byte} (h : s.pendingFor (parseHeader cell) = true) (hkey : s.engine.headKey = none) :
    State.completeKey cell s = s.emptyKey (parseHeader cell) := by
  unfold State.completeKey
  simp only [h, if_true]
  rw [hkey]

theorem State.completeKey_fill {s : State} {cell : List Byte} {gk : Key} (h : s.pendingFor (parseHeader cell) = true) (hkey : s.engine.headKey = some gk) :
    State.completeKey cell s =
      fillHolds (parseHeader cell).service (parseHeader cell).parity (parseHeader cell).period s.slots
        (s.fillKey (parseHeader cell) (unwrap gk (parseHeader cell).seq (pay32 cell 2) (pay32 cell 6))) := by
  unfold State.completeKey
  simp only [h, if_true]
  rw [hkey]
  rfl

section
variable {α : Type} {t : List (Option α)} {p : α → Bool} {g : α → Option α}

/-- A lookup whose test picks out entries that stand finds what it found. -/
theorem tableFind_bind_other (hp : ∀ e e', g e = some e' → p e' = p e) (hkeep : ∀ e, p e = true → g e = some e) :
    tableFind (t.map (fun o => o.bind g)) p = tableFind t p := by
  cases hfind : tableFind t p with
  | some e => exact tableFind_bind hp hfind (hkeep e (tableFind_some hfind).2)
  | none =>
    cases hnew : tableFind (t.map (fun o => o.bind g)) p with
    | none => rfl
    | some e' =>
      obtain ⟨hin, hpe⟩ := tableFind_some hnew
      obtain ⟨e, he, hge⟩ := inUse_bind hin
      exact absurd (hpe.symm.trans (hp e e' hge)) (by simp [tableFind_none hfind e he])

end

/-- The key bank table after an update, entry by entry. -/
def keyUpdate (svc : Service) (f : KeyEntry → Option KeyEntry) (e : KeyEntry) : Option KeyEntry := if e.service == svc then f e else some e

theorem keyUpdate_service {svc : Service} {f : KeyEntry → Option KeyEntry} (hf : ∀ e e', f e = some e' → e'.service = e.service) (v : Service) (e e' : KeyEntry)
    (h : keyUpdate svc f e = some e') : (e'.service == v) = (e.service == v) := by
  unfold keyUpdate at h
  split at h
  · rw [hf e e' h]
  · cases h
    rfl

section
variable {s : State} {svc v : Service} {f : KeyEntry → Option KeyEntry} {e e' : KeyEntry} (hf : ∀ e e', f e = some e' → e'.service = e.service)
include hf

/-- A changed or freed entry is that of its service alone. -/
theorem State.updateKey_other (hv : v ≠ svc) : (s.updateKey svc f).keyEntry v = s.keyEntry v := by
  refine tableFind_bind_other (g := keyUpdate svc f) (keyUpdate_service hf v) (fun e he => if_neg (fun hsvc => hv ?_))
  rw [← beq_iff_eq.mp he, beq_iff_eq.mp hsvc]

theorem State.updateKey_same (he : s.keyEntry svc = some e) (hfe : f e = some e') : (s.updateKey svc f).keyEntry svc = some e' :=
  tableFind_bind (g := keyUpdate svc f) (keyUpdate_service hf svc) he ((if_pos (tableFind_some he).2).trans hfe)

/-- The entry of a service goes where the update frees it: its service stands in one entry (R29). -/
theorem State.updateKey_freed (hs : KeyBankSound s) (he : s.keyEntry svc = some e) (hfe : f e = none) : (s.updateKey svc f).keyEntry svc = none := by
  cases hnew : (s.updateKey svc f).keyEntry svc with
  | none => rfl
  | some x' =>
    obtain ⟨hin, hx'⟩ := tableFind_some hnew
    obtain ⟨x, hx, hgx⟩ := inUse_bind hin
    have hservice : x.service = svc := by
      have hkept := keyUpdate_service hf svc x x' hgx
      rw [hx'] at hkept
      exact beq_iff_eq.mp hkept.symm
    obtain ⟨he', hesvc⟩ := tableFind_some he
    have hsame : x = e := keyed_unique hs.1 hx he' (hservice.trans (beq_iff_eq.mp hesvc).symm)
    rw [hsame, if_pos hesvc, hfe] at hgx
    cases hgx

end

theorem KeyEntry.slot_setSlot (e : KeyEntry) (odd : Bool) (k : KeySlot) : (e.setSlot odd k).slot odd = k ∧ (e.setSlot odd k).slot (!odd) = e.slot (!odd) := by
  cases odd <;> exact ⟨rfl, rfl⟩

/-- Settles O33: without a match the completion is discarded; without a group key the PENDING slot is emptied and the entry freed where nothing is left in it. -/
theorem unwrapWithoutMatchOrMembership : Obligations.UnwrapWithoutMatchOrMembership := by
  intro s cell rest hq hidle
  have hhead := (s.headCell_iff .key cell).mpr ⟨rest, hq⟩
  have hpop : ∀ u : State, State.completeKey cell s = u → changesOnly [.keys] s u →
      exec .unwrapCompletion s = .next { u with engine := headLeft s s.purse.memberships } := fun u hu hframe => by
    have hidle' : NoReadyOldest u.popCell := noReadyOldest_of_inflight (congrArg (·.inflight) (hframe .path (by simp))) hidle
    have hexec : exec .unwrapCompletion s = .next (s.complete .key State.completeKey).drain := rfl
    rw [hexec, State.complete_head hhead, hu, State.drain_of_noReady _ hidle',
      State.popCell_of (hframe .engine (by simp)) (congrArg (·.memberships) (hframe .purse (by simp)))]
  refine ⟨fun hnone => hpop s (State.completeKey_unmatched ?_) (changesOnly_refl _ s), fun e hkey he hslot => ?_⟩
  · refine Bool.eq_false_iff.mpr (fun hpending => ?_)
    obtain ⟨e, he, hslot⟩ := (s.pendingFor_iff _).mp hpending
    exact hnone e he hslot
  · have hempty := State.completeKey_noKey ((s.pendingFor_iff _).mpr ⟨e, he, hslot⟩) hkey
    have hservice : ∀ x x' : KeyEntry, (if x.slot (!(parseHeader cell).parity) = .empty then none else some (x.setSlot (parseHeader cell).parity .empty)) = some x' →
        x'.service = x.service := fun x x' hx => by
      split at hx
      · cases hx
      · cases hx
        exact x.setSlot_service _ _
    refine ⟨_, hpop _ hempty (s.updateKey_frame _ _), ?_, rfl, fun hother => ?_, fun svc hsvc => ?_, fun hs hother => ?_⟩
    · refine changesOnly_trans (t := s.emptyKey (parseHeader cell)) (changesOnly_mono (s.updateKey_frame _ _) (by simp)) ?_
      intro b hb
      cases b <;> first | rfl | simp at hb
    · exact State.updateKey_same hservice he (if_neg hother)
    · exact State.updateKey_other hservice hsvc
    · exact State.updateKey_freed hservice hs he (if_pos hother)

end Sys2Proof.Machine

/-! Proofs: dirty marks over several updates (R65, R87, R108), and the end of holds by a fill (R20, R37, R41). -/

namespace Sys2Proof.Machine

open Sys2Proof.Safety

set_option Elab.async false

/-! ### Dirty marks over two updates -/

theorem ne_or_iff {α : Type} {a b c : α} (h : b = a ∨ c = b) : c ≠ a ↔ b ≠ a ∨ c ≠ b := by
  rcases h with rfl | rfl <;> simp

/-- The schedule part of an entry whose tag is in the queue changes (R65). -/
def queuedChange (queue : List Tag) (xs ys : List (Option FixtureEntry)) : Prop :=
  ∃ (i : Nat) (a b : FixtureEntry), xs[i]? = some (some a) ∧ ys[i]? = some (some b) ∧ b.tag ∈ queue ∧ a.schedule ≠ b.schedule

theorem not_queuedChange_refl (queue : List Tag) (xs : List (Option FixtureEntry)) : ¬ queuedChange queue xs xs := by
  rintro ⟨i, a, b, ha, hb, -, hne⟩
  rw [ha] at hb
  cases hb
  exact hne rfl

theorem keepsChanged_iff (s t : State) : keepsChanged s t ↔ t.fixtures.map keptFixture ≠ s.fixtures.map keptFixture ∨ t.refunds ≠ s.refunds ∨
    queuedChange s.refunds s.fixtures t.fixtures ∨ t.passes.map keptPass ≠ s.passes.map keptPass := Iff.rfl

theorem or_regroup {a a' b b' c c' d d' : Prop} : ((a ∨ a') ∨ (b ∨ b') ∨ (c ∨ c') ∨ (d ∨ d')) ↔ (a ∨ b ∨ c ∨ d) ∨ (a' ∨ b' ∨ c' ∨ d') := by
  grind

/-- Two updates that change different things change together what either changes. -/
theorem keepsChanged_seq {s u t : State} (hfixtures : u.fixtures = s.fixtures ∨ t.fixtures = u.fixtures) (hrefunds : u.refunds = s.refunds ∨ t.refunds = u.refunds)
    (hpasses : u.passes = s.passes ∨ t.passes = u.passes) : keepsChanged s t ↔ keepsChanged s u ∨ keepsChanged u t := by
  rw [keepsChanged_iff, keepsChanged_iff, keepsChanged_iff, ne_or_iff (hfixtures.imp (congrArg (List.map keptFixture)) (congrArg (List.map keptFixture))),
    ne_or_iff hrefunds, ne_or_iff (hpasses.imp (congrArg (List.map keptPass)) (congrArg (List.map keptPass)))]
  by_cases hchanged : u.refunds = s.refunds
  · have hqueued : queuedChange s.refunds s.fixtures t.fixtures ↔ queuedChange s.refunds s.fixtures u.fixtures ∨ queuedChange u.refunds u.fixtures t.fixtures := by
      rw [hchanged]
      rcases hfixtures with h | h
      · rw [h]
        exact (or_iff_right (not_queuedChange_refl _ _)).symm
      · rw [h]
        exact (or_iff_left (not_queuedChange_refl _ _)).symm
    rw [hqueued]
    exact or_regroup
  · exact iff_of_true (.inr (.inl (.inl hchanged))) (.inl (.inr (.inl hchanged)))

theorem or_regroup_marks {d a a' b b' : Prop} : ((d ∨ a ∨ b) ∨ a' ∨ b') ↔ d ∨ (a ∨ a') ∨ b ∨ b' := by
  grind

theorem marksFollow_of_keeps {s u t : State} (h : marksFollow s u) (h' : marksFollow u t) (hpurse : u.purse = s.purse ∨ t.purse = u.purse)
    (hlog : u.log = s.log ∨ t.log = u.log) (hkeeps : keepsChanged s t ↔ keepsChanged s u ∨ keepsChanged u t) : marksFollow s t := by
  obtain ⟨hstore, h0, h1, h2⟩ := h
  obtain ⟨hstore', h0', h1', h2'⟩ := h'
  have hnext := ne_or_iff (hlog.imp (congrArg PurchaseLog.next) (congrArg PurchaseLog.next))
  refine ⟨?_, ?_, ?_, ?_⟩
  · rw [hstore'.trans (by rw [hstore])]
  · rw [h0', h0, ne_or_iff hpurse, hnext]
    exact or_regroup_marks
  · rw [h1', h1, ne_or_iff hlog]
    exact or_assoc
  · rw [h2', h2, hkeeps]
    exact or_assoc

/-- Two updates that change different things mark together what changes. -/
theorem marksFollow_seq {s u t : State} (h : marksFollow s u) (h' : marksFollow u t) (hpurse : u.purse = s.purse ∨ t.purse = u.purse)
    (hlog : u.log = s.log ∨ t.log = u.log) (hfixtures : u.fixtures = s.fixtures ∨ t.fixtures = u.fixtures) (hrefunds : u.refunds = s.refunds ∨ t.refunds = u.refunds)
    (hpasses : u.passes = s.passes ∨ t.passes = u.passes) : marksFollow s t :=
  marksFollow_of_keeps h h' hpurse hlog (keepsChanged_seq hfixtures hrefunds hpasses)

/-- Only purse, log, fixtures, refund queue, passes and retention unit count for the marks. -/
theorem marksFollow_of_same {s t t' : State} (h : marksFollow s t) (hpurse : t'.purse = t.purse) (hlog : t'.log = t.log) (hfixtures : t'.fixtures = t.fixtures)
    (hrefunds : t'.refunds = t.refunds) (hpasses : t'.passes = t.passes) (hstore : t'.store = t.store) : marksFollow s t' := by
  unfold marksFollow keepsChanged at *
  rw [hpurse, hlog, hfixtures, hrefunds, hpasses, hstore]
  exact h

/-! ### Fixture entries that only gain what S2 keeps -/

/-- What S2 keeps of an entry. -/
abbrev Kept := Option (Tag × Kind × Bool)

section
variable {rank : Kept → Nat}

/-- What is kept stands, or moves up in a rank. -/
def keptStep (rank : Kept → Nat) (k k' : Kept) : Prop := k' = k ∨ rank k < rank k'

theorem keptStep.trans {k k' k'' : Kept} (h : keptStep rank k k') (h' : keptStep rank k' k'') : keptStep rank k k'' := by
  rcases h with rfl | h
  · exact h'
  · rcases h' with rfl | h'
    · exact .inr h
    · exact .inr (Nat.lt_trans h h')

/-- What has moved up does not come back. -/
theorem keptStep.noReturn {k k' k'' : Kept} (h : keptStep rank k k') (h' : keptStep rank k' k'') (heq : k'' = k) : k' = k := by
  rcases h with rfl | h
  · rfl
  · rcases h' with rfl | h'
    · exact heq
    · rw [heq] at h'
      omega

/-- Each place of the fixture table keeps its schedule part, and what S2 keeps of it stands or moves up; purse, log, refund queue and passes stand. -/
structure advances (rank : Kept → Nat) (s t : State) : Prop where
  length : t.fixtures.length = s.fixtures.length
  kept : ∀ (i : Nat) (a b : Option FixtureEntry), s.fixtures[i]? = some a → t.fixtures[i]? = some b → keptStep rank (keptFixture a) (keptFixture b) ∧
    b.bind FixtureEntry.schedule = a.bind FixtureEntry.schedule
  purse : t.purse = s.purse
  log : t.log = s.log
  refunds : t.refunds = s.refunds
  passes : t.passes = s.passes

theorem advances.refl (s : State) : advances rank s s := by
  refine ⟨rfl, fun i a b ha hb => ?_, rfl, rfl, rfl, rfl⟩
  rw [ha] at hb
  cases hb
  exact ⟨.inl rfl, rfl⟩

theorem getElem?_some_of_length {α : Type} {xs ys : List α} (h : ys.length = xs.length) {i : Nat} {x : α} (hx : xs[i]? = some x) : ∃ y, ys[i]? = some y := by
  obtain ⟨hi, -⟩ := List.getElem?_eq_some_iff.mp hx
  exact ⟨ys[i]'(h ▸ hi), List.getElem?_eq_getElem _⟩

theorem advances.trans {s u t : State} (h : advances rank s u) (h' : advances rank u t) : advances rank s t := by
  refine ⟨h'.length.trans h.length, fun i a b ha hb => ?_, h'.purse.trans h.purse, h'.log.trans h.log, h'.refunds.trans h.refunds, h'.passes.trans h.passes⟩
  obtain ⟨c, hc⟩ := getElem?_some_of_length h.length ha
  obtain ⟨hkept, hsched⟩ := h.kept i a c ha hc
  obtain ⟨hkept', hsched'⟩ := h'.kept i c b hc hb
  exact ⟨hkept.trans hkept', hsched'.trans hsched⟩

theorem advances.keepsChanged_iff {s t : State} (h : advances rank s t) : keepsChanged s t ↔ t.fixtures.map keptFixture ≠ s.fixtures.map keptFixture := by
  refine ⟨?_, .inl⟩
  rintro (hkept | hqueue | ⟨i, a, b, ha, hb, -, hne⟩ | hpass)
  · exact hkept
  · exact absurd h.refunds hqueue
  · exact absurd (h.kept i _ _ ha hb).2.symm hne
  · exact absurd (by rw [h.passes]) hpass

theorem advances.noReturn {s u t : State} (h : advances rank s u) (h' : advances rank u t) (heq : t.fixtures.map keptFixture = s.fixtures.map keptFixture) :
    u.fixtures.map keptFixture = s.fixtures.map keptFixture := by
  refine List.ext_getElem? (fun i => ?_)
  rw [List.getElem?_map, List.getElem?_map]
  cases ha : s.fixtures[i]? with
  | none =>
    have hnone : u.fixtures[i]? = none := by
      rw [List.getElem?_eq_none_iff] at ha ⊢
      rw [h.length]
      exact ha
    rw [hnone]
  | some a =>
    obtain ⟨c, hc⟩ := getElem?_some_of_length h.length ha
    obtain ⟨b, hb⟩ := getElem?_some_of_length h'.length hc
    have hback : keptFixture b = keptFixture a := by
      have hi := congrArg (fun l => l[i]?) heq
      simpa [ha, hb] using hi
    rw [hc, Option.map_some, Option.map_some, (h.kept i a c ha hc).1.noReturn (h'.kept i c b hc hb).1 hback]

/-- Two updates of fixture entries, each of which only adds to what S2 keeps. -/
theorem marksFollow_advances {s u t : State} (h : marksFollow s u) (ha : advances rank s u) (h' : marksFollow u t) (ha' : advances rank u t) : marksFollow s t := by
  refine marksFollow_of_keeps h h' (.inl ha.purse) (.inl ha.log) ?_
  rw [(ha.trans ha').keepsChanged_iff, ha.keepsChanged_iff, ha'.keepsChanged_iff]
  refine ⟨fun hne => ?_, fun hor heq => ?_⟩
  · by_cases hsame : u.fixtures.map keptFixture = s.fixtures.map keptFixture
    · exact .inr (hsame ▸ hne)
    · exact .inl hsame
  · have hback := ha.noReturn ha' heq
    exact hor.elim (fun h => h hback) (fun h => h (heq.trans hback.symm))

theorem State.setFixtures_advances (s : State) {g : Option FixtureEntry → Option FixtureEntry}
    (hg : ∀ o, keptStep rank (keptFixture o) (keptFixture (g o)) ∧ (g o).bind FixtureEntry.schedule = o.bind FixtureEntry.schedule) : advances rank s (s.setFixtures (s.fixtures.map g)) := by
  refine ⟨List.length_map _, fun i a b ha hb => ?_, rfl, rfl, rfl, rfl⟩
  have hb' : (s.fixtures.map g)[i]? = some b := hb
  rw [List.getElem?_map, ha, Option.map_some, Option.some.injEq] at hb'
  rw [← hb']
  exact hg a

theorem State.updateFixture_advances (s : State) (t : Tag) {f : FixtureEntry → FixtureEntry}
    (hf : ∀ e, e.tag = t → keptStep rank (keptFixture (some e)) (keptFixture (some (f e))) ∧ (f e).schedule = e.schedule) : advances rank s (s.updateFixture t f) := by
  refine s.setFixtures_advances (g := fun o => o.bind (fun e => if e.tag == t then some (f e) else some e)) (fun o => ?_)
  cases o with
  | none => exact ⟨.inl rfl, rfl⟩
  | some e =>
    by_cases htag : e.tag = t
    · simpa [htag] using hf e htag
    · simpa [htag] using (⟨.inl rfl, rfl⟩ : keptStep rank (keptFixture (some e)) (keptFixture (some e)) ∧ e.schedule = e.schedule)

end

/-- How much S2 keeps of an entry: nothing, an entitlement, or one that has been viewed. -/
def viewedRank : Kept → Nat
  | none => 0
  | some (_, _, false) => 1
  | some (_, _, true) => 2

theorem State.applyOrigin_advances (s : State) (o : Origin) (t : Tag) : advances viewedRank s (s.applyOrigin o t) := by
  cases o
  case plain => exact advances.refl s
  case preview => exact s.updateFixture_advances t (fun e _ => ⟨.inl rfl, rfl⟩)
  case entitled =>
    refine s.updateFixture_advances t (fun e _ => ?_)
    by_cases hkind : e.kind = .none
    · rw [if_pos hkind]
      exact ⟨.inl rfl, rfl⟩
    · rw [if_neg hkind]
      refine ⟨?_, rfl⟩
      cases hviewed : e.viewed <;> simp [keptStep, keptFixture, viewedRank, hkind, hviewed]

end Sys2Proof.Machine

/-! Proofs: the end of holds by a fill (R20, R37, R41), and how answers, fills and hold timers settle parts (R11 to R21). -/

namespace Sys2Proof.Machine

open Sys2Proof.Safety

set_option Elab.async false

/-! ### The holds that a fill ends (R20) -/

/-- A hold that a fill ends: its slot, the captured header and the hold's origin. -/
structure FilledHold where
  region : Nat
  number : Nat
  header : Header
  origin : Origin

section
variable (svc : Service) (odd : Bool) (per : Period) (w : Key)

/-- The hold of a slot record, where it awaits this service, parity and period. -/
def filledHold (x : Slot) : Option FilledHold :=
  match x.st with
  | .program h (.held o svc' odd' per') => if svc' = svc ∧ odd' = odd ∧ per' = per then some ⟨x.region, x.number, h, o⟩ else none
  | _ => none

theorem filledHold_eq_some_iff {x : Slot} {y : FilledHold} :
    filledHold svc odd per x = some y ↔ x.region = y.region ∧ x.number = y.number ∧ x.st = .program y.header (.held y.origin svc odd per) := by
  unfold filledHold
  split
  · rename_i h o svc' odd' per' hst
    split
    · rename_i hmatch
      obtain ⟨rfl, rfl, rfl⟩ := hmatch
      rw [Option.some.injEq, hst]
      constructor
      · rintro rfl
        exact ⟨rfl, rfl, rfl⟩
      · rintro ⟨hr, hn, hy⟩
        cases hy
        rw [hr, hn]
    · rename_i hmatch
      rw [hst]
      refine iff_of_false nofun (fun ⟨_, _, hy⟩ => hmatch ?_)
      cases hy
      exact ⟨rfl, rfl, rfl⟩
  · rename_i hst
    exact iff_of_false nofun (fun ⟨_, _, hy⟩ => hst _ _ _ _ _ hy)

/-- One hold ends CLEAR under the filled word: the verdict is latched, the held parts are served, and the key check's effects are taken (R20, R41, R62). -/
def State.endFilled (s : State) (y : FilledHold) : State :=
  ((s.touchKey svc).applyOrigin y.origin y.header.tag).settleHold y.region y.number y.header (.clear w)

/-- The slot that was filled answers every check for its period. -/
def filledWith (s : State) : Prop := ∃ e, s.keyEntry svc = some e ∧ e.slot odd = .valid per w

variable {svc odd per w}

theorem filledWith.keyCheck {s : State} (h : filledWith svc odd per w s) : s.keyCheck svc odd per = .clear w := by
  obtain ⟨e, he, hslot⟩ := h
  rw [State.keyCheck_some he, hslot, KeySlot.check_valid, if_pos rfl]

theorem State.endFilled_keys (s : State) (y : FilledHold) : (s.endFilled svc w y).keys = (s.touchKey svc).keys :=
  ((s.touchKey svc).applyOrigin_frame y.origin y.header.tag) .keys (by simp)

theorem State.keyEntry_of_keys {s t : State} (h : t.keys = s.keys) (v : Service) : t.keyEntry v = s.keyEntry v := by
  unfold State.keyEntry
  rw [h]

theorem filledWith.endFilled {s : State} (h : filledWith svc odd per w s) (y : FilledHold) : filledWith svc odd per w (s.endFilled svc w y) := by
  obtain ⟨e, he, hslot⟩ := h
  refine ⟨{ e with lastUse := s.now }, ?_, ?_⟩
  · rw [State.keyEntry_of_keys (s.endFilled_keys y), (s.touchKey_spec svc).1, he]
    rfl
  · rw [← hslot]
    rfl

theorem fillHolds_eq (rs : List Slot) : ∀ {s : State}, filledWith svc odd per w s →
    fillHolds svc odd per rs s = (rs.filterMap (filledHold svc odd per)).foldl (State.endFilled svc w) s := by
  induction rs with
  | nil => exact fun _ => rfl
  | cons x rs ih =>
    intro s h
    have hstep : ∀ hd o, s.endHoldByFill svc odd per x.region x.number hd o = s.endFilled svc w ⟨x.region, x.number, hd, o⟩ := fun hd o => by
      unfold State.endHoldByFill
      rw [h.keyCheck]
      exact State.finishHold_eq _ _ _ _ _
    unfold fillHolds
    split
    · rename_i hd o svc' odd' per' hst
      split
      · rename_i hmatch
        obtain ⟨rfl, rfl, rfl⟩ := hmatch
        have hx : filledHold svc' odd' per' x = some ⟨x.region, x.number, hd, o⟩ := (filledHold_eq_some_iff _ _ _).mpr ⟨rfl, rfl, hst⟩
        rw [List.filterMap_cons_some hx, List.foldl_cons, hstep]
        exact ih (h.endFilled _)
      · rename_i hmatch
        have hx : filledHold svc odd per x = none := by
          simp only [filledHold, hst, if_neg hmatch]
        rw [List.filterMap_cons_none hx]
        exact ih h
    · rename_i hst
      have hx : filledHold svc odd per x = none := Option.eq_none_iff_forall_ne_some.mpr (fun y hy => hst _ _ _ _ _ ((filledHold_eq_some_iff _ _ _).mp hy).2.2)
      rw [List.filterMap_cons_none hx]
      exact ih h

end

/-! ### What the ends of holds do, one after the other -/

section
variable {svc : Service} {w : Key}

/-- Nothing but slots, parts, the key bank entry and the fixture flags changes. -/
theorem State.endFilled_frame (s : State) (y : FilledHold) : changesOnly [.path, .slots, .keys, .fixtures, .store] s (s.endFilled svc w y) := by
  have htouch : changesOnly [.keys] s (s.touchKey svc) := s.updateKey_frame _ _
  have hset := (s.touchKey svc).applyOrigin_frame y.origin y.header.tag
  refine changesOnly_trans (changesOnly_mono htouch (by simp)) (changesOnly_trans (changesOnly_mono hset (by simp)) ?_)
  intro b hb
  cases b <;> first | rfl | simp at hb

theorem endFilled_all_frame (ys : List FilledHold) : ∀ s : State, changesOnly [.path, .slots, .keys, .fixtures, .store] s (ys.foldl (State.endFilled svc w) s) := by
  induction ys with
  | nil => exact fun s => changesOnly_refl _ s
  | cons y ys ih => exact fun s => changesOnly_trans (s.endFilled_frame y) (ih _)

theorem State.now_of_frame {bs : List Block} {s t : State} (h : changesOnly bs s t) (hb : .clock ∉ bs) : t.now = s.now := by
  have hclock : t.clock = s.clock := h .clock hb
  unfold State.now
  rw [hclock]

/-- The entry of the service takes the clock value as its last use where a hold ends, and nothing else of the table changes. -/
theorem endFilled_all_keyEntry (ys : List FilledHold) : ∀ (s : State) {e : KeyEntry}, s.keyEntry svc = some e →
    (ys.foldl (State.endFilled svc w) s).keyEntry svc = some (if ys = [] then e else { e with lastUse := s.now }) ∧
      ∀ v, v ≠ svc → (ys.foldl (State.endFilled svc w) s).keyEntry v = s.keyEntry v := by
  induction ys with
  | nil => exact fun s e he => ⟨by rw [if_pos rfl]; exact he, fun _ _ => rfl⟩
  | cons y ys ih =>
    intro s e he
    obtain ⟨hsame, hother⟩ := s.touchKey_spec svc
    have hkeys := State.keyEntry_of_keys (s.endFilled_keys (svc := svc) (w := w) y)
    have hone : (s.endFilled svc w y).keyEntry svc = some { e with lastUse := s.now } := by
      rw [hkeys, hsame, he]
      rfl
    obtain ⟨hthis, hrest⟩ := ih (s.endFilled svc w y) hone
    have hnow : (s.endFilled svc w y).now = s.now := State.now_of_frame (s.endFilled_frame y) (by simp)
    refine ⟨?_, fun v hv => (hrest v hv).trans ((hkeys v).trans (hother v hv))⟩
    rw [List.foldl_cons, hthis, if_neg (List.cons_ne_nil y ys), hnow, ite_self]

/-- A latch of CLEAR. -/
def clearedBy (w : Key) : SlotState → SlotState
  | .program h _ => .program h (.clear w)
  | st => st

theorem State.endFilled_slotAt (s : State) (y : FilledHold) (r n : Nat) : (s.endFilled svc w y).slotAt r n =
    if r = y.region ∧ n = y.number then (s.slotAt r n).map (clearedBy w) else s.slotAt r n := by
  have hlatch : (s.endFilled svc w y).slotAt r n = (((s.touchKey svc).applyOrigin y.origin y.header.tag).latch y.region y.number (.clear w)).slotAt r n := rfl
  have hslots : ((s.touchKey svc).applyOrigin y.origin y.header.tag).slotAt r n = s.slotAt r n :=
    State.slotAt_of_slots (((s.touchKey svc).applyOrigin_frame y.origin y.header.tag) .slots (by simp)) r n
  rw [hlatch, State.latch_slotAt, hslots]
  rfl

theorem clearedBy_clearedBy (w : Key) (st : SlotState) : clearedBy w (clearedBy w st) = clearedBy w st := by
  cases st <;> rfl

theorem endFilled_all_slotAt (ys : List FilledHold) (r n : Nat) : ∀ s : State,
    ((∀ y ∈ ys, ¬ (r = y.region ∧ n = y.number)) → (ys.foldl (State.endFilled svc w) s).slotAt r n = s.slotAt r n) ∧
      ((∃ y ∈ ys, r = y.region ∧ n = y.number) → (ys.foldl (State.endFilled svc w) s).slotAt r n = (s.slotAt r n).map (clearedBy w)) := by
  induction ys with
  | nil => exact fun s => ⟨fun _ => rfl, fun ⟨_, hy, _⟩ => nomatch hy⟩
  | cons y ys ih =>
    intro s
    obtain ⟨hnone, hsome⟩ := ih (s.endFilled svc w y)
    refine ⟨fun h => ?_, fun h => ?_⟩
    · rw [List.foldl_cons, hnone (fun z hz => h z (List.mem_cons_of_mem _ hz)), State.endFilled_slotAt, if_neg (h y List.mem_cons_self)]
    · rw [List.foldl_cons]
      by_cases hlater : ∃ z ∈ ys, r = z.region ∧ n = z.number
      · rw [hsome hlater, State.endFilled_slotAt]
        split
        · rw [Option.map_map, show clearedBy w ∘ clearedBy w = clearedBy w from funext (clearedBy_clearedBy w)]
        · rfl
      · have hhere : r = y.region ∧ n = y.number := by
          obtain ⟨z, hz, heq⟩ := h
          rcases List.mem_cons.mp hz with rfl | hz
          · exact heq
          · exact absurd ⟨z, hz, heq⟩ hlater
        rw [hnone (fun z hz heq => hlater ⟨z, hz, heq⟩), State.endFilled_slotAt, if_pos hhere]

/-- A part after these holds have ended. -/
def Part.endFilled (w : Key) (p : Part) (y : FilledHold) : Part := p.endHold y.region y.number y.header (.clear w)

theorem endFilled_all_path (ys : List FilledHold) : ∀ s : State, (ys.foldl (State.endFilled svc w) s).path =
    { s.path with inflight := s.path.inflight.map (fun x => { x with parts := x.parts.map (fun p => ys.foldl (Part.endFilled w) p) }) } := by
  induction ys with
  | nil => intro s; simp
  | cons y ys ih =>
    intro s
    have hpath : (s.endFilled svc w y).path = { s.path with inflight := s.path.inflight.map (fun x => { x with parts := x.parts.map (fun p => p.endFilled w y) }) } := by
      have hkept : ((s.touchKey svc).applyOrigin y.origin y.header.tag).path = s.path := ((s.touchKey svc).applyOrigin_frame y.origin y.header.tag) .path (by simp)
      show ({ ((s.touchKey svc).applyOrigin y.origin y.header.tag).path with inflight := _ } : MemoryPath) = _
      rw [hkept]
      rfl
    rw [List.foldl_cons, ih, hpath]
    simp only [List.map_map, Function.comp_def, List.foldl_cons]

theorem Part.endFilled_of_not {p : Part} {y : FilledHold} (h : ¬ (p.serving = .held ∧ p.region = y.region ∧ p.slot = y.number)) : p.endFilled w y = p := by
  refine if_neg (fun hheld => h ?_)
  obtain ⟨hserving, hslot⟩ := (Part.heldOn_iff _ _).mp hheld
  rw [List.mem_singleton, Prod.mk.injEq] at hslot
  exact ⟨hserving, hslot⟩

theorem Part.endFilled_of_held {p : Part} {y : FilledHold} (h : p.serving = .held ∧ p.region = y.region ∧ p.slot = y.number) :
    p.endFilled w y = { p with serving := .clear w y.header.seq } := by
  obtain ⟨hserving, hregion, hslot⟩ := h
  exact if_pos ((Part.heldOn_iff _ _).mpr ⟨hserving, by rw [hregion, hslot]; exact List.mem_singleton_self _⟩)

theorem Part.endFilled_all_of_not {p : Part} (ys : List FilledHold) (h : ∀ y ∈ ys, ¬ (p.serving = .held ∧ p.region = y.region ∧ p.slot = y.number)) :
    ys.foldl (Part.endFilled w) p = p := by
  induction ys with
  | nil => rfl
  | cons y ys ih => rw [List.foldl_cons, Part.endFilled_of_not (h y List.mem_cons_self), ih (fun z hz => h z (List.mem_cons_of_mem _ hz))]

/-- A part held on a slot whose ended holds all have this header is served under it. -/
theorem Part.endFilled_all_of_held {p : Part} {hd : Header} (ys : List FilledHold) (hheld : p.serving = .held)
    (hheader : ∀ y ∈ ys, p.region = y.region → p.slot = y.number → y.header = hd) (h : ∃ y ∈ ys, p.region = y.region ∧ p.slot = y.number) :
    ys.foldl (Part.endFilled w) p = { p with serving := .clear w hd.seq } := by
  induction ys with
  | nil => exact nomatch h
  | cons y ys ih =>
    rw [List.foldl_cons]
    by_cases hhere : p.region = y.region ∧ p.slot = y.number
    · rw [Part.endFilled_of_held ⟨hheld, hhere⟩, hheader y List.mem_cons_self hhere.1 hhere.2]
      exact Part.endFilled_all_of_not ys (fun z _ hz => nomatch hz.1)
    · rw [Part.endFilled_of_not (fun hy => hhere hy.2)]
      refine ih (fun z hz => hheader z (List.mem_cons_of_mem _ hz)) ?_
      obtain ⟨z, hz, heq⟩ := h
      rcases List.mem_cons.mp hz with rfl | hz
      · exact absurd heq hhere
      · exact ⟨z, hz, heq⟩

/-! ### The flags and marks that a CLEAR sets (R54, R56, R65) -/

/-- One of these holds sets the flag or mark of a tag by this origin. -/
def setBy (o : Origin) (ys : List FilledHold) (tag : Tag) : Prop := ∃ y ∈ ys, y.origin = o ∧ y.header.tag = tag

theorem setBy_cons (o : Origin) (y : FilledHold) (ys : List FilledHold) (tag : Tag) :
    setBy o (y :: ys) tag ↔ (y.origin = o ∧ y.header.tag = tag) ∨ setBy o ys tag := by
  simp [setBy]

/-- An entry with more of its flags set. -/
def flaggedBy (ys : List FilledHold) (tag : Tag) (f f' : FixtureEntry) : Prop :=
  f' = { f with viewed := f'.viewed, delivered := f'.delivered } ∧
    (f'.viewed = true ↔ f.viewed = true ∨ (f.kind ≠ .none ∧ setBy .entitled ys tag)) ∧ (f'.delivered = true ↔ f.delivered = true ∨ setBy .preview ys tag)

theorem State.endFilled_fixture (s : State) (y : FilledHold) {tag : Tag} {f : FixtureEntry} (hf : s.fixture tag = some f) :
    ∃ f', (s.endFilled svc w y).fixture tag = some f' ∧ flaggedBy [y] tag f f' := by
  have hfixture : ∀ u, (s.endFilled svc w y).fixture u = (s.applyOrigin y.origin y.header.tag).fixture u := fun u => by
    cases ho : y.origin <;> (unfold State.endFilled; rw [ho]; rfl)
  rw [hfixture]
  have hset : ∀ o, setBy o [y] tag ↔ y.origin = o ∧ y.header.tag = tag := fun o => by simp [setBy]
  unfold flaggedBy
  rw [hset, hset]
  by_cases htag : tag = y.header.tag
  · subst htag
    cases ho : y.origin with
    | plain => exact ⟨f, hf, rfl, by simp, by simp⟩
    | entitled =>
      refine ⟨if f.kind = .none then f else { f with viewed := true }, ?_, ?_⟩
      · rw [(s.applyOrigin_entitled_spec _).1, hf]
        rfl
      · by_cases hkind : f.kind = .none
        · rw [if_pos hkind]
          exact ⟨rfl, by simp [hkind], by simp⟩
        · rw [if_neg hkind]
          exact ⟨rfl, by simp [hkind], by simp⟩
    | preview =>
      refine ⟨{ f with delivered := true }, ?_, rfl, by simp, by simp⟩
      rw [(s.applyOrigin_preview_spec _).1, hf]
      rfl
  · refine ⟨f, (s.applyOrigin_fixture_other y.origin htag).trans hf, rfl, ?_, ?_⟩ <;> simp [Ne.symm htag]

theorem endFilled_all_fixture (ys : List FilledHold) {tag : Tag} : ∀ (s : State) {f : FixtureEntry}, s.fixture tag = some f →
    ∃ f', (ys.foldl (State.endFilled svc w) s).fixture tag = some f' ∧ flaggedBy ys tag f f' := by
  induction ys with
  | nil => exact fun s f hf => ⟨f, hf, rfl, by simp [setBy], by simp [setBy]⟩
  | cons y ys ih =>
    intro s f hf
    obtain ⟨f1, hf1, hsame1, hviewed1, hdelivered1⟩ := s.endFilled_fixture (svc := svc) (w := w) y hf
    obtain ⟨f2, hf2, hsame2, hviewed2, hdelivered2⟩ := ih _ hf1
    have hkind : f1.kind = f.kind := by rw [hsame1]
    have hone : ∀ o, setBy o [y] tag ↔ y.origin = o ∧ y.header.tag = tag := fun o => by simp [setBy]
    refine ⟨f2, hf2, ?_, ?_, ?_⟩
    · rw [hsame1] at hsame2
      exact hsame2
    · rw [hviewed2, hviewed1, hkind, hone, setBy_cons, and_or_left, or_assoc]
    · rw [hdelivered2, hdelivered1, hone, setBy_cons, or_assoc]

theorem State.endFilled_marks (s : State) (y : FilledHold) : marksFollow s (s.endFilled svc w y) ∧ advances viewedRank s (s.endFilled svc w y) := by
  have hmarks := (s.touchKey svc).applyOrigin_marksFollow y.origin y.header.tag
  have hadv := (s.touchKey svc).applyOrigin_advances y.origin y.header.tag
  exact ⟨hmarks, hadv.length, hadv.kept, hadv.purse, hadv.log, hadv.refunds, hadv.passes⟩

theorem endFilled_all_marks (ys : List FilledHold) : ∀ s : State, marksFollow s (ys.foldl (State.endFilled svc w) s) ∧ advances viewedRank s (ys.foldl (State.endFilled svc w) s) := by
  induction ys with
  | nil => exact fun s => ⟨marksFollow_refl s, advances.refl s⟩
  | cons y ys ih =>
    intro s
    obtain ⟨hmarks, hadv⟩ := s.endFilled_marks (svc := svc) (w := w) y
    obtain ⟨hmarks', hadv'⟩ := ih (s.endFilled svc w y)
    exact ⟨marksFollow_advances hmarks hadv hmarks' hadv', hadv.trans hadv'⟩

end

/-! ### The completion of a KEY cell that fills its slot (R20, R37) -/

/-- The holds of a slot table that a KEY cell's fill ends. -/
def State.holdsFor (s : State) (cell : List Byte) : List FilledHold :=
  s.slots.filterMap (filledHold (parseHeader cell).service (parseHeader cell).parity (parseHeader cell).period)

/-- The state after a KEY cell's fill with word `w` and the end of the holds that await it. -/
def State.filledBy (s : State) (cell : List Byte) (w : Key) : State :=
  (s.holdsFor cell).foldl (State.endFilled (parseHeader cell).service w) (s.fillKey (parseHeader cell) w)

section
variable {s : State} {cell : List Byte} {rest : List QCell} {gk w : Key} {e : KeyEntry}

theorem State.mem_holdsFor {y : FilledHold} : y ∈ s.holdsFor cell ↔ ∃ x ∈ s.slots, x.region = y.region ∧ x.number = y.number ∧
    x.st = .program y.header (.held y.origin (parseHeader cell).service (parseHeader cell).parity (parseHeader cell).period) := by
  simp only [State.holdsFor, List.mem_filterMap, filledHold_eq_some_iff]

theorem State.fillKey_keyEntry (he : s.keyEntry (parseHeader cell).service = some e) :
    (s.fillKey (parseHeader cell) w).keyEntry (parseHeader cell).service = some (e.setSlot (parseHeader cell).parity (.valid (parseHeader cell).period w)) ∧
      ∀ v, v ≠ (parseHeader cell).service → (s.fillKey (parseHeader cell) w).keyEntry v = s.keyEntry v := by
  obtain ⟨hsame, hother⟩ := s.updateKey_spec (parseHeader cell).service (fun e => e.setSlot (parseHeader cell).parity (.valid (parseHeader cell).period w))
    (fun e => e.setSlot_service _ _)
  exact ⟨hsame.trans (by rw [he]; rfl), hother⟩

theorem exec_unwrap_fill (hq : s.engine.queue = ⟨.key, cell⟩ :: rest) (hkey : s.engine.headKey = some gk) (he : s.keyEntry (parseHeader cell).service = some e)
    (hslot : e.slot (parseHeader cell).parity = .pending (parseHeader cell).period) :
    exec .unwrapCompletion s = .next (s.filledBy cell (unwrap gk (parseHeader cell).seq (pay32 cell 2) (pay32 cell 6))).popCell.drain := by
  have hexec : exec .unwrapCompletion s = .next (s.complete .key State.completeKey).drain := rfl
  rw [hexec, State.complete_head ((s.headCell_iff .key cell).mpr ⟨rest, hq⟩), State.completeKey_fill ((s.pendingFor_iff _).mpr ⟨e, he, hslot⟩) hkey]
  rw [fillHolds_eq s.slots ⟨_, (State.fillKey_keyEntry he).1, (e.slot_setSlot _ _).1⟩]
  rfl

theorem State.filledBy_frame (s : State) (cell : List Byte) (w : Key) : changesOnly [.path, .slots, .keys, .fixtures, .store] s (s.filledBy cell w) := by
  have hfill : changesOnly [.keys] s (s.fillKey (parseHeader cell) w) := s.updateKey_frame _ _
  exact changesOnly_trans (changesOnly_mono hfill (by simp)) (endFilled_all_frame _ _)

theorem State.filledBy_path (s : State) (cell : List Byte) (w : Key) : (s.filledBy cell w).path =
    { s.path with inflight := s.path.inflight.map (fun x => { x with parts := x.parts.map (fun p => (s.holdsFor cell).foldl (Part.endFilled w) p) }) } :=
  endFilled_all_path _ _

theorem State.filledBy_marks (s : State) (cell : List Byte) (w : Key) : marksFollow s (s.filledBy cell w) :=
  (endFilled_all_marks (s.holdsFor cell) (s.fillKey (parseHeader cell) w)).1

theorem State.filledBy_keyEntry (he : s.keyEntry (parseHeader cell).service = some e) :
    (s.filledBy cell w).keyEntry (parseHeader cell).service = some { e.setSlot (parseHeader cell).parity (.valid (parseHeader cell).period w) with
        lastUse := if s.holdsFor cell = [] then e.lastUse else s.now } ∧
      ∀ v, v ≠ (parseHeader cell).service → (s.filledBy cell w).keyEntry v = s.keyEntry v := by
  obtain ⟨hfilled, hother⟩ := State.fillKey_keyEntry (w := w) he
  obtain ⟨hthis, hrest⟩ := endFilled_all_keyEntry (w := w) (s.holdsFor cell) _ hfilled
  refine ⟨hthis.trans ?_, fun v hv => (hrest v hv).trans (hother v hv)⟩
  split
  · cases hparity : (parseHeader cell).parity <;> rfl
  · rfl

/-- A slot that no ended hold lies on stands, and one that an ended hold lies on is CLEAR. -/
theorem State.filledBy_slotAt (s : State) (cell : List Byte) (w : Key) (r n : Nat) :
    ((∀ y ∈ s.holdsFor cell, ¬ (r = y.region ∧ n = y.number)) → (s.filledBy cell w).slotAt r n = s.slotAt r n) ∧
      ((∃ y ∈ s.holdsFor cell, r = y.region ∧ n = y.number) → (s.filledBy cell w).slotAt r n = (s.slotAt r n).map (clearedBy w)) :=
  endFilled_all_slotAt (svc := (parseHeader cell).service) (s.holdsFor cell) r n (s.fillKey (parseHeader cell) w)

/-- The record that a slot lookup finds. -/
theorem State.slotAt_record {r n : Nat} {st : SlotState} (h : s.slotAt r n = some st) : ∃ x ∈ s.slots, x.region = r ∧ x.number = n ∧ x.st = st := by
  obtain ⟨x, hx, rfl⟩ := Option.map_eq_some_iff.mp h
  have hfound := List.find?_some hx
  rw [Bool.and_eq_true, beq_iff_eq, beq_iff_eq] at hfound
  exact ⟨x, List.mem_of_find?_eq_some hx, hfound.1, hfound.2, rfl⟩

end

/-- Settles O32: the fold over the holds that the fill ends, block by block. -/
theorem unwrapFillsSlotAndEndsHolds : Obligations.UnwrapFillsSlotAndEndsHolds := by
  intro s cell rest gk e hq hkey he hslot
  obtain ⟨hentry, hother⟩ := State.filledBy_keyEntry (w := unwrap gk (parseHeader cell).seq (pay32 cell 2) (pay32 cell 6)) he
  have hframe := s.filledBy_frame cell (unwrap gk (parseHeader cell).seq (pay32 cell 2) (pay32 cell 6))
  have hpath := s.filledBy_path cell (unwrap gk (parseHeader cell).seq (pay32 cell 2) (pay32 cell 6))
  have hmarks := s.filledBy_marks cell (unwrap gk (parseHeader cell).seq (pay32 cell 2) (pay32 cell 6))
  have hslots := s.filledBy_slotAt cell (unwrap gk (parseHeader cell).seq (pay32 cell 2) (pay32 cell 6))
  have hexec := exec_unwrap_fill hq hkey he hslot
  revert hentry hother hframe hpath hmarks hslots hexec
  generalize unwrap gk (parseHeader cell).seq (pay32 cell 2) (pay32 cell 6) = w
  intro hentry hother hframe hpath hmarks hslots hexec
  have hengine : (s.filledBy cell w).popCell.engine = headLeft s s.purse.memberships := by
    rw [State.popCell_of (hframe .engine (by simp)) (congrArg (·.memberships) (hframe .purse (by simp)))]
  have hregions : (s.filledBy cell w).path.regions = s.path.regions := by rw [hpath]
  refine ⟨_, hexec, ?_, hregions, ?_, hengine, ⟨_, hentry, rfl, fun hheld => if_neg ?_, fun hnone => if_pos ?_, ?_, ?_⟩, hother, fun hdistinct r n hnot => ?_, fun r n h o hheld => ?_⟩
  · exact changesOnly_trans (changesOnly_mono hframe (by simp)) (changesOnly_trans (changesOnly_mono (State.popCell_frame _) (by simp)) (changesOnly_mono (State.drain_frame _) (by simp)))
  · exact marksFollow_of_same hmarks rfl rfl rfl rfl rfl rfl
  · obtain ⟨x, hx, h, o, hst⟩ := hheld
    exact List.ne_nil_of_mem (State.mem_holdsFor (y := ⟨x.region, x.number, h, o⟩).mpr ⟨x, hx, rfl, rfl, hst⟩)
  · refine List.eq_nil_iff_forall_not_mem.mpr (fun y hy => ?_)
    obtain ⟨x, hx, -, -, hst⟩ := State.mem_holdsFor.mp hy
    exact hnone x hx _ _ hst
  · exact (e.slot_setSlot _ _).1
  · exact (e.slot_setSlot _ _).2
  · refine (hslots r n).1 (fun y hy ⟨hr, hn⟩ => ?_)
    obtain ⟨x, hx, hxr, hxn, hst⟩ := State.mem_holdsFor.mp hy
    obtain ⟨xr, xn, xst⟩ := x
    obtain ⟨rfl, rfl, rfl⟩ : xr = r ∧ xn = n ∧ xst = _ := ⟨hxr.trans hr.symm, hxn.trans hn.symm, hst⟩
    exact hnot _ _ ((State.slotAt_eq_some_iff hdistinct _ _ _).mpr hx)
  · obtain ⟨x, hx, hxr, hxn, hst⟩ := State.slotAt_record hheld
    have hcleared := (hslots r n).2 ⟨⟨r, n, h, o⟩, State.mem_holdsFor.mpr ⟨x, hx, hxr, hxn, hst⟩, rfl, rfl⟩
    rw [hheld] at hcleared
    exact hcleared

end Sys2Proof.Machine

/-! Proofs: how answers, fills and hold timers settle the parts of reads in flight (R11, R13, R14, R17, R20, R21, R23). -/

namespace Sys2Proof.Machine

open Sys2Proof.Safety

set_option Elab.async false

/-! ### The slots of parts that an answer settles -/

theorem State.checkKey_decided (s : State) (o : Origin) (h : Header) : (s.checkKey o h).1 ≠ .undecided := by
  unfold State.checkKey
  split <;> nofun

theorem State.runChain_decided (s : State) (h : Header) : (s.runChain h).1 ≠ .undecided := by
  unfold State.runChain
  split
  · nofun
  · exact s.checkKey_decided _ h

/-- What a settled part does to the program cell of a slot: a verdict stands, and the part's own slot is decided and serves it. -/
theorem settlePart_slotAt (p : Part) {s : State} {r n : Nat} {h : Header} {v : Verdict} (hst : s.slotAt r n = some (.program h v)) :
    ∃ v', (settlePart p s).2.slotAt r n = some (.program h v') ∧ (v ≠ .undecided → v' = v) ∧
      (p.region = r → p.slot = n → p.serving = .waiting false → v' ≠ .undecided ∧ (settlePart p s).1.serving = servingOf h v') := by
  by_cases hruns : p.serving = .waiting false ∧ ∃ hd, s.slotAt p.region p.slot = some (.program hd .undecided)
  · obtain ⟨hp, hd, hund⟩ := hruns
    rw [settlePart_undecided hp hund]
    have hsame : (s.runChain hd).2.slotAt r n = s.slotAt r n := State.slotAt_of_slots ((s.runChain_frame hd) .slots (by simp)) r n
    by_cases hhere : r = p.region ∧ n = p.slot
    · obtain ⟨rfl, rfl⟩ := hhere
      rw [hst] at hund
      cases hund
      refine ⟨(s.runChain h).1, ?_, fun hv => absurd rfl hv, fun _ _ _ => ⟨s.runChain_decided h, rfl⟩⟩
      rw [State.latch_slotAt, if_pos ⟨rfl, rfl⟩, hsame, hst]
      rfl
    · refine ⟨v, ?_, fun _ => rfl, fun hr hn => absurd ⟨hr.symm, hn.symm⟩ hhere⟩
      rw [State.latch_slotAt, if_neg hhere, hsame, hst]
  · have hstate : (settlePart p s).2 = s := settlePart_state (Classical.or_iff_not_imp_left.mpr (fun hp hd hund => hruns ⟨Classical.not_not.mp hp, hd, hund⟩))
    refine ⟨v, by rw [hstate, hst], fun _ => rfl, fun hr hn hp => ?_⟩
    subst hr hn
    have hv : v ≠ .undecided := fun hv => hruns ⟨hp, h, hv ▸ hst⟩
    rw [settlePart_decided hp hst hv]
    exact ⟨hv, rfl⟩

theorem settleParts_slotAt (ps : List Part) {r n : Nat} {h : Header} : ∀ {s : State} {v : Verdict}, s.slotAt r n = some (.program h v) →
    ∃ v', (settleParts ps s).2.slotAt r n = some (.program h v') ∧ (v ≠ .undecided → v' = v) ∧
      ∀ (i : Nat) (p p' : Part), ps[i]? = some p → (settleParts ps s).1[i]? = some p' → p.region = r → p.slot = n → p.serving = .waiting false →
        v' ≠ .undecided ∧ p'.serving = servingOf h v' := by
  induction ps with
  | nil => exact fun hst => ⟨_, hst, fun _ => rfl, fun _ _ _ hp => nomatch hp⟩
  | cons q ps ih =>
    intro s v hst
    obtain ⟨v1, hst1, hkeep1, hpart1⟩ := settlePart_slotAt q hst
    obtain ⟨v2, hst2, hkeep2, hpart2⟩ := ih hst1
    refine ⟨v2, hst2, fun hv => ?_, fun i p p' hp hp' hr hn hwait => ?_⟩
    · have hv1 := hkeep1 hv
      exact (hkeep2 (hv1 ▸ hv)).trans hv1
    · cases i with
      | zero =>
        cases hp
        cases hp'
        obtain ⟨hdecided, hserving⟩ := hpart1 hr hn hwait
        rw [hkeep2 hdecided]
        exact ⟨hdecided, hserving⟩
      | succ i => exact hpart2 i p p' hp hp' hr hn hwait

theorem settlePart_slotAt_other {p : Part} {s : State} {r n : Nat} (h : ¬ (p.region = r ∧ p.slot = n)) : (settlePart p s).2.slotAt r n = s.slotAt r n := by
  by_cases hruns : p.serving = .waiting false ∧ ∃ hd, s.slotAt p.region p.slot = some (.program hd .undecided)
  · obtain ⟨hp, hd, hund⟩ := hruns
    rw [settlePart_undecided hp hund]
    show (((s.runChain hd).2).latch p.region p.slot _).slotAt r n = _
    rw [State.latch_slotAt, if_neg (fun ⟨hr, hn⟩ => h ⟨hr.symm, hn.symm⟩)]
    exact State.slotAt_of_slots ((s.runChain_frame hd) .slots (by simp)) r n
  · rw [settlePart_state (Classical.or_iff_not_imp_left.mpr (fun hp hd hund => hruns ⟨Classical.not_not.mp hp, hd, hund⟩))]

theorem settleParts_slotAt_other (ps : List Part) {r n : Nat} : ∀ s : State, (∀ p ∈ ps, ¬ (p.region = r ∧ p.slot = n)) →
    (settleParts ps s).2.slotAt r n = s.slotAt r n := by
  induction ps with
  | nil => exact fun _ _ => rfl
  | cons p ps ih =>
    intro s h
    rw [settleParts_cons]
    exact (ih _ (fun q hq => h q (List.mem_cons_of_mem _ hq))).trans (settlePart_slotAt_other (h p List.mem_cons_self))

/-- Each settled part keeps its place; a stale one is NO_CELL, and one that did not wait stands. -/
theorem settleParts_part {ps : List Part} {s : State} {i : Nat} {p p' : Part} (hp : ps[i]? = some p) (hp' : (settleParts ps s).1[i]? = some p') :
    p' = { p with serving := p'.serving } ∧ (p.serving = .waiting true → p'.serving = .slate 0 none) ∧ ((∀ b, p.serving ≠ .waiting b) → p' = p) := by
  have hi := (judgedFrom_succ ps s i p hp).2
  rw [hp', Option.some.injEq] at hi
  refine ⟨?_, fun hstale => ?_, fun hnot => ?_⟩
  · rw [hi]
    exact settlePart_serving p _
  · rw [hi, settlePart_stale hstale]
  · rw [hi, settlePart_settled hnot]

theorem servingOf_table19 {h : Header} {v : Verdict} : table19 (some (.program h v)) (servingOf h v) := by
  cases v <;> rfl

/-! ### A part whose slate read is answered (R11) -/

theorem mem_settledReads {s : State} {id : Nat} {ps qs : List Part} {p p' : Part} {i : Nat} {b : Bool} {k : Fin 8} (hp : ps[i]? = some p) (hp' : qs[i]? = some p')
    (hsame : p' = { p with serving := p'.serving }) (hwait : p.serving = .waiting b) (hslate : p'.serving = .slate k none) :
    slateReadFor s id p k.val ∈ s.slateReads id (settledNow ps qs) := by
  have hzip : (ps.zip qs)[i]? = some (p, p') := by
    rw [List.getElem?_zip_eq_some]
    exact ⟨hp, hp'⟩
  refine List.mem_filterMap.mpr ⟨p', List.mem_filterMap.mpr ⟨(p, p'), List.mem_of_getElem? hzip, by simp only [hwait]⟩, ?_⟩
  simp only [hslate]
  rw [hsame]
  rfl

/-! ### The holds that a fill ends, in a slot table with one record for each slot -/

theorem State.slotAt_of_holdsFor {s : State} (h : slotsDistinct s) {cell : List Byte} {y : FilledHold} (hy : y ∈ s.holdsFor cell) :
    s.slotAt y.region y.number = some (.program y.header (.held y.origin (parseHeader cell).service (parseHeader cell).parity (parseHeader cell).period)) := by
  obtain ⟨⟨xr, xn, xst⟩, hx, rfl, rfl, rfl⟩ := State.mem_holdsFor.mp hy
  exact (State.slotAt_eq_some_iff h _ _ _).mpr hx

theorem State.setBy_holdsFor {s : State} {cell : List Byte} {o : Origin} {tag : Tag} : setBy o (s.holdsFor cell) tag ↔ ∃ x ∈ s.slots, ∃ h, h.tag = tag ∧
    x.st = .program h (.held o (parseHeader cell).service (parseHeader cell).parity (parseHeader cell).period) := by
  constructor
  · rintro ⟨y, hy, rfl, htag⟩
    obtain ⟨x, hx, -, -, hst⟩ := State.mem_holdsFor.mp hy
    exact ⟨x, hx, y.header, htag, hst⟩
  · rintro ⟨x, hx, h, htag, hst⟩
    exact ⟨⟨x.region, x.number, h, o⟩, State.mem_holdsFor.mpr ⟨x, hx, rfl, rfl, hst⟩, rfl, htag⟩

/-- Settles O30: each clause reads off the state before the drain. -/
theorem answersAndHoldEndsSettleParts : Obligations.AnswersAndHoldEndsSettleParts := by
  refine ⟨fun s rest addr len id r n a hown => ?_, fun s rest addr data en err hown => ?_, fun s id a e hfind hanswer herr => ?_,
    fun s r n h o svc odd per hst => ?_, fun s cell rest gk e hdistinct hq hkey he hslot => ?_⟩
  · refine congrArg Host.Outcome.next ?_
    unfold State.slateAnswer
    rw [hown]
    have hpop : s.popOwn = { s with path := { s.path with own := rest } } := by simp [State.popOwn, hown]
    refine congrArg State.drain ?_
    rw [hpop]
    refine congrArg (fun l => ({ s with path := { s.path with own := rest, inflight := l } } : State)) (List.map_congr_left (fun e _ => ?_))
    split
    · refine congrArg (fun ps => ({ e with parts := ps } : Inflight)) (List.map_congr_left (fun p _ => ?_))
      obtain ⟨region, slot, _, _, _, serving⟩ := p
      cases serving with
      | slate k answer =>
        cases answer with
        | none => rfl
        | some _ => exact (ite_self _).symm
      | raw | clear | waiting | held => exact (ite_self _).symm
    · rfl
  · refine congrArg Host.Outcome.next ?_
    unfold State.writeAcked
    rw [hown]
    simp [State.popOwn, hown]
  · obtain ⟨hregions, hnext, hinflight, issued, hperm, hpresented⟩ := s.settledBy_path id a e
    have hsettled := settleParts_frame e.parts s
    have hframe := s.settledBy_frame id a e
    have hslots : ∀ r n, (s.settledBy id a e).slotAt r n = (settleParts e.parts s).2.slotAt r n := State.slotAt_of_slots (hframe .slots (by simp))
    have hreads : (settleParts e.parts s).2.slateReads id = s.slateReads id := by
      unfold State.slateReads State.slateRequest State.slateBase
      rw [hsettled .path (by simp)]
    rw [hreads] at hperm
    refine ⟨s.settledBy id a e, issued, (settleParts e.parts s).1, congrArg Host.Outcome.next (State.memoryAnswer_clean hfind hanswer herr),
      changesOnly_trans (changesOnly_mono hsettled (by simp)) (changesOnly_mono hframe (by simp)), hregions, hnext, hpresented, hinflight, settleParts_length _ _, ?_,
      fun r n hnone => (hslots r n).trans (settleParts_slotAt_other _ s hnone), fun i p p' hp hp' => ?_⟩
    · refine hperm.trans (List.Perm.of_eq ?_)
      unfold State.slateReads settledNow
      rw [List.filterMap_filterMap]
      refine congrFun (congrArg List.filterMap (funext fun q => ?_)) _
      obtain ⟨⟨_, _, _, _, _, before⟩, ⟨_, _, _, _, _, now⟩⟩ := q
      cases before with
      | waiting b =>
        cases now with
        | slate k answer => cases answer <;> rfl
        | _ => rfl
      | _ => rfl
    · obtain ⟨hsame, hstale, hstands⟩ := settleParts_part hp hp'
      refine ⟨hsame, hstale, fun hwait h v hst => ?_, hstands, fun b k hwait hslate => hperm.mem_iff.mpr (mem_settledReads hp hp' hsame hwait hslate)⟩
      obtain ⟨v', hst', hkeep, hpart⟩ := settleParts_slotAt e.parts hst
      obtain ⟨hdecided, hserving⟩ := hpart i p p' hp hp' rfl rfl hwait
      exact ⟨v', (hslots _ _).trans hst', hdecided, hkeep, hserving ▸ servingOf_table19⟩
  · obtain ⟨hinflight, hregions, hnext, issued, hperm, hpresented⟩ := s.finishHold_path r n h (.slate 4)
    have hheld : ∀ p : Part, p.heldOn [(r, n)] = (p.serving == .held && p.region == r && p.slot == n) := fun p => by
      rw [Bool.eq_iff_iff, Part.heldOn_iff]
      simp [and_assoc]
    refine ⟨s.finishHold r n h (.slate 4), issued, congrArg Host.Outcome.next (State.expireHold_held hst), changesOnly_mono (s.finishHold_frame r n h _) (by simp),
      hregions, hnext, hpresented, hperm.trans (List.Perm.of_eq ?_), ?_, fun e he p hp hserving hr hn => ?_⟩
    · show s.heldSlateReads [(r, n)] 4 = _
      unfold State.heldSlateReads
      rw [show Part.heldOn [(r, n)] = (fun p : Part => p.serving == .held && p.region == r && p.slot == n) from funext hheld]
      rfl
    · rw [hinflight]
      refine List.map_congr_left (fun e _ => congrArg (fun ps => ({ e with parts := ps } : Inflight)) (List.map_congr_left (fun p _ => ?_)))
      unfold Part.endHold
      rw [hheld]
      simp only [Bool.and_eq_true, beq_iff_eq, and_assoc]
      rfl
    · refine hperm.mem_iff.mpr (State.mem_heldSlateReads_iff.mpr ⟨e, he, p, hp, hserving, ?_, rfl⟩)
      rw [hr, hn]
      exact List.mem_singleton_self _
  · obtain ⟨w, hw⟩ : ∃ w, w = unwrap gk (parseHeader cell).seq (pay32 cell 2) (pay32 cell 6) := ⟨_, rfl⟩
    have hexec := exec_unwrap_fill hq hkey he hslot
    rw [← hw] at hexec ⊢
    have hpath := s.filledBy_path cell w
    refine ⟨_, hexec, (s.filledBy_frame cell w) .emitted (by simp), ?_, ?_, fun tag f hf => ?_⟩
    · show (s.filledBy cell w).path = { s.path with inflight := (s.filledBy cell w).path.inflight }
      rw [hpath]
    · show (s.filledBy cell w).path.inflight = _
      rw [hpath]
      refine List.map_congr_left (fun x _ => congrArg (fun ps => ({ x with parts := ps } : Inflight)) (List.map_congr_left (fun p _ => ?_)))
      split
      · rename_i h o svc odd per hst
        have hrecord := (State.slotAt_eq_some_iff hdistinct _ _ _).mp hst
        split
        · rename_i hmatch
          obtain ⟨hheld, rfl, rfl, rfl⟩ := hmatch
          refine Part.endFilled_all_of_held _ hheld (fun y hy hr hn => ?_) ⟨⟨p.region, p.slot, h, o⟩, State.mem_holdsFor.mpr ⟨_, hrecord, rfl, rfl, rfl⟩, rfl, rfl⟩
          have hy' := State.slotAt_of_holdsFor hdistinct hy
          rw [← hr, ← hn, hst] at hy'
          cases hy'
          rfl
        · rename_i hmatch
          refine Part.endFilled_all_of_not _ (fun y hy ⟨hheld, hr, hn⟩ => hmatch ⟨hheld, ?_⟩)
          have hy' := State.slotAt_of_holdsFor hdistinct hy
          rw [← hr, ← hn, hst] at hy'
          cases hy'
          exact ⟨rfl, rfl, rfl⟩
      · rename_i hst
        refine Part.endFilled_all_of_not _ (fun y hy ⟨_, hr, hn⟩ => ?_)
        have hy' := State.slotAt_of_holdsFor hdistinct hy
        rw [← hr, ← hn] at hy'
        exact hst _ _ _ _ _ hy'
    · obtain ⟨f', hf', hsame, hviewed, hdelivered⟩ := endFilled_all_fixture (svc := (parseHeader cell).service) (w := w) (s.holdsFor cell) (s.fillKey (parseHeader cell) w) hf
      refine ⟨f', hf', hsame, hviewed.trans ?_, hdelivered.trans ?_⟩
      all_goals rw [State.setBy_holdsFor]

end Sys2Proof.Machine

/-! Proofs: dirty marks of the setters (R65, R80, R87, R108), the places of new entries (R64, R71, R81), and the grants to fixtures (R77 to R79). -/

namespace Sys2Proof.Machine

open Sys2Proof.Safety

set_option Elab.async false

/-! ### Dirty marks of the setters -/

theorem State.setPurse_marksFollow (s : State) (p : Purse) : marksFollow s (s.setPurse p) := by
  have hkeeps : ¬ keepsChanged s (s.setPurse p) := not_keepsChanged_refl s
  refine ⟨rfl, by simp [State.setPurse, State.markS0], by simp [State.setPurse, State.markS0], ?_⟩
  rw [or_iff_left hkeeps]
  rfl

theorem State.setRefunds_marksFollow (s : State) (q : List Tag) : marksFollow s (s.setRefunds q) := by
  have hkeeps : keepsChanged s (s.setRefunds q) ↔ q ≠ s.refunds := by
    rw [keepsChanged_iff]
    refine ⟨fun h => ?_, fun h => .inr (.inl h)⟩
    rcases h with h | h | h | h
    · exact absurd rfl h
    · exact h
    · exact absurd h (not_queuedChange_refl _ _)
    · exact absurd rfl h
  refine ⟨rfl, by simp [State.setRefunds, State.markS2], by simp [State.setRefunds, State.markS2], ?_⟩
  rw [hkeeps]
  simp [State.setRefunds]

/-- R80: a change at one place of the pass table, as the marks see it. -/
theorem passChange_iff (o o' : Option PassEntry) : passChange o o' = true ↔ keptPass o' ≠ keptPass o := by
  rcases o with _ | a <;> rcases o' with _ | b
  · simp [passChange, keptPass]
  · by_cases hb : b.owner = .none <;> simp [passChange, keptPass, PassEntry.owned, hb]
  · by_cases ha : a.owner = .none <;> simp [passChange, keptPass, PassEntry.owned, ha]
  · by_cases ha : a.owner = .none <;> by_cases hb : b.owner = .none
    · simp [passChange, keptPass, PassEntry.owned, ha, hb]
    · simp [passChange, keptPass, PassEntry.owned, ha, hb, Ne.symm hb]
    · simp [passChange, keptPass, PassEntry.owned, ha, hb]
    · simp only [passChange, keptPass, PassEntry.owned, ha, hb, if_false]
      simp [ha, hb, Classical.or_iff_not_imp_left, not_and]
      grind

theorem State.setPasses_marksFollow (s : State) (t : List (Option PassEntry)) (hlen : t.length = s.passes.length) : marksFollow s (s.setPasses t) := by
  have hkeeps : (List.zip s.passes t).any (fun p => passChange p.1 p.2) = true ↔ keepsChanged s (s.setPasses t) := by
    rw [keepsChanged_iff, List.any_eq_true]
    simp only [passChange_iff]
    rw [← map_ne_iff_zip keptPass hlen]
    refine ⟨fun h => .inr (.inr (.inr h)), fun h => ?_⟩
    rcases h with h | h | h | h
    · exact absurd rfl h
    · exact absurd rfl h
    · exact absurd h (not_queuedChange_refl _ _)
    · exact h
  refine ⟨rfl, by simp [State.setPasses], by simp [State.setPasses], ?_⟩
  rw [← hkeeps]
  simp [State.setPasses]

theorem State.updatePass_marksFollow (s : State) (id : PassId) (f : PassEntry → PassEntry) : marksFollow s (s.updatePass id f) :=
  s.setPasses_marksFollow _ (tableUpdate_length _ _ _)

theorem State.createFixture_marksFollow {s t : State} {e : FixtureEntry} (h : s.createFixture e = some t) : marksFollow s t := by
  obtain ⟨i, -, rfl⟩ := Option.map_eq_some_iff.mp h
  exact s.setFixtures_marksFollow _ List.length_set

theorem State.createPass_marksFollow {s t : State} {p : PassEntry} (h : s.createPass p = some t) : marksFollow s t := by
  obtain ⟨i, -, rfl⟩ := Option.map_eq_some_iff.mp h
  exact s.setPasses_marksFollow _ List.length_set

theorem State.removeFixtures_marksFollow (s : State) (p : FixtureEntry → Bool) : marksFollow s (s.removeFixtures p) :=
  s.setFixtures_marksFollow _ (tableUpdate_length _ _ _)

theorem State.advanceSeq_marksFollow (s : State) (cell : List Byte) : marksFollow s (s.advanceSeq cell) := by
  unfold State.advanceSeq
  split
  · exact marksFollow_refl s
  · exact s.setPurse_marksFollow _

/-! ### Places of new entries -/

theorem evictKey_iff (s : State) (e : FixtureEntry) (k : Nat) : evictKey s.refunds e = some k ↔ evictable s e k := by
  unfold evictKey evictable
  cases hst : e.standing with
  | awaiting => simp
  | scheduled sch ph =>
    cases ph with
    | retired => simp [eq_comm]
    | cancelled =>
      by_cases hq : e.tag ∈ s.refunds
      · simp [hq]
      · simp [hq, eq_comm]
    | _ => simp

theorem fixtureRanks (s : State) (t : List (Option FixtureEntry)) : ranksBy t (evictKey s.refunds) (evictable s) := fun e _ k => evictKey_iff s e k

theorem passEvictKey_iff (s : State) (p : PassEntry) (k : Nat) : p.evictKey s.now = some k ↔ passEvictable s p k := by
  unfold PassEntry.evictKey passEvictable PassEntry.owned
  by_cases howner : p.owner = .none
  · rw [howner]
    cases hsale : p.sale with
    | none => simp [eq_comm]
    | some sale =>
      by_cases hclosed : sale.closes.toNat ≤ s.now.toNat
      · simp [hclosed, eq_comm]
      · simp [hclosed]
  · simp [howner]

theorem passRanks (s : State) (t : List (Option PassEntry)) : ranksBy t (PassEntry.evictKey s.now) (passEvictable s) := fun p _ k => passEvictKey_iff s p k

theorem State.createFixture_noPlace {s : State} (h : noPlaceIn s.fixtures (evictable s)) (e : FixtureEntry) : s.createFixture e = none := by
  unfold State.createFixture State.fixturePlace
  rw [allocate_of_noPlaceIn (fixtureRanks s _) h]
  rfl

theorem State.createFixture_place {s : State} {i : Nat} (h : placeIn s.fixtures (evictable s) i) (e : FixtureEntry) :
    s.createFixture e = some (s.setFixtures (s.fixtures.set i (some e))) := by
  unfold State.createFixture State.fixturePlace
  rw [allocate_of_placeIn (fixtureRanks s _) h]
  rfl

theorem State.createPass_noPlace {s : State} (h : noPlaceIn s.passes (passEvictable s)) (p : PassEntry) : s.createPass p = none := by
  unfold State.createPass
  rw [allocate_of_noPlaceIn (passRanks s _) h]
  rfl

theorem State.createPass_place {s : State} {i : Nat} (h : placeIn s.passes (passEvictable s) i) (p : PassEntry) :
    s.createPass p = some (s.setPasses (s.passes.set i (some p))) := by
  unfold State.createPass
  rw [allocate_of_placeIn (passRanks s _) h]
  rfl

/-! ### A grant that applies: the last sequence advances, the owner acts, the cell leaves (R123, R125) -/

theorem State.advanceSeq_frame (s : State) (cell : List Byte) : changesOnly [.purse, .store] s (s.advanceSeq cell) :=
  changesOnly_of_framed (s.advanceSeq_framed cell)

/-- Lookups of a state whose tables are those of another. -/
theorem State.fixture_of_same {s t : State} (h : t.fixtures = s.fixtures) (u : Tag) : t.fixture u = s.fixture u := by
  unfold State.fixture
  rw [h]

theorem State.pass_of_same {s t : State} (h : t.passes = s.passes) (id : PassId) : t.pass id = s.pass id := by
  unfold State.pass
  rw [h]

theorem State.coveringPass_of_same {s t : State} (h : t.passes = s.passes) (u : Tag) : t.coveringPass u = s.coveringPass u := by
  unfold State.coveringPass
  rw [h]

theorem State.book_conds_of_same {s t : State} (h : t.conds = s.conds) (k : CondKind) (d : CondData) : (t.book k d).conds = (s.book k d).conds := by
  unfold State.book
  rw [h]

theorem evictable_of_same {s t : State} (h : t.refunds = s.refunds) : evictable t = evictable s := by
  unfold evictable
  rw [h]

/-- What a grant to the tables leaves: its frame, its marks, the queue and the purse. -/
structure grantEffect (s : State) (cell : List Byte) (bs : List Block) (t : State) : Prop where
  frame : changesOnly (.engine :: .purse :: .store :: bs) s t
  marks : marksFollow s t
  engine : t.engine = headLeft s s.purse.memberships
  purse : t.purse = (s.advanceSeq cell).purse

/-- A grant whose owner changes tables and conditions alone, with their marks. -/
theorem grantEffect_of_owner {s u : State} {cell : List Byte} {bs : List Block} (hframe : changesOnly (.store :: bs) (s.advanceSeq cell) u) (hengine : .engine ∉ bs)
    (hpurse : .purse ∉ bs) (hlog : .log ∉ bs) (hmarks : marksFollow (s.advanceSeq cell) u) : grantEffect s cell bs u.popCell := by
  have hseq := s.advanceSeq_frame cell
  have hkept : u.purse = (s.advanceSeq cell).purse := hframe .purse (by simp [hpurse])
  have hcells : u.engine = s.engine := (hframe .engine (by simp [hengine])).trans (hseq .engine (by simp))
  have hlogs : u.log = (s.advanceSeq cell).log := hframe .log (by simp [hlog])
  have hms : u.purse.memberships = s.purse.memberships := by
    rw [hkept, State.advanceSeq_purse]
    split <;> rfl
  refine ⟨?_, ?_, by rw [State.popCell_of hcells hms], hkept⟩
  · refine changesOnly_trans (changesOnly_mono hseq (by simp)) (changesOnly_trans (changesOnly_mono hframe ?_) (changesOnly_mono u.popCell_frame (by simp)))
    exact fun b hb => List.mem_cons_of_mem _ (List.mem_cons_of_mem _ hb)
  · refine marksFollow_of_same (marksFollow_seq (s.advanceSeq_marksFollow cell) hmarks (.inr hkept) (.inr hlogs) (.inl ?_) (.inl ?_) (.inl ?_)) rfl rfl rfl rfl rfl rfl
    · exact hseq .fixtures (by simp)
    · exact hseq .refunds (by simp)
    · exact hseq .passes (by simp)

/-! ### ENTITLE and REVOKE of a fixture (R77, R78, Table 4-4) -/

theorem State.bookEntitlement_frame (s : State) (t : Tag) : changesOnly [.conds] s (s.bookEntitlement t) := (s.book_spec _ _).1

theorem State.entitleFixture_frame (s : State) (t : Tag) : changesOnly [.store, .fixtures, .conds] s (s.entitleFixture t) :=
  changesOnly_of_framed (s.entitleFixture_framed t)

theorem marksFollow_bookEntitlement {s u : State} (h : marksFollow s u) (t : Tag) : marksFollow s (u.bookEntitlement t) :=
  marksFollow_of_same h rfl rfl rfl rfl rfl rfl

theorem State.entitleFixture_marks (s : State) (t : Tag) : marksFollow s (s.entitleFixture t) := by
  unfold State.entitleFixture
  split
  · exact marksFollow_refl s
  · split
    · split
      · exact marksFollow_bookEntitlement (s.updateFixture_marksFollow _ _) t
      · exact marksFollow_bookEntitlement (s.updateFixture_marksFollow _ _) t
      · exact marksFollow_refl s
      · exact marksFollow_refl s
    · split
      · exact marksFollow_bookEntitlement (State.createFixture_marksFollow ‹_›) t
      · exact marksFollow_of_same (marksFollow_refl s) rfl rfl rfl rfl rfl rfl

section
variable {s : State} {t : Tag} {e : FixtureEntry}

theorem State.entitleFixture_upgrade (ht : t ≠ 0) (he : s.fixture t = some e) (hkind : e.kind = .none ∨ ∃ id, e.kind = .pass id) :
    s.entitleFixture t = State.bookEntitlement t (s.updateFixture t (fun e => { e with kind := .granted })) := by
  unfold State.entitleFixture
  rw [if_neg ht, he]
  rcases hkind with hkind | ⟨id, hkind⟩ <;> simp only [hkind]

theorem State.entitleFixture_kept (ht : t ≠ 0) (he : s.fixture t = some e) (hkind : e.kind = .granted ∨ ∃ a, e.kind = .impulse a) : s.entitleFixture t = s := by
  unfold State.entitleFixture
  rw [if_neg ht, he]
  rcases hkind with hkind | ⟨a, hkind⟩ <;> simp only [hkind]

theorem State.entitleFixture_noPlace (ht : t ≠ 0) (he : s.fixture t = none) (hplace : noPlaceIn s.fixtures (evictable s)) :
    s.entitleFixture t = s.book .tableFull (.table t .fixtureTable) := by
  unfold State.entitleFixture
  rw [if_neg ht, he]
  simp only [State.createFixture_noPlace hplace]

theorem State.entitleFixture_place {i : Nat} (ht : t ≠ 0) (he : s.fixture t = none) (hplace : placeIn s.fixtures (evictable s) i) :
    s.entitleFixture t = (s.setFixtures (s.fixtures.set i (some (awaitingEntry t .granted false)))).bookEntitlement t := by
  unfold State.entitleFixture
  rw [if_neg ht, he]
  simp only [State.createFixture_place hplace]

theorem State.revokeFixture_other (h : ∀ e, s.fixture t = some e → e.kind ≠ .granted) : s.revokeFixture t = s := by
  unfold State.revokeFixture
  split
  · rw [if_neg (h _ ‹_›)]
  · rfl

/-- What a revoked GRANTED entry becomes: it falls back on a pass, goes out of use, or loses its entitlement. -/
theorem State.revokeFixture_granted (he : s.fixture t = some e) (hkind : e.kind = .granted) :
    (∀ id, e.standing = .awaiting ∨ onOfferNow e → s.coveringPass t = some id →
        s.revokeFixture t = State.bookEntitlement t (s.updateFixture t (fun e => { e with kind := .pass id }))) ∧
      (¬ (e.standing = .awaiting ∨ onOfferNow e) ∨ s.coveringPass t = none → e.standing = .awaiting →
        s.revokeFixture t = State.bookEntitlement t (s.removeFixtures (fun e => e.tag == t))) ∧
      (¬ (e.standing = .awaiting ∨ onOfferNow e) ∨ s.coveringPass t = none → e.standing ≠ .awaiting →
        s.revokeFixture t = State.bookEntitlement t (s.updateFixture t (fun e => { e with kind := .none, viewed := false }))) := by
  have hcover : e.passMayCover = true ↔ e.standing = .awaiting ∨ onOfferNow e := by
    rw [FixtureEntry.passMayCover, Bool.or_eq_true, beq_iff_eq, FixtureEntry.onOffer_iff]
  have hnone : ¬ (e.standing = .awaiting ∨ onOfferNow e) ∨ s.coveringPass t = none → (if e.passMayCover then s.coveringPass t else none) = none := fun h => by
    split
    · rename_i hc
      exact h.resolve_left (Classical.not_not.mpr (hcover.mp hc))
    · rename_i hc
      rfl
  unfold State.revokeFixture
  rw [he]
  simp only [hkind, if_true]
  refine ⟨fun id hmay hpass => ?_, fun hnot haw => ?_, fun hnot haw => ?_⟩
  · rw [if_pos (hcover.mpr hmay), hpass]
  · rw [hnone hnot]
    exact if_pos haw
  · rw [hnone hnot]
    exact if_neg haw

/-- The three shapes of a REVOKE of a fixture. -/
theorem State.revokeFixture_cases (s : State) (t : Tag) : (s.revokeFixture t = s ∧ ∀ e, s.fixture t = some e → e.kind ≠ .granted) ∨
    (∃ f : FixtureEntry → FixtureEntry, (∀ e, (f e).tag = e.tag) ∧ s.revokeFixture t = (s.updateFixture t f).bookEntitlement t) ∨
      s.revokeFixture t = (s.removeFixtures (fun e => e.tag == t)).bookEntitlement t := by
  by_cases hgranted : ∃ e, s.fixture t = some e ∧ e.kind = .granted
  · obtain ⟨e, he, hkind⟩ := hgranted
    obtain ⟨hcovered, haway, hlost⟩ := State.revokeFixture_granted he hkind
    by_cases hnone : ¬ (e.standing = .awaiting ∨ onOfferNow e) ∨ s.coveringPass t = none
    · by_cases haw : e.standing = .awaiting
      · exact .inr (.inr (haway hnone haw))
      · exact .inr (.inl ⟨fun e => { e with kind := .none, viewed := false }, fun _ => rfl, hlost hnone haw⟩)
    · obtain ⟨hmay, hpass⟩ := not_or.mp hnone
      obtain ⟨id, hid⟩ := Option.ne_none_iff_exists'.mp hpass
      exact .inr (.inl ⟨fun e => { e with kind := .pass id }, fun _ => rfl, hcovered id (Classical.not_not.mp hmay) hid⟩)
  · have hnot : ∀ e, s.fixture t = some e → e.kind ≠ .granted := fun e he hkind => hgranted ⟨e, he, hkind⟩
    exact .inl ⟨State.revokeFixture_other hnot, hnot⟩

theorem State.revokeFixture_marks (s : State) (t : Tag) : marksFollow s (s.revokeFixture t) := by
  rcases s.revokeFixture_cases t with ⟨h, -⟩ | ⟨f, -, h⟩ | h <;> rw [h]
  · exact marksFollow_refl s
  · exact marksFollow_bookEntitlement (s.updateFixture_marksFollow _ _) t
  · exact marksFollow_bookEntitlement (s.removeFixtures_marksFollow _) t

/-- Entries that go out of use by their tag, and no others. -/
theorem State.removeFixtures_fixture (s : State) (t : Tag) :
    (s.removeFixtures (fun e => e.tag == t)).fixture t = none ∧ ∀ u, u ≠ t → (s.removeFixtures (fun e => e.tag == t)).fixture u = s.fixture u := by
  refine ⟨tableFind_remove_same _ _, fun u hu => tableFind_remove_other _ _ _ (fun e he => ?_)⟩
  rw [beq_iff_eq] at he
  simpa [he] using Ne.symm hu

end

/-- A REVOKE of a fixture leaves every other tag. -/
theorem State.revokeFixture_other_tags (s : State) {t u : Tag} (hu : u ≠ t) : (s.revokeFixture t).fixture u = s.fixture u := by
  rcases s.revokeFixture_cases t with ⟨h, -⟩ | ⟨f, hf, h⟩ | h <;> rw [h]
  · exact (s.updateFixture_spec t f hf).2 u hu
  · exact (s.removeFixtures_fixture t).2 u hu

/-- Settles O37: each row is one branch of the grant, on the state whose last sequence has advanced. -/
theorem fixtureGrantsFollowTheirTable : Obligations.FixtureGrantsFollowTheirTable := by
  intro s cell happlies
  have hseq := s.advanceSeq_frame cell
  have hfixtures : (s.advanceSeq cell).fixtures = s.fixtures := hseq .fixtures (by simp)
  have hconds : (s.advanceSeq cell).conds = s.conds := hseq .conds (by simp)
  have hevict := evictable_of_same (hseq .refunds (by simp) : (s.advanceSeq cell).refunds = s.refunds)
  have hlook : ∀ u, (s.advanceSeq cell).fixture u = s.fixture u := State.fixture_of_same hfixtures
  have hcover : ∀ u, (s.advanceSeq cell).coveringPass u = s.coveringPass u := State.coveringPass_of_same (hseq .passes (by simp))
  have hbook := fun k d => State.book_conds_of_same hconds k d
  refine ⟨fun hhead => ?_, fun hhead => ?_⟩
  · obtain ⟨hframe, hmarks, hengine, hpurse⟩ := grantEffect_of_owner (s.advanceSeq cell |>.entitleFixture_frame (grantIdent cell)) (by simp) (by simp) (by simp)
      ((s.advanceSeq cell).entitleFixture_marks (grantIdent cell))
    refine ⟨_, congrArg Host.Outcome.next (State.completeGrant_applied hhead happlies _), changesOnly_mono hframe (by simp), hmarks, hengine, hpurse, fun hzero => ?_,
      fun e hne he => ⟨fun hkind => ?_, fun hkind => ?_⟩, fun hne he => ⟨fun hplace => ?_, fun i hplace => ?_⟩⟩
    · have hsame : (s.advanceSeq cell).entitleFixture (grantIdent cell) = s.advanceSeq cell := if_pos hzero
      rw [hsame]
      exact ⟨hfixtures, hconds⟩
    · rw [State.entitleFixture_upgrade hne ((hlook _).trans he) hkind]
      obtain ⟨hthis, hothers⟩ := (s.advanceSeq cell).updateFixture_spec (grantIdent cell) (fun e => { e with kind := .granted }) (fun _ => rfl)
      exact ⟨hthis.trans (by rw [hlook, he]; rfl), fun u hu => (hothers u hu).trans (hlook u), hbook .entitlementChanged (.tag (grantIdent cell))⟩
    · rw [State.entitleFixture_kept hne ((hlook _).trans he) hkind]
      exact ⟨hfixtures, hconds⟩
    · rw [State.entitleFixture_noPlace hne ((hlook _).trans he) (by rw [hevict, hfixtures]; exact hplace)]
      exact ⟨hfixtures, hbook .tableFull (.table (grantIdent cell) .fixtureTable)⟩
    · rw [State.entitleFixture_place hne ((hlook _).trans he) (by rw [hevict, hfixtures]; exact hplace)]
      exact ⟨congrArg (fun xs : List (Option FixtureEntry) => xs.set i (some (awaitingEntry (grantIdent cell) .granted false))) hfixtures,
        hbook .entitlementChanged (.tag (grantIdent cell))⟩
  · obtain ⟨hframe, hmarks, hengine, hpurse⟩ := grantEffect_of_owner (bs := [.fixtures, .conds])
      (changesOnly_of_framed ((s.advanceSeq cell).revokeFixture_framed (grantIdent cell))) (by simp) (by simp) (by simp)
      ((s.advanceSeq cell).revokeFixture_marks (grantIdent cell))
    refine ⟨_, congrArg Host.Outcome.next (State.completeGrant_applied hhead happlies _), changesOnly_mono hframe (by simp), hmarks, hengine, hpurse, fun u hu => ?_,
      fun hnot => ?_, fun e he hkind => ?_⟩
    · exact ((s.advanceSeq cell).revokeFixture_other_tags hu).trans (hlook u)
    · rw [State.revokeFixture_other (fun e he => hnot e ((hlook _).symm.trans he))]
      exact ⟨hfixtures, hconds⟩
    · obtain ⟨hcovered, haway, hlost⟩ := State.revokeFixture_granted ((hlook _).trans he) hkind
      have hupdate : ∀ f : FixtureEntry → FixtureEntry, (∀ e, (f e).tag = e.tag) →
          ((s.advanceSeq cell).updateFixture (grantIdent cell) f).fixture (grantIdent cell) = some (f e) := fun f hf =>
        ((s.advanceSeq cell).updateFixture_spec (grantIdent cell) f hf).1.trans (by rw [hlook, he]; rfl)
      refine ⟨?_, fun id hmay hpass => ?_, fun haw hnone => ?_, fun haw hnone => ?_⟩
      · have hbooked := hbook .entitlementChanged (.tag (grantIdent cell))
        rcases (s.advanceSeq cell).revokeFixture_cases (grantIdent cell) with ⟨-, hnot⟩ | ⟨f, -, h⟩ | h
        · exact absurd hkind (hnot e ((hlook _).trans he))
        · rw [h]
          exact hbooked
        · rw [h]
          exact hbooked
      · rw [hcovered id hmay ((hcover _).trans hpass)]
        exact hupdate _ (fun _ => rfl)
      · rw [haway (.inr ((hcover _).trans hnone)) haw]
        exact ((s.advanceSeq cell).removeFixtures_fixture _).1
      · have hnot : ¬ (e.standing = .awaiting ∨ onOfferNow e) ∨ (s.advanceSeq cell).coveringPass (grantIdent cell) = none :=
          hnone.imp (fun hoff => not_or.mpr ⟨haw, hoff⟩) (fun hpass => (hcover _).trans hpass)
        rw [hlost hnot haw]
        exact hupdate _ (fun _ => rfl)

/-! ### NIGHT_RESET (R79) -/

theorem any_zip_map {α : Type} (xs : List α) (g : α → α) (p : α × α → Bool) : (xs.zip (xs.map g)).any p = true ↔ ∃ x ∈ xs, p (x, g x) = true := by
  induction xs with
  | nil => simp
  | cons x xs ih => simp [ih]

/-- A table after the removal of entries. -/
theorem tableUpdate_remove {α : Type} (t : List (Option α)) {p keep : α → Bool} (h : ∀ e, keep e = !p e) :
    tableUpdate t p (fun _ => none) = t.map (fun o => o.filter keep) := by
  refine List.map_congr_left (fun o _ => ?_)
  cases o with
  | none => rfl
  | some e => cases hp : p e <;> simp [h, hp, Option.filter]

theorem nightRemoves_eq {s : State} {keep : FixtureEntry → Bool} (h : keep = fun e => match e.standing with
      | .awaiting => false
      | .scheduled _ .retired => false
      | .scheduled _ .cancelled => s.refunds.contains e.tag
      | _ => true) (e : FixtureEntry) : keep e = !nightRemoves s.refunds e := by
  subst h
  unfold nightRemoves
  obtain ⟨tag, standing, kind, viewed, remaining, delivered⟩ := e
  cases standing with
  | awaiting => rfl
  | scheduled sch ph =>
    cases ph with
    | cancelled => exact (Bool.not_not _).symm
    | _ => rfl

theorem passClosed_eq {s : State} {keep : PassEntry → Bool} (h : keep = fun p => match p.sale with
      | some sale => decide (s.now.toNat < sale.closes.toNat)
      | none => true) (p : PassEntry) : keep p = !passClosed s.now p := by
  subst h
  unfold passClosed
  obtain ⟨id, members, sale, owner⟩ := p
  cases sale with
  | none => rfl
  | some sale =>
    show decide (s.now.toNat < sale.closes.toNat) = !decide (sale.closes.toNat ≤ s.now.toNat)
    rw [← decide_not, decide_eq_decide]
    exact Nat.not_le.symm

/-- Settles O40: both tables lose what the night removes, and S2 is marked where an entitled entry or an owned pass goes. -/
theorem nightResetSweepsTheTables : Obligations.NightResetSweepsTheTables := by
  rintro s cell keepFixture keepPass ⟨hhead, hunit, happlies⟩ hkeepFixture hkeepPass
  have hfixture := nightRemoves_eq hkeepFixture
  have hpass := passClosed_eq hkeepPass
  have hfixtures := tableUpdate_remove s.fixtures hfixture
  have hpasses := tableUpdate_remove s.passes hpass
  have hnight : (sequencedState s cell).nightReset =
      (({ sequencedState s cell with purse := { sequenced s cell with spent := 0 } }).removeFixtures (nightRemoves s.refunds)).setPasses
        (tableUpdate s.passes (passClosed s.now) (fun _ => none)) := by
    unfold State.nightReset
    rw [State.setPurse_of_s0 (s := sequencedState s cell) rfl]
    rfl
  have hexec : exec .nightReset s = .next (sequencedState s cell).nightReset.popCell := by
    refine congrArg Host.Outcome.next ((State.completeGrant_applied hhead happlies _).trans ?_)
    rw [State.advanceSeq_unit hunit happlies]
  rw [hnight] at hexec
  refine ⟨_, hexec, ?_, ?_, rfl, hfixtures, hpasses, rfl, ?_⟩
  · intro b hb
    cases b <;> first | rfl | simp at hb
  · exact congrArg State.engine (State.popCell_of (s := s) rfl rfl)
  · have hmarkF : (s.fixtures.zip (tableUpdate s.fixtures (nightRemoves s.refunds) (fun _ => none))).any (fun p => retainedChange s.refunds p.1 p.2) = true ↔
        ∃ e, inUse s.fixtures e ∧ keepFixture e = false ∧ e.kind ≠ .none := by
      rw [hfixtures, any_zip_map]
      constructor
      · rintro ⟨o, ho, hchange⟩
        cases o with
        | none => exact absurd hchange Bool.false_ne_true
        | some e =>
          cases hk : keepFixture e with
          | false => exact ⟨e, ho, hk, by simpa [Option.filter, hk, retainedChange] using hchange⟩
          | true => simp [Option.filter, hk, retainedChange] at hchange
      · rintro ⟨e, he, hk, hkind⟩
        exact ⟨some e, he, by simpa [Option.filter, hk, retainedChange] using hkind⟩
    have hmarkP : (s.passes.zip (tableUpdate s.passes (passClosed s.now) (fun _ => none))).any (fun p => passChange p.1 p.2) = true ↔
        ∃ p, inUse s.passes p ∧ keepPass p = false ∧ p.owner ≠ .none := by
      rw [hpasses, any_zip_map]
      constructor
      · rintro ⟨o, ho, hchange⟩
        cases o with
        | none => exact absurd hchange Bool.false_ne_true
        | some p =>
          cases hk : keepPass p with
          | false => exact ⟨p, ho, hk, by simpa [Option.filter, hk, passChange, PassEntry.owned] using hchange⟩
          | true => simp [Option.filter, hk, passChange] at hchange
      · rintro ⟨p, hp, hk, howner⟩
        exact ⟨some p, hp, by simpa [Option.filter, hk, passChange, PassEntry.owned] using howner⟩
    rw [← hmarkF, ← hmarkP, ← or_assoc, ← Bool.or_eq_true, ← Bool.or_eq_true]
    rfl

end Sys2Proof.Machine

/-! Proofs: the clock, the derivation of phases and the metering of preview (R57, R66 to R68, R134 to R138). -/

namespace Sys2Proof.Machine

open Sys2Proof.Safety

set_option Elab.async false

/-! ### Phases (Table 4-2) -/

theorem derivePhase_table42 (sch : Schedule) (c : Seconds) : table42 sch c.toNat (derivePhase sch c) := by
  unfold derivePhase table42
  split
  · rename_i hlisted
    exact .inl ⟨hlisted, rfl⟩
  rename_i hlisted
  split
  · rename_i hsale
    exact .inr (.inl ⟨by omega, hsale, rfl⟩)
  rename_i hsale
  split
  · rename_i hlive
    exact .inr (.inr (.inl ⟨by omega, by omega, hlive, rfl⟩))
  rename_i hlive
  split
  · rename_i hended
    exact .inr (.inr (.inr (.inl ⟨by omega, by omega, by omega, hended, rfl⟩)))
  · rename_i hended
    exact .inr (.inr (.inr (.inr ⟨by omega, by omega, by omega, rfl⟩)))

theorem Phase.rank_eq (ph : Phase) : ph.rank = phaseOrder ph := by cases ph <;> rfl

theorem FixtureEntry.advance_derivedAt (c : Seconds) (e : FixtureEntry) : derivedAt c.toNat e (e.advance c) := by
  obtain ⟨tag, standing, kind, viewed, remaining, delivered⟩ := e
  cases standing with
  | awaiting => rfl
  | scheduled sch ph =>
    by_cases hcancelled : sch.cancelled = true
    · simp only [derivedAt, FixtureEntry.advance, hcancelled, if_true]
    · simp only [derivedAt, FixtureEntry.advance, hcancelled]
      refine ⟨derivePhase sch c, derivePhase_table42 sch c, ?_⟩
      simp only [Phase.forward, Phase.rank_eq]
      rfl

/-- An entry that loses a second of preview: a marked NONE entry in ON_SALE or LIVE (R57). -/
def charged (e : FixtureEntry) : Prop :=
  e.delivered = true ∧ e.kind = .none ∧ ∃ sch, e.standing = .scheduled sch .onSale ∨ e.standing = .scheduled sch .live

theorem FixtureEntry.meter_of_charged {e : FixtureEntry} (h : charged e) : e.meter = { e with remaining := e.remaining - 1, delivered := false } := by
  obtain ⟨hdelivered, hkind, sch, hst | hst⟩ := h <;> simp [FixtureEntry.meter, hdelivered, hkind, hst]

theorem FixtureEntry.meter_of_not_charged {e : FixtureEntry} (h : ¬ charged e) : e.meter = { e with delivered := false } := by
  unfold FixtureEntry.meter
  by_cases hdelivered : e.delivered = true
  · by_cases hkind : e.kind = .none
    · have hphase : ∀ sch, e.standing ≠ .scheduled sch .onSale ∧ e.standing ≠ .scheduled sch .live := fun sch =>
        not_or.mp (fun hst => h ⟨hdelivered, hkind, sch, hst⟩)
      cases hst : e.standing with
      | awaiting => simp
      | scheduled sch ph =>
        cases ph with
        | onSale => exact absurd hst (hphase sch).1
        | live => exact absurd hst (hphase sch).2
        | _ => simp
    · simp [hkind]
  · simp [hdelivered]

theorem getElem?_map_option {α : Type} (xs : List (Option α)) (f : α → α) (i : Nat) :
    (xs[i]? = some none → (xs.map (Option.map f))[i]? = some none) ∧ ∀ e, xs[i]? = some (some e) → (xs.map (Option.map f))[i]? = some (some (f e)) := by
  rw [List.getElem?_map]
  refine ⟨fun h => ?_, fun e h => ?_⟩
  all_goals
    rw [h]
    rfl

/-- Settles O44: the phases first, then the metering; the adopted value restarts the second. -/
theorem clockAdvancesAndAdopts : Obligations.ClockAdvancesAndAdopts := by
  refine ⟨fun _ => rfl, fun s => ⟨fun hrun => ?_, fun hrun => ?_, fun cell hcell => ?_⟩⟩
  · have hsecond : s.secondEvent = State.meterPreview (State.advancePhases (s.clock.value + 1)
        { s with clock := { s.clock with value := s.clock.value + 1, sub := 0 } }) := if_pos hrun
    refine ⟨s.secondEvent, rfl, ?_, ?_, fun i => ?_⟩
    · rw [hsecond]
      intro b hb
      cases b <;> first | rfl | simp at hb
    · rw [hsecond, ← hrun]
      rfl
    · rw [hsecond]
      obtain ⟨hnone, hsome⟩ := getElem?_map_option s.fixtures (FixtureEntry.advance (s.clock.value + 1)) i
      obtain ⟨hnone', hsome'⟩ := getElem?_map_option (s.fixtures.map (Option.map (FixtureEntry.advance (s.clock.value + 1)))) FixtureEntry.meter i
      exact ⟨fun h => hnone' (hnone h), fun e he => ⟨_, _, e.advance_derivedAt _, hsome' _ (hsome e he), FixtureEntry.meter_of_charged, FixtureEntry.meter_of_not_charged⟩⟩
  · have hstands : s.secondEvent = s := if_neg (by simp [hrun])
    exact congrArg Host.Outcome.next hstands
  · have hexec : exec .timeCellAdoption s = .next (s.adoptTime (pay32 cell 0)).popCell := congrArg Host.Outcome.next (State.complete_head hcell _)
    have hadopt : ∃ cs : Conditions, s.adoptTime (pay32 cell 0) =
        { State.advancePhases (pay32 cell 0) { s with clock := { running := true, value := pay32 cell 0, sub := 0 } } with conds := cs } ∧
        ∀ d : Int, d = ((pay32 cell 0).toNat : Int) - (s.clock.value.toNat : Int) →
          (s.clock.running = false ∨ (-2 ≤ d ∧ d ≤ 2) → cs = s.conds) ∧
          (s.clock.running = true → d < -2 ∨ 2 < d → cs = (s.book .clockJump (.difference (max (-2147483647) (min d 2147483647)))).conds) := by
      unfold State.adoptTime
      by_cases hjump : s.clock.running = true ∧ (((pay32 cell 0).toNat : Int) - (s.clock.value.toNat : Int) < -2 ∨ 2 < ((pay32 cell 0).toNat : Int) - (s.clock.value.toNat : Int))
      · simp only [if_pos hjump]
        refine ⟨_, rfl, ?_⟩
        rintro d rfl
        refine ⟨fun hsmall => ?_, fun _ _ => rfl⟩
        obtain ⟨hrun, hfar⟩ := hjump
        rcases hsmall with hstop | hnear
        · exact absurd (hrun.symm.trans hstop) (by decide)
        · omega
      · simp only [if_neg hjump]
        refine ⟨s.conds, rfl, ?_⟩
        rintro d rfl
        exact ⟨fun _ => rfl, fun hrun hfar => absurd ⟨hrun, hfar⟩ hjump⟩
    obtain ⟨cs, hadopt, hconds⟩ := hadopt
    rw [hadopt] at hexec
    refine ⟨_, hexec, ?_, congrArg State.engine (State.popCell_of (s := s) rfl rfl), rfl, fun i => ?_, hconds⟩
    · intro b hb
      cases b <;> first | rfl | simp at hb
    · obtain ⟨hnone, hsome⟩ := getElem?_map_option s.fixtures (FixtureEntry.advance (pay32 cell 0)) i
      exact ⟨hnone, fun e he => ⟨_, e.advance_derivedAt _, hsome e he⟩⟩

end Sys2Proof.Machine

/-! Proofs: the reach of a pass (R82 to R84), ENTITLE and REVOKE of a pass, and PASS cells (R80, R81). -/

namespace Sys2Proof.Machine

open Sys2Proof.Safety

set_option Elab.async false

/-! ### ENTITLEMENT_CHANGED booked for each of several tags (R169, assumption log 15) -/

/-- ENTITLEMENT_CHANGED booked once for each tag. -/
def State.bookAll (s : State) (tags : List Tag) : State := tags.foldl (fun s t => s.bookEntitlement t) s

theorem State.bookEntitlement_get (s : State) (t : Tag) :
    (s.bookEntitlement t).conds.entitlementChanged = { booked := true, count := min (s.conds.entitlementChanged.count + 1) 65535, data := some (.tag t) } := by
  have hdata : mergeData s.conds.entitlementChanged.data (.tag t) = .tag t := by
    unfold mergeData
    split
    · cases ‹CondData.tag t = _›
    · rfl
  show ({ booked := true, count := _, data := some (mergeData s.conds.entitlementChanged.data (.tag t)) } : Cond) = _
  rw [hdata]
  rfl

theorem State.bookAll_spec (tags : List Tag) : ∀ s : State, condsOnly [.entitlementChanged] s (s.bookAll tags) ∧
    (s.bookAll tags).conds.entitlementChanged.count = (if tags = [] then s.conds.entitlementChanged.count else min (s.conds.entitlementChanged.count + tags.length) 65535) ∧
      (tags ≠ [] → (s.bookAll tags).conds.entitlementChanged.booked = true ∧ ∃ t ∈ tags, (s.bookAll tags).conds.entitlementChanged.data = some (.tag t)) := by
  induction tags with
  | nil => exact fun s => ⟨condsOnly_refl _ s, by rw [if_pos rfl]; rfl, fun h => absurd rfl h⟩
  | cons t ts ih =>
    intro s
    obtain ⟨honly, hcount, hdata⟩ := ih (s.bookEntitlement t)
    have hone := s.bookEntitlement_get t
    refine ⟨condsOnly_trans (State.book_spec s .entitlementChanged (.tag t)).2.2 honly, ?_, fun _ => ?_⟩
    · have hhead : (s.bookAll (t :: ts)).conds.entitlementChanged.count = ((s.bookEntitlement t).bookAll ts).conds.entitlementChanged.count := rfl
      rw [hhead, hcount, hone, if_neg (List.cons_ne_nil t ts), List.length_cons]
      split
      · rename_i hts
        rw [hts]
        rfl
      · rename_i hts
        dsimp only
        omega
    · by_cases hts : ts = []
      · subst hts
        have hlast : (s.bookAll [t]).conds.entitlementChanged = _ := hone
        rw [hlast]
        exact ⟨rfl, t, List.mem_singleton_self t, rfl⟩
      · obtain ⟨hbooked, u, hu, hdata⟩ := hdata hts
        exact ⟨hbooked, u, List.mem_cons_of_mem _ hu, hdata⟩

theorem State.settleLatest_few (before s : State) {tags : List Tag} (h : tags.length < 2) : State.settleLatest before tags s = s := by
  match tags, h with
  | [], _ => rfl
  | [_], _ => rfl

/-- The bookings of several tags, with the last of them settled. -/
theorem changedBooked_of_bookAll {s u before : State} {tags : List Tag} {changed : Tag → Prop} (hnodup : tags.Nodup) (hchanged : ∀ t, t ∈ tags ↔ changed t)
    (hconds : u.conds = (s.bookAll tags).conds) :
    condsOnly [.entitlementChanged] s (State.settleLatest before tags u) ∧ changedBooked changed s (State.settleLatest before tags u) ∧
      (tags = [] → (State.settleLatest before tags u).conds = s.conds) := by
  obtain ⟨honly, hcount, hdata⟩ := State.bookAll_spec tags s
  obtain ⟨-, hsettled, hbooked', hcount'⟩ := State.settleLatest_spec before tags u
  rw [← hconds] at hcount hdata
  have hfirst : condsOnly [.entitlementChanged] s u := fun k hk => by rw [hconds]; exact honly k hk
  have hempty : tags = [] → (State.settleLatest before tags u).conds = s.conds := fun h => by
    subst h
    exact hconds
  refine ⟨condsOnly_trans hfirst hsettled, ⟨fun ⟨t, ht⟩ => ?_, fun hnone => ?_, fun others hne hnodup' hothers => ?_⟩, hempty⟩
  · have hne : tags ≠ [] := List.ne_nil_of_mem ((hchanged t).mpr ht)
    obtain ⟨hbooked, w, hw, hlast⟩ := hdata hne
    refine ⟨hbooked'.trans hbooked, ?_⟩
    by_cases hfew : tags.length < 2
    · rw [State.settleLatest_few before u hfew]
      exact ⟨w, (hchanged w).mp hw, hlast⟩
    · obtain ⟨v, hv, hkept⟩ := State.settleLatest_data before tags u (Nat.le_of_not_lt hfew)
      exact ⟨v, (hchanged v).mp hv, hkept⟩
  · exact congrArg (·.entitlementChanged) (hempty (List.eq_nil_iff_forall_not_mem.mpr (fun t ht => hnone t ((hchanged t).mp ht))))
  · have hperm : others.Perm tags := (List.perm_ext_iff_of_nodup hnodup' hnodup).mpr (fun t => (hothers t).trans (hchanged t).symm)
    have hne' : tags ≠ [] := fun h => hne (List.perm_nil.mp (h ▸ hperm))
    rw [hcount', hcount, if_neg hne', hperm.length_eq]

/-! ### Propagation (R82) -/

theorem State.reaches_iff (s : State) (t : Tag) : s.reaches t = true ↔ ∃ e, s.fixture t = some e ∧ t ≠ 0 ∧ e.kind = .none ∧ onOfferNow e := by
  unfold State.reaches
  cases s.fixture t with
  | none => simp
  | some e => simp [FixtureEntry.onOffer_iff, and_assoc]

theorem State.propagateTag_idle {s : State} {t : Tag} (h : s.reaches t = false) (id : PassId) : s.propagateTag id t = s := by
  unfold State.propagateTag State.reaches at *
  cases hf : s.fixture t with
  | none => rfl
  | some e =>
    rw [hf] at h
    refine if_neg (fun ⟨hne, hkind, hon⟩ => Bool.false_ne_true (h.symm.trans ?_))
    dsimp only
    rw [hkind, hon, bne_iff_ne.mpr hne]
    rfl

theorem State.propagateTag_reaches (s : State) (id : PassId) (t u : Tag) : (s.propagateTag id t).reaches u = if u = t then false else s.reaches u := by
  have hfix := s.propagateTag_fixture id t u
  split
  · rename_i hu
    subst hu
    refine Bool.eq_false_iff.mpr (fun hreach => ?_)
    obtain ⟨e', he', hne, hkind, hon⟩ := (State.reaches_iff _ _).mp hreach
    obtain ⟨e, -, rfl⟩ := Option.map_eq_some_iff.mp (hfix.symm.trans he')
    split at hkind
    · cases hkind
    · rename_i hnot
      rw [if_neg hnot] at hon
      exact hnot ⟨rfl, hne, hkind, e.onOffer_iff.mpr hon⟩
  · rename_i hu
    have hsame : (s.propagateTag id t).fixture u = s.fixture u := by
      rw [hfix]
      simp [hu]
    unfold State.reaches
    rw [hsame]

/-- A tag that is not reached can be left out. -/
theorem State.propagateAll_skip (id : PassId) {t : Tag} (tags : List Tag) : ∀ {s : State}, s.reaches t = false →
    s.propagateAll id tags = s.propagateAll id (tags.filter (fun u => !(u == t))) := by
  induction tags with
  | nil => exact fun _ => rfl
  | cons u us ih =>
    intro s h
    have hstep : s.propagateAll id (u :: us) = (s.propagateTag id u).propagateAll id us := rfl
    have hnext : (s.propagateTag id u).reaches t = false := by
      rw [State.propagateTag_reaches]
      split
      · rfl
      · exact h
    rw [hstep, ih hnext]
    by_cases hut : u = t
    · subst hut
      rw [State.propagateTag_idle h]
      simp
    · rw [List.filter_cons_of_pos (by simpa using hut)]
      rfl

/-- Propagation books ENTITLEMENT_CHANGED once for each distinct tag that is reached. -/
theorem State.propagateAll_conds (id : PassId) : ∀ (n : Nat) (tags : List Tag) (s : State), tags.length ≤ n →
    (s.propagateAll id tags).conds = (s.bookAll (tags.eraseDups.filter s.reaches)).conds := by
  intro n
  induction n with
  | zero =>
    intro tags s hlen
    rw [List.length_eq_zero_iff.mp (Nat.le_zero.mp hlen)]
    rfl
  | succ n ih =>
    intro tags s hlen
    cases tags with
    | nil => rfl
    | cons t ts =>
      have hstep : s.propagateAll id (t :: ts) = (s.propagateTag id t).propagateAll id ts := rfl
      have hidle : (s.propagateTag id t).reaches t = false := by rw [State.propagateTag_reaches, if_pos rfl]
      have hshort : (ts.filter (fun u => !(u == t))).length ≤ n := Nat.le_trans (List.length_filter_le _ _) (Nat.le_of_succ_le_succ hlen)
      rw [hstep, State.propagateAll_skip id ts hidle, ih _ _ hshort, List.eraseDups_cons]
      have hrest : (ts.filter (fun u => !(u == t))).eraseDups.filter (s.propagateTag id t).reaches = (ts.filter (fun u => !(u == t))).eraseDups.filter s.reaches := by
        refine List.filter_congr (fun u hu => ?_)
        have hne : u ≠ t := by simpa using (List.mem_filter.mp (List.mem_eraseDups.mp hu)).2
        rw [State.propagateTag_reaches, if_neg hne]
      rw [hrest]
      have hconds := s.propagateTag_conds id t
      have hsame : ∀ (xs : List Tag) {a b : State}, a.conds = b.conds → (a.bookAll xs).conds = (b.bookAll xs).conds := by
        intro xs
        induction xs with
        | nil => exact fun h => h
        | cons x xs ihx => exact fun h => ihx (State.book_conds_of_same h .entitlementChanged (.tag x))
      by_cases hreach : s.reaches t = true
      · rw [if_pos hreach] at hconds
        rw [List.filter_cons_of_pos hreach]
        exact hsame _ hconds
      · rw [if_neg hreach] at hconds
        rw [List.filter_cons_of_neg hreach]
        exact hsame _ hconds

/-- A rank of what S2 keeps: entitled by this pass, entitled otherwise, not entitled. -/
def passRank (id : PassId) : Kept → Nat
  | none => 0
  | some (_, k, _) => if k = .pass id then 2 else 1

theorem keptFixture_some {e : FixtureEntry} (h : e.kind ≠ .none) : keptFixture (some e) = some (e.tag, e.kind, e.viewed) := if_neg h

theorem passRank_step (id : PassId) (e : FixtureEntry) : keptStep (passRank id) (keptFixture (some e)) (keptFixture (some { e with kind := .pass id })) := by
  have hnew : keptFixture (some { e with kind := .pass id }) = some (e.tag, .pass id, e.viewed) := keptFixture_some nofun
  rw [hnew]
  by_cases hnone : e.kind = .none
  · have hold : keptFixture (some e) = none := if_pos hnone
    rw [hold]
    exact .inr (by simp [passRank])
  · rw [keptFixture_some hnone]
    by_cases hpass : e.kind = .pass id
    · rw [hpass]
      exact .inl rfl
    · exact .inr (by simp [passRank, hpass])

theorem State.propagateTag_marks (s : State) (id : PassId) (t : Tag) : marksFollow s (s.propagateTag id t) ∧ advances (passRank id) s (s.propagateTag id t) := by
  unfold State.propagateTag
  split
  · split
    · have hadv := s.updateFixture_advances t (rank := passRank id) (f := fun e => { e with kind := .pass id }) (fun e _ => ⟨passRank_step id e, rfl⟩)
      exact ⟨marksFollow_bookEntitlement (s.updateFixture_marksFollow _ _) t, hadv.length, hadv.kept, hadv.purse, hadv.log, hadv.refunds, hadv.passes⟩
    · exact ⟨marksFollow_refl s, advances.refl s⟩
  · exact ⟨marksFollow_refl s, advances.refl s⟩

theorem State.propagateAll_marks (id : PassId) (tags : List Tag) : ∀ s : State, marksFollow s (s.propagateAll id tags) ∧ advances (passRank id) s (s.propagateAll id tags) := by
  induction tags with
  | nil => exact fun s => ⟨marksFollow_refl s, advances.refl s⟩
  | cons t ts ih =>
    intro s
    obtain ⟨hmarks, hadv⟩ := s.propagateTag_marks id t
    obtain ⟨hmarks', hadv'⟩ := ih (s.propagateTag id t)
    exact ⟨marksFollow_advances hmarks hadv hmarks' hadv', hadv.trans hadv'⟩

theorem State.settleLatest_marks {s u : State} (h : marksFollow s u) (before : State) (tags : List Tag) : marksFollow s (State.settleLatest before tags u) := by
  obtain ⟨hframe, -⟩ := State.settleLatest_spec before tags u
  exact marksFollow_of_same h (hframe .purse (by simp)) (hframe .log (by simp)) (hframe .fixtures (by simp)) (hframe .refunds (by simp)) (hframe .passes (by simp))
    (hframe .store (by simp))

theorem nodup_eraseDups : ∀ (n : Nat) (tags : List Tag), tags.length ≤ n → tags.eraseDups.Nodup := by
  intro n
  induction n with
  | zero =>
    intro tags hlen
    rw [List.length_eq_zero_iff.mp (Nat.le_zero.mp hlen)]
    exact List.nodup_nil
  | succ n ih =>
    intro tags hlen
    cases tags with
    | nil => exact List.nodup_nil
    | cons t ts =>
      rw [List.eraseDups_cons, List.nodup_cons]
      exact ⟨by simp, ih _ (Nat.le_trans (List.length_filter_le _ _) (Nat.le_of_succ_le_succ hlen))⟩

/-- What propagation of a pass to a list of members does (R82, R169). -/
theorem State.propagate_spec (s : State) (id : PassId) (tags : List Tag) : marksFollow s (s.propagate id tags) ∧ condsOnly [.entitlementChanged] s (s.propagate id tags) ∧
    propagationBooked tags s (s.propagate id tags) ∧ (∀ u, s.fixture u = none → (s.propagate id tags).fixture u = none) ∧
      ∀ u e, s.fixture u = some e → ∃ e', (s.propagate id tags).fixture u = some e' ∧ propagated id tags e e' := by
  have hnodup : (tags.eraseDups.filter s.reaches).Nodup := List.filter_sublist.nodup (nodup_eraseDups tags.length tags (Nat.le_refl _))
  have hmem : ∀ u, u ∈ tags.eraseDups.filter s.reaches ↔ ∃ e, s.fixture u = some e ∧ reached tags e := fun u => by
    rw [List.mem_filter, List.mem_eraseDups, State.reaches_iff]
    constructor
    · rintro ⟨hu, e, he, hne, hkind, hon⟩
      have htag := State.fixture_tag he
      exact ⟨e, he, htag ▸ hu, htag ▸ hne, hkind, hon⟩
    · rintro ⟨e, he, hu, hne, hkind, hon⟩
      have htag := State.fixture_tag he
      exact ⟨htag ▸ hu, e, he, htag ▸ hne, hkind, hon⟩
  obtain ⟨honly, hbooked, -⟩ := changedBooked_of_bookAll (before := s) hnodup hmem (State.propagateAll_conds id tags.length tags s (Nat.le_refl _))
  refine ⟨State.settleLatest_marks (State.propagateAll_marks id tags s).1 _ _, honly, hbooked, fun u hu => ?_, fun u e he => ?_⟩
  · rw [State.propagate_fixture, hu]
    rfl
  · have htag := State.fixture_tag he
    have hiff : (u ∈ tags ∧ u ≠ 0 ∧ e.kind = .none ∧ e.onOffer = true) ↔ reached tags e := by
      unfold reached
      rw [htag, FixtureEntry.onOffer_iff]
    refine ⟨_, by rw [State.propagate_fixture, he]; rfl, fun hreach => if_pos (hiff.mpr hreach), fun hnot => if_neg (fun h => hnot (hiff.mp h))⟩

/-! ### ENTITLE of a pass (R83) -/

section
variable {s : State} {id : PassId} {p : PassEntry}

theorem State.entitlePass_owned (hid : id ≠ 0) (hp : s.pass id = some p) (howner : p.owner ≠ .none) : s.entitlePass id = s := by
  unfold State.entitlePass
  rw [if_neg hid, hp]
  exact if_neg howner

theorem State.entitlePass_granted (hid : id ≠ 0) (hp : s.pass id = some p) (howner : p.owner = .none) :
    s.entitlePass id = (s.updatePass id (fun p => { p with owner := .granted })).propagate id p.members := by
  unfold State.entitlePass
  rw [if_neg hid, hp]
  exact if_pos howner

theorem State.entitlePass_noPlace (hid : id ≠ 0) (hp : s.pass id = none) (hplace : noPlaceIn s.passes (passEvictable s)) :
    s.entitlePass id = s.bookPassFull id := by
  unfold State.entitlePass
  rw [if_neg hid, hp]
  simp only [State.createPass_noPlace hplace]

theorem State.entitlePass_place {i : Nat} (hid : id ≠ 0) (hp : s.pass id = none) (hplace : placeIn s.passes (passEvictable s) i) :
    s.entitlePass id = s.setPasses (s.passes.set i (some { id := id, members := [], sale := none, owner := .granted })) := by
  unfold State.entitlePass
  rw [if_neg hid, hp]
  simp only [State.createPass_place hplace]

/-- A pass changed in its own entry, and then propagated. -/
theorem State.updatePass_propagate_marks (s : State) (id : PassId) (f : PassEntry → PassEntry) (tags : List Tag) : marksFollow s ((s.updatePass id f).propagate id tags) := by
  have hframe := (s.updatePass id f).propagate_frame id tags
  exact marksFollow_seq (s.updatePass_marksFollow id f) ((s.updatePass id f).propagate_spec id tags).1 (.inl rfl) (.inl rfl) (.inl rfl) (.inl rfl)
    (.inr (hframe .passes (by simp)))

theorem State.entitlePass_marks (s : State) (id : PassId) : marksFollow s (s.entitlePass id) := by
  unfold State.entitlePass
  split
  · exact marksFollow_refl s
  · split
    · split
      · exact s.updatePass_propagate_marks id _ _
      · exact marksFollow_refl s
    · split
      · exact State.createPass_marksFollow ‹_›
      · exact marksFollow_of_same (marksFollow_refl s) rfl rfl rfl rfl rfl rfl

/-- What propagation books and reaches does not read the pass table. -/
theorem propagationBooked_of_same {s s' t : State} {members : List Tag} (hfixtures : s'.fixtures = s.fixtures) (hconds : s'.conds = s.conds)
    (h : propagationBooked members s' t) : propagationBooked members s t := by
  unfold propagationBooked changedBooked at *
  rw [hconds] at h
  simpa only [State.fixture_of_same hfixtures] using h

/-- A pass changed in its own entry and propagated, seen from the state before. -/
theorem State.updatePass_propagate_spec (s : State) (id : PassId) {f : PassEntry → PassEntry} (hf : ∀ p, (f p).id = p.id) (tags : List Tag) {p : PassEntry}
    (hp : s.pass id = some p) :
    ((s.updatePass id f).propagate id tags).pass id = some (f p) ∧ (∀ id', id' ≠ id → ((s.updatePass id f).propagate id tags).pass id' = s.pass id') ∧
      condsOnly [.entitlementChanged] s ((s.updatePass id f).propagate id tags) ∧ propagationBooked tags s ((s.updatePass id f).propagate id tags) ∧
      (∀ u, s.fixture u = none → ((s.updatePass id f).propagate id tags).fixture u = none) ∧
      ∀ u e, s.fixture u = some e → ∃ e', ((s.updatePass id f).propagate id tags).fixture u = some e' ∧ propagated id tags e e' := by
  obtain ⟨hsame, hother⟩ := s.updatePass_spec id f hf
  obtain ⟨-, hconds, hbooked, hnone, hsome⟩ := (s.updatePass id f).propagate_spec id tags
  have hpasses := State.pass_of_same (((s.updatePass id f).propagate_frame id tags) .passes (by simp))
  refine ⟨(hpasses id).trans (hsame.trans (by rw [hp]; rfl)), fun id' hid => (hpasses id').trans (hother id' hid), hconds, hbooked, hnone, hsome⟩

/-! ### REVOKE of a pass (R84) -/

/-- The state in which a revoked pass is no longer owned, before its members are looked at. -/
def State.disowned (s : State) (id : PassId) : State := s.updatePass id (fun p => { p with owner := .none })

theorem State.revokePass_other (h : ∀ p, s.pass id = some p → p.owner ≠ .granted) : s.revokePass id = s := by
  unfold State.revokePass
  split
  · exact if_neg (h _ ‹_›)
  · rfl

theorem State.revokePass_granted (hp : s.pass id = some p) (howner : p.owner = .granted) :
    s.revokePass id = State.settleLatest (s.disowned id) ((s.disowned id).revokedTags id)
      (((s.disowned id).setFixtures ((s.disowned id).fixtures.map (fun o => o.bind ((s.disowned id).revokedEntry id)))).bookAll ((s.disowned id).revokedTags id)) := by
  unfold State.revokePass
  rw [hp]
  exact if_pos howner

end

end Sys2Proof.Machine

/-! Proofs: REVOKE of a pass, the grants to passes (R83, R84), and PASS cells (R81, R82). -/

namespace Sys2Proof.Machine

open Sys2Proof.Safety

set_option Elab.async false

/-! ### Lookups after a change -/

section
variable {α : Type} {t : List (Option α)} {p q c : α → Bool}

/-- Where the entries changed fail both tests and the others fail or pass both, both lookups find the same. -/
theorem tableFind_update_test {f : α → α} (hchanged : ∀ e, c e = true → p (f e) = false ∧ q e = false) (hkept : ∀ e, c e = false → p e = q e) :
    tableFind (tableUpdate t c (fun e => some (f e))) p = tableFind t q := by
  unfold tableFind tableUpdate
  induction t with
  | nil => rfl
  | cons o os ih =>
    have hhead : (o.bind (fun e => if c e then some (f e) else some e)).filter p = o.filter q := by
      cases o with
      | none => rfl
      | some e =>
        cases hc : c e with
        | true =>
          obtain ⟨hp, hq⟩ := hchanged e hc
          simp [hc, hp, hq, Option.filter]
        | false => simp [hc, hkept e hc, Option.filter]
    rw [List.map_cons, List.findSome?_cons, List.findSome?_cons, hhead, ih]

theorem tableFind_bind_none {g : α → Option α} (hp : ∀ e e', g e = some e' → p e' = p e) (h : tableFind t p = none) : tableFind (t.map (fun o => o.bind g)) p = none := by
  cases hnew : tableFind (t.map (fun o => o.bind g)) p with
  | none => rfl
  | some e' =>
    obtain ⟨hin, hpe⟩ := tableFind_some hnew
    obtain ⟨e, he, hge⟩ := inUse_bind hin
    exact absurd (hpe.symm.trans (hp e e' hge)) (by simp [tableFind_none h e he])

end

theorem fixture_iff_of_keyed {s : State} (h : TablesKeyed s) {u : Tag} {e : FixtureEntry} : s.fixture u = some e ↔ inUse s.fixtures e ∧ e.tag = u := by
  refine ⟨fun he => ⟨(tableFind_some he).1, State.fixture_tag he⟩, ?_⟩
  rintro ⟨hin, rfl⟩
  cases hfind : s.fixture e.tag with
  | none => exact absurd rfl (State.fixture_fresh hfind e hin)
  | some x => rw [keyed_unique h.1 (tableFind_some hfind).1 hin (State.fixture_tag hfind)]

/-! ### REVOKE of a pass (R84) -/

section
variable {s : State} {id : PassId}

/-- Once a pass is no longer owned, the pass that covers a tag is the lowest-indexed other one. -/
theorem State.disowned_coveringPass (s : State) (id : PassId) (u : Tag) : (s.disowned id).coveringPass u = (otherPass s id u).map (·.id) := by
  refine congrArg (Option.map PassEntry.id) ?_
  refine tableFind_update_test (fun e he => ?_) (fun e he => ?_)
  · rw [beq_iff_eq] at he
    simp [PassEntry.owned, he]
  · have hne : (e.id != id) = true := bne_iff_ne.mpr (by simpa using he)
    simp [hne]

theorem State.revokedEntry_tag (s : State) (id : PassId) (e e' : FixtureEntry) (h : s.revokedEntry id e = some e') : e'.tag = e.tag := by
  unfold State.revokedEntry at h
  split at h
  · split at h
    · cases h
      rfl
    · split at h
      · cases h
      · cases h
        rfl
  · cases h
    rfl

theorem State.revokedEntry_other {e : FixtureEntry} (h : e.kind ≠ .pass id) : s.revokedEntry id e = some e := if_neg h

theorem State.revokedEntry_follows {e : FixtureEntry} (h : e.kind = .pass id) {other : PassId} (hcover : s.coveringPass e.tag = some other) :
    s.revokedEntry id e = some { e with kind := .pass other } := by
  unfold State.revokedEntry
  rw [if_pos h, hcover]

theorem State.revokedEntry_lost {e : FixtureEntry} (h : e.kind = .pass id) (hcover : s.coveringPass e.tag = none) :
    (e.standing = .awaiting → s.revokedEntry id e = none) ∧ (e.standing ≠ .awaiting → s.revokedEntry id e = some { e with kind := .none, viewed := false }) := by
  unfold State.revokedEntry
  rw [if_pos h, hcover]
  obtain ⟨tag, standing, kind, viewed, remaining, delivered⟩ := e
  cases standing with
  | awaiting => exact ⟨fun _ => rfl, fun h => absurd rfl h⟩
  | scheduled sch ph => exact ⟨nofun, fun _ => rfl⟩

theorem State.mem_revokedTags (h : TablesKeyed s) {u : Tag} :
    u ∈ (s.disowned id).revokedTags id ↔ ∃ e, s.fixture u = some e ∧ e.kind = .pass id ∧ otherPass s id u = none := by
  unfold State.revokedTags
  simp only [List.mem_filterMap, State.disowned_coveringPass, Option.map_eq_none_iff]
  constructor
  · rintro ⟨o, ho, hu⟩
    obtain ⟨e, rfl, hsome⟩ := Option.bind_eq_some_iff.mp hu
    obtain ⟨hlost, hsome⟩ := of_ite_ne_else hsome nofun
    cases hsome
    exact ⟨e, (fixture_iff_of_keyed h).mpr ⟨ho, rfl⟩, hlost⟩
  · rintro ⟨e, he, hkind, hother⟩
    obtain ⟨hin, rfl⟩ := (fixture_iff_of_keyed h).mp he
    exact ⟨some e, hin, if_pos ⟨hkind, hother⟩⟩

theorem State.revokedTags_nodup (h : TablesKeyed s) : ((s.disowned id).revokedTags id).Nodup := by
  refine h.1.sublist ?_
  show ((s.disowned id).revokedTags id).Sublist (s.fixtures.filterMap (fun o => o.map (·.tag)))
  unfold State.revokedTags
  have hfix : (s.disowned id).fixtures = s.fixtures := rfl
  rw [hfix]
  generalize s.fixtures = t
  induction t with
  | nil => exact List.Sublist.slnil
  | cons o os ih =>
    cases o with
    | none => exact ih
    | some e =>
      by_cases hlost : e.kind = .pass id ∧ (s.disowned id).coveringPass e.tag = none
      · simp only [List.filterMap_cons, Option.bind_some, if_pos hlost, Option.map_some]
        exact ih.cons_cons _
      · simp only [List.filterMap_cons, Option.bind_some, if_neg hlost, Option.map_some]
        exact ih.cons _

theorem State.bookAll_frame (tags : List Tag) : ∀ s : State, changesOnly [.conds] s (s.bookAll tags) := by
  induction tags with
  | nil => exact fun s => changesOnly_refl _ s
  | cons t ts ih => exact fun s => changesOnly_trans (s.bookEntitlement_frame t) (ih _)

theorem State.bookAll_conds_of_same (tags : List Tag) : ∀ {s t : State}, t.conds = s.conds → (t.bookAll tags).conds = (s.bookAll tags).conds := by
  induction tags with
  | nil => exact fun h => h
  | cons t ts ih => exact fun h => ih (State.book_conds_of_same h .entitlementChanged (.tag t))

/-- The fixture table after the REVOKE of a pass. -/
def State.revokedFixtures (s : State) (id : PassId) : List (Option FixtureEntry) := s.fixtures.map (fun o => o.bind ((s.disowned id).revokedEntry id))

theorem State.revokePass_frame {p : PassEntry} (hp : s.pass id = some p) (howner : p.owner = .granted) :
    (s.revokePass id).fixtures = s.revokedFixtures id ∧ (s.revokePass id).passes = (s.disowned id).passes ∧ marksFollow s (s.revokePass id) := by
  rw [State.revokePass_granted hp howner]
  obtain ⟨hlatest, -⟩ := State.settleLatest_spec (s.disowned id) ((s.disowned id).revokedTags id)
    (((s.disowned id).setFixtures (s.revokedFixtures id)).bookAll ((s.disowned id).revokedTags id))
  have hbooked := State.bookAll_frame ((s.disowned id).revokedTags id) ((s.disowned id).setFixtures (s.revokedFixtures id))
  have hframe := changesOnly_trans hbooked hlatest
  have hset := (s.disowned id).setFixtures_marksFollow (s.revokedFixtures id) (List.length_map _)
  have hmarks := marksFollow_seq (s.updatePass_marksFollow id (fun p => { p with owner := .none })) hset (.inl rfl) (.inl rfl) (.inl rfl) (.inl rfl) (.inr rfl)
  exact ⟨hframe .fixtures (by simp), hframe .passes (by simp), marksFollow_of_same hmarks (hframe .purse (by simp)) (hframe .log (by simp)) (hframe .fixtures (by simp))
    (hframe .refunds (by simp)) (hframe .passes (by simp)) (hframe .store (by simp))⟩

/-- What the REVOKE of a GRANTED pass does to the entries and to ENTITLEMENT_CHANGED (R84, R169). -/
theorem State.revokePass_spec {p : PassEntry} (hkeyed : TablesKeyed s) (hp : s.pass id = some p) (howner : p.owner = .granted) :
    condsOnly [.entitlementChanged] s (s.revokePass id) ∧
      changedBooked (fun u => ∃ e, s.fixture u = some e ∧ e.kind = .pass id ∧ otherPass s id u = none) s (s.revokePass id) ∧
      ((∀ u e, s.fixture u = some e → e.kind = .pass id → otherPass s id u ≠ none) → (s.revokePass id).conds = s.conds) ∧
      (∀ u, s.fixture u = none → (s.revokePass id).fixture u = none) ∧
      ∀ u e, s.fixture u = some e → (∀ e', (s.disowned id).revokedEntry id e = some e' → (s.revokePass id).fixture u = some e') ∧
        ((s.disowned id).revokedEntry id e = none → (s.revokePass id).fixture u = none) := by
  obtain ⟨hfixtures, -, -⟩ := State.revokePass_frame hp howner
  have hconds : (((s.disowned id).setFixtures (s.revokedFixtures id)).bookAll ((s.disowned id).revokedTags id)).conds = (s.bookAll ((s.disowned id).revokedTags id)).conds :=
    State.bookAll_conds_of_same _ rfl
  obtain ⟨honly, hbooked, hnone⟩ := changedBooked_of_bookAll (before := s.disowned id) (State.revokedTags_nodup hkeyed) (fun u => State.mem_revokedTags hkeyed) hconds
  have heq := State.revokePass_granted hp howner
  have hlook : ∀ u, (s.revokePass id).fixture u = tableFind (s.revokedFixtures id) (fun e => e.tag == u) := fun u => by
    unfold State.fixture
    rw [hfixtures]
  have htags : ∀ (u : Tag) (e e' : FixtureEntry), (s.disowned id).revokedEntry id e = some e' → (e'.tag == u) = (e.tag == u) := fun u e e' he => by
    rw [(s.disowned id).revokedEntry_tag id e e' he]
  refine ⟨by rw [heq]; exact honly, by rw [heq]; exact hbooked, fun hall => ?_, fun u hu => ?_, fun u e he => ⟨fun e' hnew => ?_, fun hgone => ?_⟩⟩
  · rw [heq]
    refine hnone (List.eq_nil_iff_forall_not_mem.mpr (fun u hu => ?_))
    obtain ⟨e, he, hkind, hother⟩ := (State.mem_revokedTags hkeyed).mp hu
    exact hall u e he hkind hother
  · rw [hlook]
    exact tableFind_bind_none (htags u) hu
  · rw [hlook]
    exact tableFind_bind (htags u) he hnew
  · rw [hlook]
    cases hfind : tableFind (s.revokedFixtures id) (fun e => e.tag == u) with
    | none => rfl
    | some x' =>
      obtain ⟨hin, hx'⟩ := tableFind_some hfind
      obtain ⟨x, hx, hgx⟩ := inUse_bind hin
      have hxtag : x.tag = u := by
        have hsame := htags u x x' hgx
        rw [hx'] at hsame
        exact beq_iff_eq.mp hsame.symm
      have hxe : s.fixture u = some x := (fixture_iff_of_keyed hkeyed).mpr ⟨hx, hxtag⟩
      rw [he] at hxe
      cases hxe
      rw [hgone] at hgx
      cases hgx

end

/-! ### The grants to passes -/

theorem State.pass_firstWith (s : State) (id : PassId) : firstWith s.passes (fun p => p.id = id) (s.pass id) := tableFind_firstWith _ (by simp)

theorem tablesKeyed_of_same {s t : State} (h : TablesKeyed s) (hfixtures : t.fixtures = s.fixtures) (hpasses : t.passes = s.passes) : TablesKeyed t := by
  unfold TablesKeyed
  rw [hfixtures, hpasses]
  exact h

theorem passEvictable_of_same {s t : State} (h : t.clock = s.clock) : passEvictable t = passEvictable s := by
  unfold passEvictable State.now
  rw [h]

theorem otherPass_of_same {s t : State} (h : t.passes = s.passes) : otherPass t = otherPass s := by
  unfold otherPass
  rw [h]

theorem changedBooked_of_same {s s' t : State} {changed : Tag → Prop} (h : changedBooked changed s' t) (hconds : s'.conds = s.conds) : changedBooked changed s t := by
  unfold changedBooked at *
  rwa [hconds] at h

/-- Settles O38: on the state whose last sequence has advanced, the pass changes in its own entry, and its reach is the propagation or the fall-back. -/
theorem passGrantsReachTheirMembers : Obligations.PassGrantsReachTheirMembers := by
  refine ⟨State.pass_firstWith, fun s u => ⟨_, tableFind_firstWith s.passes (fun p => by simp [PassEntry.owned]), rfl⟩, fun s cell happlies hkeyed => ?_⟩
  have hseq := s.advanceSeq_frame cell
  have hfixtures : (s.advanceSeq cell).fixtures = s.fixtures := hseq .fixtures (by simp)
  have hpasses : (s.advanceSeq cell).passes = s.passes := hseq .passes (by simp)
  have hconds : (s.advanceSeq cell).conds = s.conds := hseq .conds (by simp)
  have hevict := passEvictable_of_same (hseq .clock (by simp) : (s.advanceSeq cell).clock = s.clock)
  have hlook : ∀ u, (s.advanceSeq cell).fixture u = s.fixture u := State.fixture_of_same hfixtures
  have hpass : ∀ id, (s.advanceSeq cell).pass id = s.pass id := State.pass_of_same hpasses
  have honly : ∀ t, condsOnly [.entitlementChanged] (s.advanceSeq cell) t → condsOnly [.entitlementChanged] s t := fun t h k hk => by rw [h k hk, hconds]
  refine ⟨fun hhead => ?_, fun hhead => ?_⟩
  · obtain ⟨hframe, hmarks, hengine, hpurse⟩ := grantEffect_of_owner (bs := [.fixtures, .passes, .conds])
      (changesOnly_of_framed ((s.advanceSeq cell).entitlePass_framed (grantPass cell))) (by simp) (by simp) (by simp) ((s.advanceSeq cell).entitlePass_marks (grantPass cell))
    refine ⟨_, congrArg Host.Outcome.next (State.completeGrant_applied hhead happlies _), changesOnly_mono hframe (by simp), hmarks, hengine, hpurse, fun hzero => ?_,
      fun p hne hp => ⟨fun howner => ?_, fun howner => ?_⟩, fun hne hp => ⟨?_, fun hplace => ?_, fun i hplace => ?_⟩⟩
    · have hsame : (s.advanceSeq cell).entitlePass (grantPass cell) = s.advanceSeq cell := if_pos hzero
      rw [hsame]
      exact ⟨hpasses, hfixtures, hconds⟩
    · rw [State.entitlePass_owned hne ((hpass _).trans hp) howner]
      exact ⟨hpasses, hfixtures, hconds⟩
    · rw [State.entitlePass_granted hne ((hpass _).trans hp) howner]
      obtain ⟨hthis, hothers, hbooks, hbooked, hnone, hsome⟩ := (s.advanceSeq cell).updatePass_propagate_spec (grantPass cell)
        (f := fun p => { p with owner := .granted }) (fun _ => rfl) p.members ((hpass _).trans hp)
      exact ⟨hthis, honly _ hbooks, fun id' hid => (hothers id' hid).trans (hpass id'), propagationBooked_of_same hfixtures hconds hbooked,
        fun u hu => hnone u ((hlook u).trans hu), fun u e he => hsome u e ((hlook u).trans he)⟩
    · by_cases hplace : ∃ i, allocate (s.advanceSeq cell).passes (PassEntry.evictKey (s.advanceSeq cell).now) = some i
      · obtain ⟨i, hi⟩ := hplace
        rw [State.entitlePass_place hne ((hpass _).trans hp) (placeIn_of_allocate (passRanks _ _) hi)]
        exact hfixtures
      · rw [State.entitlePass_noPlace hne ((hpass _).trans hp) (noPlaceIn_of_allocate (passRanks _ _) (Option.eq_none_iff_forall_ne_some.mpr (not_exists.mp hplace)))]
        exact hfixtures
    · rw [State.entitlePass_noPlace hne ((hpass _).trans hp) (by rw [hevict, hpasses]; exact hplace)]
      exact ⟨hpasses, State.book_conds_of_same hconds .tableFull (.table ((grantPass cell).setWidth 16) .passTable)⟩
    · rw [State.entitlePass_place hne ((hpass _).trans hp) (by rw [hevict, hpasses]; exact hplace)]
      exact ⟨congrArg (fun xs : List (Option PassEntry) => xs.set i (some { id := grantPass cell, members := [], sale := none, owner := .granted })) hpasses, hconds⟩
  · have hmarked : marksFollow (s.advanceSeq cell) ((s.advanceSeq cell).revokePass (grantPass cell)) := by
      by_cases hgranted : ∃ p, (s.advanceSeq cell).pass (grantPass cell) = some p ∧ p.owner = .granted
      · obtain ⟨p, hp, howner⟩ := hgranted
        exact (State.revokePass_frame hp howner).2.2
      · rw [State.revokePass_other (fun p hp howner => hgranted ⟨p, hp, howner⟩)]
        exact marksFollow_refl _
    obtain ⟨hframe, hmarks, hengine, hpurse⟩ := grantEffect_of_owner (bs := [.fixtures, .passes, .conds])
      (changesOnly_of_framed ((s.advanceSeq cell).revokePass_framed (grantPass cell))) (by simp) (by simp) (by simp) hmarked
    have hkeyed' := tablesKeyed_of_same hkeyed hfixtures hpasses
    have hother := otherPass_of_same hpasses
    refine ⟨_, congrArg Host.Outcome.next (State.completeGrant_applied hhead happlies _), changesOnly_mono hframe (by simp), hmarks, hengine, hpurse, ?_, fun hnot => ?_,
      fun p hp howner => ?_⟩
    · by_cases hgranted : ∃ p, (s.advanceSeq cell).pass (grantPass cell) = some p ∧ p.owner = .granted
      · obtain ⟨p, hp, howner⟩ := hgranted
        exact honly _ (State.revokePass_spec hkeyed' hp howner).1
      · rw [State.revokePass_other (fun p hp howner => hgranted ⟨p, hp, howner⟩)]
        exact condsOnly_of_eq hconds
    · rw [State.revokePass_other (fun p hp => hnot p ((hpass _).symm.trans hp))]
      exact ⟨hpasses, hfixtures, hconds⟩
    · have hp' := (hpass (grantPass cell)).trans hp
      obtain ⟨-, hafter, -⟩ := State.revokePass_frame hp' howner
      obtain ⟨hthis, hothers⟩ := (s.advanceSeq cell).updatePass_spec (grantPass cell) (fun p => { p with owner := .none }) (fun _ => rfl)
      obtain ⟨-, hbooked, hquiet, hnone, hsome⟩ := State.revokePass_spec hkeyed' hp' howner
      have hpassAfter := State.pass_of_same hafter
      refine ⟨(hpassAfter _).trans (hthis.trans (by rw [hp']; rfl)), fun id' hid => (hpassAfter id').trans ((hothers id' hid).trans (hpass id')),
        fun u hu => hnone u ((hlook u).trans hu), ?_, fun hall => (hquiet (fun u e he hkind => ?_)).trans hconds, fun u e he => ?_⟩
      · simp only [hlook, hother] at hbooked
        exact changedBooked_of_same hbooked hconds
      · rw [hother]
        exact hall u e ((hlook u).symm.trans he) hkind
      · obtain ⟨hkept, hgone⟩ := hsome u e ((hlook u).trans he)
        have htag := State.fixture_tag he
        have hcover := ((s.advanceSeq cell).disowned_coveringPass (grantPass cell) e.tag)
        rw [hother, htag] at hcover
        refine ⟨fun hkind => hkept e (State.revokedEntry_other hkind), fun q hkind hq => hkept _ (State.revokedEntry_follows hkind ?_), fun hkind hq => ?_⟩
        · rw [htag, hcover, hq]
          rfl
        · have hlost := State.revokedEntry_lost (s := (s.advanceSeq cell).disowned (grantPass cell)) hkind (by rw [htag, hcover, hq]; rfl)
          exact ⟨fun haw => hgone (hlost.1 haw), fun haw => hkept _ (hlost.2 haw)⟩

end Sys2Proof.Machine

/-! Proofs: a PASS cell at the head of the queue (R65, R80 to R82; O43). -/

namespace Sys2Proof.Machine

open Sys2Proof.Safety

set_option Elab.async false

/-- What a control cell that writes tables and conditions leaves at its completion: its frame, its marks and the queue. -/
structure cellEffect (s : State) (bs : List Block) (t : State) : Prop where
  frame : changesOnly (.engine :: bs) s t
  marks : marksFollow s t
  engine : t.engine = headLeft s s.purse.memberships

/-- The head cell leaves the queue behind the effect of its owner, which writes neither the queue nor the memberships. -/
theorem cellEffect_of_owner {s u : State} {bs : List Block} (hframe : changesOnly bs s u) (hengine : .engine ∉ bs)
    (hms : u.purse.memberships = s.purse.memberships) (hmarks : marksFollow s u) : cellEffect s bs u.popCell := by
  refine ⟨?_, marksFollow_of_same hmarks rfl rfl rfl rfl rfl rfl, by rw [State.popCell_of (hframe .engine hengine) hms]⟩
  exact changesOnly_trans (changesOnly_mono hframe fun b => List.mem_cons_of_mem _) (changesOnly_mono u.popCell_frame (by simp))

/-- A booking alone, and then the head cell leaves. -/
theorem State.book_popCell (s : State) (k : CondKind) (d : CondData) : (s.book k d).popCell = { s with conds := (s.book k d).conds, engine := (s.book k d).popCell.engine } := rfl

section
variable {s : State} {cell : List Byte}

theorem State.applyPassCell_badTag (h : pay8 cell 0 = 0) : s.applyPassCell cell = s.book .badCell (.reason .badTag) := if_pos h

theorem State.applyPassCell_badSchedule (h : pay8 cell 0 ≠ 0) (hbad : pay8 cell 1 = 0 ∨ (passSale cell).closes.toNat < (passSale cell).opens.toNat) :
    s.applyPassCell cell = s.book .badCell (.reason .badSchedule) := by
  refine (if_neg h).trans ?_
  by_cases hcount : pay8 cell 1 = 0
  · exact if_pos hcount
  · exact (if_neg hcount).trans (if_pos (hbad.resolve_left hcount))

variable (hid : pay8 cell 0 ≠ 0) (hcount : pay8 cell 1 ≠ 0) (hsale : (passSale cell).opens.toNat ≤ (passSale cell).closes.toNat)
include hid hcount hsale

theorem State.applyPassCell_merged {p : PassEntry} (hp : s.pass (pay8 cell 0) = some p) :
    s.applyPassCell cell = if p.owned then
      (s.updatePass (pay8 cell 0) (fun p => { p with sale := some (passSale cell), members := passMembers cell })).propagate (pay8 cell 0)
        ((passMembers cell).filter (fun t => !p.members.contains t))
    else s.updatePass (pay8 cell 0) (fun p => { p with sale := some (passSale cell), members := passMembers cell }) := by
  unfold State.applyPassCell
  simp only [if_neg hid, if_neg hcount, if_neg (Nat.not_lt.mpr hsale), hp]

theorem State.applyPassCell_created (hp : s.pass (pay8 cell 0) = none) :
    s.applyPassCell cell = (s.createPass { id := pay8 cell 0, members := passMembers cell, sale := some (passSale cell), owner := .none }).getD
      (s.bookPassFull (pay8 cell 0)) := by
  unfold State.applyPassCell
  simp only [if_neg hid, if_neg hcount, if_neg (Nat.not_lt.mpr hsale), hp]
  cases s.createPass { id := pay8 cell 0, members := passMembers cell, sale := some (passSale cell), owner := .none } <;> rfl

end

theorem State.applyPassCell_marks (s : State) (cell : List Byte) : marksFollow s (s.applyPassCell cell) := by
  have hbook : ∀ k d, marksFollow s (s.book k d) := fun k d => marksFollow_of_same (marksFollow_refl s) rfl rfl rfl rfl rfl rfl
  by_cases hid : pay8 cell 0 = 0
  · rw [State.applyPassCell_badTag hid]
    exact hbook _ _
  by_cases hbad : pay8 cell 1 = 0 ∨ (passSale cell).closes.toNat < (passSale cell).opens.toNat
  · rw [State.applyPassCell_badSchedule hid hbad]
    exact hbook _ _
  obtain ⟨hcount, hsale⟩ := not_or.mp hbad
  cases hp : s.pass (pay8 cell 0) with
  | some p =>
    rw [State.applyPassCell_merged hid hcount (Nat.not_lt.mp hsale) hp]
    split
    · exact s.updatePass_propagate_marks _ _ _
    · exact s.updatePass_marksFollow _ _
  | none =>
    rw [State.applyPassCell_created hid hcount (Nat.not_lt.mp hsale) hp]
    cases hcreate : s.createPass { id := pay8 cell 0, members := passMembers cell, sale := some (passSale cell), owner := .none } with
    | some t => exact State.createPass_marksFollow hcreate
    | none => exact hbook _ _

/-- Settles O43: the four cases of the owner (a reason, a merge, a place, no place), each behind the departure of the head cell. -/
theorem passCellIsCheckedAndApplied : Obligations.PassCellIsCheckedAndApplied := by
  rintro s cell sale members hhead rfl rfl
  have hpop : exec .passCellCompletion s = .next (s.applyPassCell cell).popCell := congrArg Host.Outcome.next (State.complete_head hhead State.applyPassCell)
  have hframe := s.applyPassCell_framed cell
  obtain ⟨hchanges, hmarks, hengine⟩ := cellEffect_of_owner (bs := [.passes, .fixtures, .conds, .store]) (changesOnly_of_framed hframe)
    (by simp) (by rw [hframe.purse]) (s.applyPassCell_marks cell)
  refine ⟨_, hpop, changesOnly_mono hchanges (by simp), hmarks, hengine, fun hid => ?_, fun hid hbad => ?_, fun hid hcount hsale => ⟨fun p hp => ?_, fun hp => ?_⟩⟩
  · rw [State.applyPassCell_badTag hid]
    exact s.book_popCell _ _
  · rw [State.applyPassCell_badSchedule hid hbad]
    exact s.book_popCell _ _
  · rw [State.applyPassCell_merged hid hcount hsale hp]
    by_cases howner : p.owner = .none
    · obtain ⟨hthis, hothers⟩ := s.updatePass_spec (pay8 cell 0) (fun p => { p with sale := some (passSale cell), members := passMembers cell }) (fun _ => rfl)
      rw [if_neg (by simp [PassEntry.owned, howner])]
      exact ⟨hthis.trans (by rw [hp]; rfl), hothers, fun _ => ⟨rfl, rfl⟩, fun h => absurd howner h⟩
    · obtain ⟨hthis, hothers, hspec⟩ := s.updatePass_propagate_spec (pay8 cell 0)
        (f := fun p => { p with sale := some (passSale cell), members := passMembers cell }) (fun _ => rfl) ((passMembers cell).filter (fun t => !p.members.contains t)) hp
      rw [if_pos (by simpa [PassEntry.owned] using howner)]
      exact ⟨hthis, hothers, fun h => absurd h howner, fun _ => hspec⟩
  · rw [State.applyPassCell_created hid hcount hsale hp]
    refine ⟨?_, fun hplace => ?_, fun i hplace => ?_⟩
    · cases hcreate : s.createPass { id := pay8 cell 0, members := passMembers cell, sale := some (passSale cell), owner := .none } with
      | some t => exact (State.createPass_framed hcreate).fixtures
      | none => rfl
    · rw [State.createPass_noPlace hplace]
      exact s.book_popCell _ _
    · rw [State.createPass_place hplace]
      exact ⟨rfl, rfl⟩

end Sys2Proof.Machine

/-! Proofs: the placement record (chapter 10): its head and its descriptors are read and checked, and a record that passes takes effect (O46, O47). -/

namespace Sys2Proof.Machine

open Sys2Proof.Safety

set_option Elab.async false

/-! ### The result record and the own requests of a placement -/

theorem exactBytes_of_length {n : Nat} {bs : List Byte} (h : bs.length = n) : exactBytes n bs = bs := by
  subst h
  refine List.ext_getElem (by simp [exactBytes]) fun i _ hi => ?_
  simp [exactBytes, byteAt, hi]

theorem resultRecord_length (c : PlacementResult) (attempts index : Nat) (unit : BitVec 32) : (resultRecord c attempts index unit).length = 16 := by
  simp [resultRecord, record]

theorem State.resultWrite_eq (s : State) (a : Addr) (c : PlacementResult) (index : Nat) :
    s.resultWrite a c index = .own (.write a (resultRecord c s.placement.attempts index s.unit.number) (List.replicate 16 true)) := by
  unfold State.resultWrite wholeWrite
  rw [resultRecord_length]

theorem State.popOwn_of {s : State} {r : OwnReq} {rest : List OwnReq} (h : s.path.own = r :: rest) : s.popOwn = { s with path := { s.path with own := rest } } := by
  unfold State.popOwn
  rw [h]
  rfl

/-- Placement ends with a code: the unit is UNPLACED and presents the result record, nothing else (R159). -/
theorem State.failPlacement_eq (s : State) (a : Addr) (c : PlacementResult) (index : Nat) :
    s.failPlacement a c index = ownPresented { s with placement := { s.placement with st := .unplaced } }
      (.write a (resultRecord c s.placement.attempts index s.unit.number) (List.replicate 16 true)) := by
  unfold State.failPlacement
  rw [State.resultWrite_eq]
  rfl

/-! ### The head (R157, R159) -/

section
variable {s : State} {addr x : Addr} {rest : List OwnReq} {got : List Byte} {a : Answer} (hown : s.path.own = .headRead x :: rest)
  (hst : s.placement.st = .reading addr none got)
include hown hst

theorem State.headReturned_eq : s.headReturned a = State.headAnswer addr a { s with path := { s.path with own := rest } } := by
  unfold State.headReturned
  rw [← State.popOwn_of hown, hown, hst]

end

section
variable {s : State} {addr : Addr} {a : Answer} (hlen : a.data.length = 16)
include hlen

/-- The codes with which a head read's answer ends placement, in the order of the checks (R159). -/
theorem State.headAnswer_fails {code : PlacementResult} (hcode : (a.err = true ∧ code = .readFailed) ∨ (a.err = false ∧ byteAt a.data 0 ≠ 1 ∧ code = .badVersion) ∨
    (a.err = false ∧ byteAt a.data 0 = 1 ∧ ((byteAt a.data 1).toNat < 4 ∨ 12 < (byteAt a.data 1).toNat) ∧ code = .badCount)) :
    s.headAnswer addr a = s.failPlacement addr code 255 := by
  unfold State.headAnswer
  simp only [exactBytes_of_length hlen]
  rcases hcode with ⟨herr, rfl⟩ | ⟨herr, hversion, rfl⟩ | ⟨herr, hversion, hcount, rfl⟩
  · exact if_pos herr
  · exact (if_neg (by simp [herr])).trans (if_pos hversion)
  · exact (if_neg (by simp [herr])).trans ((if_neg (Classical.not_not.mpr hversion)).trans (if_pos hcount))

theorem State.headAnswer_reads (herr : a.err = false) (hversion : byteAt a.data 0 = 1) (hlo : 4 ≤ (byteAt a.data 1).toNat) (hhi : (byteAt a.data 1).toNat ≤ 12) :
    s.headAnswer addr a = ownPresented { s with placement := { s.placement with st := .reading addr (some a.data) [] } } (.descriptorRead (addr + 32) 128) := by
  unfold State.headAnswer
  simp only [exactBytes_of_length hlen]
  refine (if_neg (by simp [herr])).trans ((if_neg (Classical.not_not.mpr hversion)).trans ((if_neg (by unfold headCount; omega)).trans ?_))
  have hfirst : descriptorRead addr (headCount a.data) 0 = .own (.descriptorRead (addr + 32) 128) := by
    unfold descriptorRead headCount
    rw [Nat.min_eq_left (by omega)]
    rfl
  rw [hfirst]
  rfl

end

/-- Settles O46: the head read's answer is checked in the order of R159, on its 16 bytes as they came. -/
theorem placementHeadIsChecked : Obligations.PlacementHeadIsChecked := by
  refine ⟨fun _ => rfl, fun s addr x rest a got hown hst hlen => ⟨fun code hcode => ?_, fun herr hversion hlo hhi => ?_⟩⟩
  · exact congrArg Host.Outcome.next ((State.headReturned_eq hown hst).trans ((State.headAnswer_fails hlen hcode).trans (State.failPlacement_eq _ _ _ _)))
  · exact congrArg Host.Outcome.next ((State.headReturned_eq hown hst).trans (State.headAnswer_reads hlen herr hversion hlo hhi))

end Sys2Proof.Machine

/-! Proofs: the descriptors of the placement record are read, checked and take effect (R157 to R161; O47). -/

namespace Sys2Proof.Machine

open Sys2Proof.Safety

set_option Elab.async false

/-! ### One descriptor (R158) -/

/-- A region is the one that descriptor `i` describes, and that descriptor passes its tests. -/
structure describedBy (ds : List Byte) (i : Nat) (g : Region) : Prop where
  kind : kindByte g.kind = byteAt ds (32 * i)
  writers : g.writers = byteAt ds (32 * i + 1)
  readers : g.readers = byteAt ds (32 * i + 2)
  base : g.base.toNat = descBase ds i
  size : g.size = descSize ds i
  pos : 0 < descSize ds i

/-- The regions of the first descriptors, in their order. -/
def describedAll (ds : List Byte) (rs : List Region) : Prop := ∀ (i : Nat) (g : Region), rs[i]? = some g → describedBy ds i g

theorem regionKind_iff (b : Byte) (k : RegionKind) : regionKind b = some k ↔ kindByte k = b := by
  unfold regionKind
  constructor
  · intro h
    repeat' split at h
    all_goals cases h <;> exact Eq.symm ‹_›
  · rintro rfl
    cases k <;> rfl

theorem kindByte_inj {k k' : RegionKind} : kindByte k = kindByte k' ↔ k = k' := by
  refine ⟨fun h => Option.some.inj ?_, fun h => h ▸ rfl⟩
  rw [← (regionKind_iff _ k).mpr rfl, (regionKind_iff _ k').mpr h.symm]

/-- Table 10-1 gives one row for each kind: its sizes and how many of it a record may hold. -/
theorem table101_iff (k : RegionKind) (size allowed : Nat) : table101 (kindByte k) size allowed ↔ sizeAllowed k size = true ∧ allowed = kindLimit k := by
  cases k <;> simp [table101, kindByte, sizeAllowed, kindLimit, and_assoc]

theorem table101_kind {b : Byte} {size allowed : Nat} (h : table101 b size allowed) : ∃ k, kindByte k = b := by
  rcases h with ⟨rfl, -⟩ | ⟨rfl, -⟩ | ⟨rfl, -⟩ | ⟨rfl, -⟩ | ⟨rfl, -⟩
  · exact ⟨.cellRing, rfl⟩
  · exact ⟨.slate, rfl⟩
  · exact ⟨.orderRing, rfl⟩
  · exact ⟨.reportRing, rfl⟩
  · exact ⟨.shielded, rfl⟩

section
variable {ds : List Byte} {lower : List Region} (hlower : describedAll ds lower)
include hlower

/-- The kinds of the regions so far are the kind bytes of their descriptors. -/
theorem describedAll_kinds : lower.map (fun g => kindByte g.kind) = (List.range lower.length).map (fun j => byteAt ds (32 * j)) := by
  refine List.ext_getElem (by simp) fun i hi _ => ?_
  have hi' : i < lower.length := by simpa using hi
  simpa using (hlower i _ (List.getElem?_eq_getElem hi')).kind

theorem describedAll_count (k : RegionKind) :
    (lower.filter (fun r => r.kind == k)).length = ((List.range lower.length).filter (fun j => byteAt ds (32 * j) == kindByte k)).length := by
  have hkinds : ∀ r : Region, (r.kind == k) = ((· == kindByte k) ∘ fun g : Region => kindByte g.kind) r := fun r => by
    rw [Bool.eq_iff_iff]
    simp [kindByte_inj]
  rw [← List.countP_eq_length_filter, ← List.countP_eq_length_filter, funext hkinds, ← List.countP_map, describedAll_kinds hlower, List.countP_map]
  rfl

/-- The tests of R158 on a descriptor, against the regions of lower index. -/
theorem acceptRegion_iff : (acceptRegion lower (parseDescriptor ds lower.length)).isSome = true ↔ regionGood ds lower.length := by
  unfold acceptRegion regionGood
  cases hkind : regionKind (parseDescriptor ds lower.length).kind with
  | none =>
    refine iff_of_false (by simp) ?_
    rintro ⟨-, -, -, -, allowed, htable, -⟩
    obtain ⟨k, hk⟩ := table101_kind htable
    exact absurd ((regionKind_iff _ k).mpr hk) (by rw [show byteAt ds (32 * lower.length) = (parseDescriptor ds lower.length).kind from rfl, hkind]; simp)
  | some k =>
    have hbyte : kindByte k = byteAt ds (32 * lower.length) := (regionKind_iff _ k).mp hkind
    have hlimit : (∃ allowed, table101 (byteAt ds (32 * lower.length)) (descSize ds lower.length) allowed ∧
        ((List.range lower.length).filter (fun j => byteAt ds (32 * j) == byteAt ds (32 * lower.length))).length < allowed) ↔
        sizeAllowed k (descSize ds lower.length) = true ∧ (lower.filter (fun r => r.kind == k)).length < kindLimit k := by
      simp only [← hbyte, table101_iff, describedAll_count hlower]
      constructor
      · rintro ⟨allowed, ⟨hsize, rfl⟩, hcount⟩
        exact ⟨hsize, hcount⟩
      · rintro ⟨hsize, hcount⟩
        exact ⟨_, ⟨hsize, rfl⟩, hcount⟩
    rw [hlimit]
    simp only [Option.isSome_ite]
    rfl

omit hlower in
theorem acceptRegion_describedBy {r : Region} (h : acceptRegion lower (parseDescriptor ds lower.length) = some r) : describedBy ds lower.length r := by
  obtain ⟨⟨-, -, hpos, -⟩, hkind, hwriters, hreaders, hbase, hsize⟩ := acceptRegion_some h
  exact ⟨(regionKind_iff _ _).mp hkind, hwriters, hreaders, congrArg BitVec.toNat hbase, hsize, (show descSize ds lower.length = r.size from hsize.symm) ▸ hpos⟩

theorem describedAll_append {r : Region} (h : describedBy ds lower.length r) : describedAll ds (lower ++ [r]) := by
  intro i g hg
  rcases Nat.lt_trichotomy i lower.length with hi | rfl | hi
  · rw [List.getElem?_append_left hi] at hg
    exact hlower i g hg
  · rw [List.getElem?_concat_length] at hg
    exact Option.some.inj hg ▸ h
  · rw [List.getElem?_eq_none (by simp; omega)] at hg
    cases hg

/-- Two regions of positive size overlap when some byte lies in both. -/
theorem overlaps_iff {r : Region} (hr : describedBy ds lower.length r) : lower.any (fun q => r.overlaps q) = true ↔ sharesBytes ds lower.length := by
  have hpair : ∀ j q, lower[j]? = some q → (r.overlaps q = true ↔
      ∃ b, descBase ds lower.length ≤ b ∧ b < descBase ds lower.length + descSize ds lower.length ∧ descBase ds j ≤ b ∧ b < descBase ds j + descSize ds j) := by
    intro j q hq
    obtain ⟨-, -, -, hbase, hsize, hpos⟩ := hlower j q hq
    have hrpos := hr.pos
    simp only [Region.overlaps, Bool.and_eq_true, decide_eq_true_iff, hr.base, hr.size, hbase, hsize]
    constructor
    · rintro ⟨hrq, hqr⟩
      exact ⟨max (descBase ds lower.length) (descBase ds j), by omega, by omega, by omega, by omega⟩
    · rintro ⟨b, _, _, _, _⟩
      omega
  rw [List.any_eq_true]
  constructor
  · rintro ⟨q, hq, hover⟩
    obtain ⟨j, hj⟩ := List.mem_iff_getElem?.mp hq
    obtain ⟨b, hb⟩ := (hpair j q hj).mp hover
    exact ⟨j, b, (List.getElem?_eq_some_iff.mp hj).1, hb⟩
  · rintro ⟨j, b, hj, hb⟩
    exact ⟨lower[j], List.getElem_mem hj, (hpair j _ (List.getElem?_eq_getElem hj)).mpr ⟨b, hb⟩⟩

/-! ### The scan (R158) -/

theorem scanFrom_bad (ps : List Descriptor) (h : ¬ regionGood ds lower.length) :
    scanFrom lower (parseDescriptor ds lower.length :: ps) = .fail .badRegion lower.length := by
  have hnone : acceptRegion lower (parseDescriptor ds lower.length) = none :=
    Option.not_isSome_iff_eq_none.mp (fun hs => h ((acceptRegion_iff hlower).mp hs))
  unfold scanFrom
  rw [hnone]

theorem scanFrom_overlap (ps : List Descriptor) (h : regionGood ds lower.length) (hshare : sharesBytes ds lower.length) :
    scanFrom lower (parseDescriptor ds lower.length :: ps) = .fail .overlap lower.length := by
  obtain ⟨r, hr⟩ := Option.isSome_iff_exists.mp ((acceptRegion_iff hlower).mpr h)
  unfold scanFrom
  rw [hr]
  exact if_pos ((overlaps_iff hlower (acceptRegion_describedBy hr)).mpr hshare)

theorem scanFrom_good (ps : List Descriptor) (h : regionGood ds lower.length) (hapart : ¬ sharesBytes ds lower.length) :
    ∃ r, describedBy ds lower.length r ∧ scanFrom lower (parseDescriptor ds lower.length :: ps) = scanFrom (lower ++ [r]) ps := by
  obtain ⟨r, hr⟩ := Option.isSome_iff_exists.mp ((acceptRegion_iff hlower).mpr h)
  have hdesc := acceptRegion_describedBy hr
  refine ⟨r, hdesc, ?_⟩
  rw [scanFrom, hr]
  exact if_neg (fun ho => hapart ((overlaps_iff hlower hdesc).mp ho))

end

/-- The descriptors before index `i` pass every test. -/
def goodBefore (ds : List Byte) (i : Nat) : Prop := ∀ j, j < i → regionGood ds j ∧ ¬ sharesBytes ds j

/-- The scan of `m` further descriptors goes past those that pass. -/
theorem scanFrom_skip {ds : List Byte} : ∀ (m : Nat) (lower : List Region) (ps : List Descriptor), describedAll ds lower → goodBefore ds (lower.length + m) →
    ∃ rs, describedAll ds rs ∧ rs.length = lower.length + m ∧
      scanFrom lower ((List.range' lower.length m).map (parseDescriptor ds) ++ ps) = scanFrom rs ps := by
  intro m
  induction m with
  | zero => exact fun lower ps hlower _ => ⟨lower, hlower, rfl, rfl⟩
  | succ m ih =>
    intro lower ps hlower hgood
    obtain ⟨hregion, hapart⟩ := hgood lower.length (by omega)
    rw [List.range'_succ, List.map_cons, List.cons_append]
    obtain ⟨r, hr, hstep⟩ := scanFrom_good hlower ((List.range' (lower.length + 1) m).map (parseDescriptor ds) ++ ps) hregion hapart
    have hlen : (lower ++ [r]).length = lower.length + 1 := by simp
    obtain ⟨rs, hrs, hcount, hscan⟩ := ih (lower ++ [r]) ps (describedAll_append hlower hr) (by rw [hlen]; exact fun j hj => hgood j (by omega))
    exact ⟨rs, hrs, by omega, hstep.trans (by rw [← hlen]; exact hscan)⟩

/-- The scan stops at the first descriptor that fails, or gives the regions of all. -/
theorem scanFrom_stops {ds : List Byte} {n i : Nat} (hi : i < n) (hgood : goodBefore ds i) :
    (¬ regionGood ds i → scanFrom [] ((List.range n).map (parseDescriptor ds)) = .fail .badRegion i) ∧
      (regionGood ds i → sharesBytes ds i → scanFrom [] ((List.range n).map (parseDescriptor ds)) = .fail .overlap i) := by
  obtain ⟨k, rfl⟩ : ∃ k, n = i + (k + 1) := ⟨n - i - 1, by omega⟩
  have hsplit : (List.range (i + (k + 1))).map (parseDescriptor ds) = (List.range' 0 i).map (parseDescriptor ds) ++
      (parseDescriptor ds i :: (List.range' (i + 1) k).map (parseDescriptor ds)) := by
    rw [List.range_eq_range', ← List.range'_append_1, List.map_append, Nat.zero_add, List.range'_succ, List.map_cons]
  obtain ⟨rs, hrs, hlen, hscan⟩ := scanFrom_skip i [] (parseDescriptor ds i :: (List.range' (i + 1) k).map (parseDescriptor ds)) (fun _ _ h => nomatch h)
    (by simpa using hgood)
  have hlen' : rs.length = i := by simpa using hlen
  subst hlen'
  rw [hsplit]
  exact ⟨fun h => hscan.trans (scanFrom_bad hrs _ h), fun h hshare => hscan.trans (scanFrom_overlap hrs _ h hshare)⟩

theorem scanFrom_passes {ds : List Byte} {n : Nat} (hgood : goodBefore ds n) :
    ∃ rs, describedAll ds rs ∧ rs.length = n ∧ scanFrom [] ((List.range n).map (parseDescriptor ds)) = .ok rs := by
  obtain ⟨rs, hrs, hlen, hscan⟩ := scanFrom_skip n [] [] (fun _ _ h => nomatch h) (by simpa using hgood)
  refine ⟨rs, hrs, by simpa using hlen, ?_⟩
  rw [List.append_nil] at hscan
  rw [List.range_eq_range']
  exact hscan

/-! ### The checks of the whole record (R158) -/

theorem hasKind_iff {ds : List Byte} {rs : List Region} (hrs : describedAll ds rs) (k : RegionKind) :
    hasKind rs k = true ↔ ∃ i, i < rs.length ∧ byteAt ds (32 * i) = kindByte k := by
  unfold hasKind
  rw [List.any_eq_true]
  constructor
  · rintro ⟨g, hg, hk⟩
    obtain ⟨i, hi⟩ := List.mem_iff_getElem?.mp hg
    exact ⟨i, (List.getElem?_eq_some_iff.mp hi).1, by rw [← (hrs i g hi).kind, beq_iff_eq.mp hk]⟩
  · rintro ⟨i, hi, hk⟩
    exact ⟨rs[i], List.getElem_mem hi, beq_iff_eq.mpr (kindByte_inj.mp ((hrs i _ (List.getElem?_eq_getElem hi)).kind.trans hk))⟩

theorem sum_filter_map {α : Type} (xs : List α) (p : α → Bool) (f : α → Nat) : ((xs.filter p).map f).sum = (xs.map (fun x => if p x then f x else 0)).sum := by
  induction xs with
  | nil => rfl
  | cons x xs ih => cases hx : p x <;> simp [hx, ih]

theorem totalCells_eq {ds : List Byte} {rs : List Region} (hrs : describedAll ds rs) : totalCells rs = recordCells ds rs.length := by
  unfold totalCells recordCells
  rw [sum_filter_map]
  congr 1
  refine List.ext_getElem (by simp) fun i hi _ => ?_
  have hg := hrs i _ (List.getElem?_eq_getElem (by simpa using hi))
  have hcell : (rs[i]'(by simpa using hi)).kind = .cellRing ↔ byteAt ds (32 * i) = 1 := by
    rw [← hg.kind]
    exact (kindByte_inj (k' := .cellRing)).symm
  simp [hg.size, hcell]

section
variable {head ds : List Byte} (hsum : sumBytes (head ++ ds) = 0)
include hsum

theorem checkRecord_of_scan {c : PlacementResult} {i : Nat} (h : scanFrom [] ((List.range (headCount head)).map (parseDescriptor ds)) = .fail c i) :
    checkRecord head ds = .fail c i := by
  unfold checkRecord
  rw [if_neg (Classical.not_not.mpr hsum), h]

theorem checkRecord_of_regions {rs : List Region} (h : scanFrom [] ((List.range (headCount head)).map (parseDescriptor ds)) = .ok rs) :
    checkRecord head ds = if !(hasKind rs .cellRing && hasKind rs .slate && hasKind rs .orderRing && hasKind rs .reportRing) then .fail .missingKind 255
      else if 4096 < totalCells rs then .fail .tooManyCells 255 else .ok rs := by
  unfold checkRecord
  rw [if_neg (Classical.not_not.mpr hsum), h]

end

/-- Each of the four needed kinds has a region. -/
theorem hasKinds_iff {ds : List Byte} {rs : List Region} (hrs : describedAll ds rs) :
    (hasKind rs .cellRing && hasKind rs .slate && hasKind rs .orderRing && hasKind rs .reportRing) = true ↔
      ∀ k : Byte, k = 1 ∨ k = 2 ∨ k = 3 ∨ k = 4 → ∃ i, i < rs.length ∧ byteAt ds (32 * i) = k := by
  simp only [Bool.and_eq_true, hasKind_iff hrs, kindByte]
  constructor
  · rintro ⟨⟨⟨h1, h2⟩, h3⟩, h4⟩ k (rfl | rfl | rfl | rfl)
    · exact h1
    · exact h2
    · exact h3
    · exact h4
  · exact fun h => ⟨⟨⟨h 1 (.inl rfl), h 2 (.inr (.inl rfl))⟩, h 3 (.inr (.inr (.inl rfl)))⟩, h 4 (.inr (.inr (.inr rfl)))⟩

theorem checkRecord_table (head ds : List Byte) (hsum : sumBytes (head ++ ds) = 0) (hgood : goodBefore ds (headCount head)) :
    ((∃ k : Byte, (k = 1 ∨ k = 2 ∨ k = 3 ∨ k = 4) ∧ ∀ i, i < headCount head → byteAt ds (32 * i) ≠ k) → checkRecord head ds = .fail .missingKind 255) ∧
      ((∀ k : Byte, k = 1 ∨ k = 2 ∨ k = 3 ∨ k = 4 → ∃ i, i < headCount head ∧ byteAt ds (32 * i) = k) →
        (4096 < recordCells ds (headCount head) → checkRecord head ds = .fail .tooManyCells 255) ∧
        (recordCells ds (headCount head) ≤ 4096 → ∃ rs, checkRecord head ds = .ok rs ∧ rs.length = headCount head ∧ describedAll ds rs)) := by
  obtain ⟨rs, hrs, hlen, hscan⟩ := scanFrom_passes hgood
  have hkinds := hasKinds_iff hrs
  have hcells := totalCells_eq hrs
  rw [hlen] at hkinds hcells
  rw [checkRecord_of_regions hsum hscan]
  refine ⟨fun hmissing => if_pos ?_, fun hall => ?_⟩
  · obtain ⟨k, hk, hnone⟩ := hmissing
    rw [Bool.not_eq_true']
    refine Bool.eq_false_iff.mpr fun h => ?_
    obtain ⟨i, hi, hik⟩ := hkinds.mp h k hk
    exact hnone i hi hik
  · rw [if_neg (by rw [hkinds.mpr hall]; decide), hcells]
    exact ⟨fun hmany => if_pos hmany, fun hfew => ⟨rs, if_neg (Nat.not_lt.mpr hfew), hlen, hrs⟩⟩

/-! ### The descriptor reads (R157) -/

section
variable {s : State} {addr x : Addr} {len : Nat} {rest : List OwnReq} {head got : List Byte} {a : Answer}

theorem State.descriptorsReturned_eq (hown : s.path.own = .descriptorRead x len :: rest) (hst : s.placement.st = .reading addr (some head) got) :
    s.descriptorsReturned a = State.descriptorAnswer addr head got len a { s with path := { s.path with own := rest } } := by
  unfold State.descriptorsReturned
  rw [← State.popOwn_of hown, hown, hst]

variable (hlen : a.data.length = len)
include hlen

theorem State.descriptorAnswer_more (herr : a.err = false) (hmore : (got ++ a.data).length < 32 * headCount head) :
    s.descriptorAnswer addr head got len a = ownPresented { s with placement := { s.placement with st := .reading addr (some head) (got ++ a.data) } }
      (.descriptorRead (addr + BitVec.ofNat 32 (32 + (got ++ a.data).length)) (min 128 (32 * headCount head - (got ++ a.data).length))) := by
  unfold State.descriptorAnswer
  simp only [exactBytes_of_length hlen]
  exact (if_neg (by simp [herr])).trans (if_pos hmore)

variable (herr : a.err = false) (hall : 32 * headCount head ≤ (got ++ a.data).length)
include herr hall

theorem State.descriptorAnswer_fails {code : PlacementResult} {i : Nat} (hcheck : checkRecord head (got ++ a.data) = .fail code i) :
    s.descriptorAnswer addr head got len a = s.failPlacement addr code i := by
  unfold State.descriptorAnswer
  simp only [exactBytes_of_length hlen, hcheck]
  exact (if_neg (by simp [herr])).trans (if_neg (Nat.not_lt.mpr hall))

theorem State.descriptorAnswer_passes {rs : List Region} (hcheck : checkRecord head (got ++ a.data) = .ok rs) :
    s.descriptorAnswer addr head got len a = s.completePlacement addr rs := by
  unfold State.descriptorAnswer
  simp only [exactBytes_of_length hlen, hcheck]
  exact (if_neg (by simp [herr])).trans (if_neg (Nat.not_lt.mpr hall))

end

/-! ### A record that passes (R160, R161) -/

theorem mem_buildSlotsFrom (rs : List Region) : ∀ (i r n : Nat) (st : SlotState), ⟨r, n, st⟩ ∈ buildSlotsFrom i rs ↔
    st = .empty ∧ ∃ j g, r = i + j ∧ rs[j]? = some g ∧ g.kind = .cellRing ∧ n < g.size / 128 := by
  induction rs with
  | nil => exact fun i r n st => by simp [buildSlotsFrom]
  | cons g gs ih =>
    intro i r n st
    unfold buildSlotsFrom
    rw [List.mem_append, ih]
    constructor
    · rintro (hhead | ⟨rfl, j, g', rfl, hg', hrest⟩)
      · split at hhead
        · rename_i hkind
          obtain ⟨m, hm, heq⟩ := List.mem_map.mp hhead
          cases heq
          exact ⟨rfl, 0, g, rfl, rfl, hkind, List.mem_range.mp hm⟩
        · cases hhead
      · exact ⟨rfl, j + 1, g', by omega, hg', hrest⟩
    · rintro ⟨rfl, j, g', rfl, hg', hkind, hn⟩
      cases j with
      | zero =>
        cases hg'
        refine .inl ?_
        rw [if_pos hkind]
        exact List.mem_map.mpr ⟨n, List.mem_range.mpr hn, rfl⟩
      | succ j => exact .inr ⟨rfl, j, g', by omega, hg', hkind, hn⟩

theorem State.slotAt_built {t : State} {rs : List Region} (h : t.slots = buildSlots rs) (r n : Nat) :
    t.slotAt r n = some .empty ↔ ∃ g, rs[r]? = some g ∧ g.kind = .cellRing ∧ n < g.size / 128 := by
  have hdistinct : slotsDistinct t := by
    unfold slotsDistinct
    rw [h]
    exact buildSlotsFrom_distinct rs 0
  rw [State.slotAt_eq_some_iff hdistinct, h, buildSlots, mem_buildSlotsFrom]
  constructor
  · rintro ⟨-, j, g, rfl, hg⟩
    exact ⟨g, (Nat.zero_add j).symm ▸ hg.1, hg.2⟩
  · exact fun ⟨g, hg⟩ => ⟨rfl, r, g, (Nat.zero_add r).symm, hg⟩

theorem find_of_hasKind {rs : List Region} {k : RegionKind} (h : hasKind rs k = true) : ∃ g, rs.find? (fun r => r.kind == k) = some g ∧ g ∈ rs ∧ g.kind = k := by
  obtain ⟨g, hg⟩ := Option.isSome_iff_exists.mp (List.find?_isSome.mpr (List.any_eq_true.mp h))
  exact ⟨g, hg, List.mem_of_find?_eq_some hg, by simpa using List.find?_some hg⟩

/-- Settles O47: the checks follow from the scan, which goes past the descriptors that pass and stops at the first that fails; a record that passes gives the map from
which slot table, views and own writes are made. -/
theorem placementDescriptorsComplete : Obligations.PlacementDescriptorsComplete := by
  refine ⟨fun head ds => ⟨fun hsum => if_pos hsum, fun hsum => ⟨fun i hi hbefore => ?_, fun hgood => ?_⟩⟩, fun _ _ _ _ => rfl, rfl, ?_⟩
  · obtain ⟨hbad, hover⟩ := scanFrom_stops hi hbefore
    exact ⟨fun h => checkRecord_of_scan hsum (hbad h), fun h hshare => checkRecord_of_scan hsum (hover h hshare)⟩
  · obtain ⟨hmissing, hkinds⟩ := checkRecord_table head ds hsum hgood
    refine ⟨hmissing, fun hall => ⟨(hkinds hall).1, fun hfew => ?_⟩⟩
    obtain ⟨rs, hok, hlen, hrs⟩ := (hkinds hall).2 hfew
    refine ⟨rs, hok, hlen, fun i g hg => ?_⟩
    obtain ⟨hkind, hwriters, hreaders, hbase, hsize, -⟩ := hrs i g hg
    exact ⟨hkind, hwriters, hreaders, hbase, hsize⟩
  · intro s addr x len rest a head got hown hst hlen
    have hexec : ∀ {u}, State.descriptorAnswer addr head got len a { s with path := { s.path with own := rest } } = u →
        exec (.placementDescriptorReadAnswer a) s = .next u := fun h => congrArg Host.Outcome.next ((State.descriptorsReturned_eq hown hst).trans h)
    refine ⟨fun herr => hexec ((if_pos herr).trans (State.failPlacement_eq _ _ _ _)), fun herr hmore => hexec (State.descriptorAnswer_more hlen herr hmore),
      fun code i herr hall hcheck => hexec ((State.descriptorAnswer_fails hlen herr hall hcheck).trans (State.failPlacement_eq _ _ _ _)), fun rs herr hall hcheck => ?_⟩
    obtain ⟨-, -, -, ⟨-, -, horder, hreport⟩, -⟩ := checkRecord_ok hcheck
    obtain ⟨g, hg, hgmem, hgkind⟩ := find_of_hasKind hreport
    obtain ⟨h, hh, hhmem, hhkind⟩ := find_of_hasKind horder
    refine ⟨mapSound_of_checkRecord hcheck, _, hexec (State.descriptorAnswer_passes hlen herr hall hcheck), ?_, ⟨g, h, hgmem, hgkind, hhmem, hhkind, ⟨_, rfl, ?_, ?_⟩, ?_, ?_⟩,
      State.slotAt_built rfl, fun hidle => ⟨?_, ?_⟩, fun hbusy => ⟨?_, ?_⟩⟩
    · exact fun b hb => by cases b <;> first | rfl | simp at hb
    · simp only [State.completePlacement, State.present, ringBase, hg, hh, State.resultWrite_eq]
      rfl
    · simp only [State.completePlacement, State.present, ringBase, hg, hh, State.resultWrite_eq]
      rfl
    · simp only [State.completePlacement, State.present, ringView, hh]
      rfl
    · simp only [State.completePlacement, State.present, ringView, hg]
      rfl
    · exact congrArg (fun b => { s.placement with st := .placed, pendingReport := b }) hidle
    · exact if_neg (Bool.eq_false_iff.mp hidle)
    · exact congrArg (fun b => { s.placement with st := .placed, pendingReport := b }) hbusy
    · exact if_pos hbusy

end Sys2Proof.Machine

/-! Proofs: an order is fetched and its slot consumed (R163, R164; O49). -/

namespace Sys2Proof.Machine

open Sys2Proof.Safety

set_option Elab.async false

theorem State.reportRoom_eq {s : State} {v : RingView} (h : s.reports.view = some v) : s.reportRoom = v.cap - 1 - (v.prod + v.cap - v.cons) % v.cap := by
  unfold State.reportRoom
  rw [h]
  rfl

theorem State.reportRoom_none {s : State} (h : s.reports.view = none) : s.reportRoom = 0 := by
  unfold State.reportRoom
  rw [h]

theorem RingView.hasWaiting_iff (v : RingView) : v.hasWaiting = true ↔ v.prod ≠ v.cons := bne_iff_ne

theorem State.wake_of_notIdle {s : State} (h : s.orders.st ≠ .idle) : s.wake = s := by
  unfold State.wake
  split
  · exact absurd ‹_› h
  · rfl

section
variable {s : State} {v : RingView} (hview : s.orders.view = some v) (hst : s.orders.st = .waitingRoom)
include hst

theorem State.fetchOrder_full (hroom : s.reportRoom = 0) : s.fetchOrder = s := by
  unfold State.fetchOrder
  simp only [State.wake_of_notIdle (s := s) (by simp [hst])]
  split
  · exact if_neg (by omega)
  · rfl

include hview

theorem State.fetchOrder_fetches (hwaiting : v.prod ≠ v.cons) (hroom : 1 ≤ s.reportRoom) :
    s.fetchOrder = ownPresented { s with orders := { st := .fetching v.cons none, view := some { v with cons := (v.cons + 1) % v.cap } } }
      (.orderFetch (v.base + BitVec.ofNat 32 (128 + 64 * v.cons))) := by
  unfold State.fetchOrder
  simp only [State.wake_of_notIdle (s := s) (by simp [hst]), hst, hview]
  exact if_pos ⟨v.hasWaiting_iff.mpr hwaiting, hroom⟩

end

theorem State.fetchReturned_eq {s : State} {v : RingView} {x : Addr} {rest : List OwnReq} {slot : Nat} (hview : s.orders.view = some v)
    (hown : s.path.own = .orderFetch x :: rest) (hst : s.orders.st = .fetching slot none) (a : Answer) :
    s.fetchReturned a = ownPresented { s with path := { s.path with own := rest }, orders := { s.orders with st := .fetching slot (some a) } }
      (indexWordWrite (v.base + 64) v.cons) := by
  unfold State.fetchReturned
  rw [hown]
  simp only [State.popOwn_of hown, State.fetchAnswer, hst, hview]
  rfl

/-- Settles O49: the three cases of the order fetch and of its answer. -/
theorem orderIsFetchedAndConsumed : Obligations.OrderIsFetchedAndConsumed := by
  refine ⟨fun s => ⟨State.reportRoom_none, fun v => State.reportRoom_eq⟩, fun s v hview => ⟨fun hst hwaiting hroom => ?_, fun hst hroom => ?_, ?_⟩⟩
  · exact congrArg Host.Outcome.next (State.fetchOrder_fetches hview hst hwaiting hroom)
  · exact congrArg Host.Outcome.next (State.fetchOrder_full hst hroom)
  · exact fun x rest slot a hown hst => congrArg Host.Outcome.next (State.fetchReturned_eq hview hown hst a)

end Sys2Proof.Machine

/-! Proofs: sections are judged, and the restore table gives the purse and the log (R173, R174; O57). -/

namespace Sys2Proof.Machine

open Sys2Proof.Safety

set_option Elab.async false

/-! ### Judging (R173) -/

theorem sectionClosed_iff {α : Type} (r : SectionBytes α) : sectionClosed r.bytes ↔ SectionBytes.torn r = false := by
  rw [← Bool.not_eq_true, torn_iff, not_or, Classical.not_not, Classical.not_not]
  rfl

section
variable {α β : Type} {r : SectionBytes α} {sound : Bool} {value : β}

theorem judge_blank (h : ∀ b ∈ r.bytes, b = 0xFF#8) : judge r sound value = .blank := if_pos ((allFF_iff r).mpr h)

theorem judge_lost (h : ¬ ∀ b ∈ r.bytes, b = 0xFF#8) (hbad : ¬ sectionClosed r.bytes ∨ sound = false) : judge r sound value = .lost := by
  refine (if_neg (fun hff => h ((allFF_iff r).mp hff))).trans (if_pos ?_)
  rw [sectionClosed_iff] at hbad
  rcases hbad with htorn | rfl
  · rw [eq_true_of_ne_false htorn]
    rfl
  · simp

theorem judge_good (h : ¬ ∀ b ∈ r.bytes, b = 0xFF#8) (hclosed : sectionClosed r.bytes) (hsound : sound = true) : judge r sound value = .good value := by
  refine (if_neg (fun hff => h ((allFF_iff r).mp hff))).trans (if_neg ?_)
  rw [(sectionClosed_iff r).mp hclosed, hsound]
  decide

theorem judge_eq_good {v : β} (h : judge r sound value = .good v) : v = value ∧ sectionClosed r.bytes ∧ sound = true := by
  rcases judge_cases r sound value with ⟨-, hj⟩ | ⟨-, -, hj⟩ | ⟨-, htorn, hsound, hj⟩ <;> rw [hj] at h
  · cases h
  · cases h
  · cases h
    exact ⟨rfl, (sectionClosed_iff r).mpr htorn, hsound⟩

end

theorem within_iff (lo hi z : Int) : within lo hi z = true ↔ lo ≤ z ∧ z ≤ hi := by simp [within]

theorem s0RangesOk_iff (f : S0Fields) : s0RangesOk f = true ↔ s0InRange f := by
  simp only [s0RangesOk, balanceOk, Bool.and_eq_true, within_iff, decide_eq_true_iff, s0InRange, purseInRange, purseOf]
  constructor
  · rintro ⟨⟨⟨⟨hlo, hhi⟩, hreference⟩, hspent⟩, hcap⟩
    exact ⟨⟨hlo, hhi, hspent, hcap⟩, hreference⟩
  · rintro ⟨⟨hlo, hhi, hspent, hcap⟩, hreference⟩
    exact ⟨⟨⟨⟨hlo, hhi⟩, hreference⟩, hspent⟩, hcap⟩

theorem entryRangesOk_iff (e : LogEntry) : entryRangesOk e = true ↔ table61 e := by
  simp only [entryRangesOk, balanceOk, Bool.and_eq_true, within_iff, bne_iff_ne, Bool.or_eq_true, decide_eq_true_iff, table61, and_assoc, ← Decidable.imp_iff_not_or, ne_eq]

theorem s1Sound_iff (f : S1Fields) : (decide (f.count ≤ 64) && f.kindsOk && (f.entries.take f.count).all entryRangesOk && risesByOne (f.entries.take f.count)) = true ↔
    s1InRange f := by
  simp only [Bool.and_eq_true, decide_eq_true_iff, List.all_eq_true, entryRangesOk_iff, risesByOne_iff, s1InRange, and_assoc]

theorem s2Sound_iff (f : S2Fields) : f.fixtures.all recordOk = true ↔ ∀ x ∈ f.fixtures, x.kind ≠ .none ∨ x.queued ≠ none := by
  simp only [List.all_eq_true, recordOk, Bool.or_eq_true, bne_iff_ne, Option.isSome_iff_ne_none]

theorem unsound_of_not {b : Bool} {p : Prop} (h : b = true ↔ p) (hnot : ¬ p) : b = false := Bool.eq_false_iff.mpr fun hb => hnot (h.mp hb)

/-! ### The restore table (R174) -/

theorem purseLaw_foldSum (balance reference : Int) (es : List LogEntry) :
    balance = reference + foldSum es ↔ balance = reference - amounts es (fun e => !isRefund e) + amounts es isRefund := by
  rw [foldSum_eq_amounts]
  omega

theorem lawReference_eq (balance : Int) (es : List LogEntry) : lawReference balance es = balance + amounts es (fun e => !isRefund e) - amounts es isRefund := by
  unfold lawReference
  rw [foldSum_eq_amounts]
  omega

theorem nextAfter_eq_iff (es : List LogEntry) (n : Seq) : n = nextAfter es n ↔ ∀ e, es.getLast? = some e → n = e.seq + 1 := by
  unfold nextAfter
  cases es.getLast? with
  | none => exact iff_of_true rfl nofun
  | some e => exact ⟨fun h _ he => Option.some.inj he ▸ h, fun h => h e rfl⟩

/-- Two good sections: the balance stands, and the reference is set where the purse law fails (R174). -/
theorem reconcile_purse (f : S0Fields) (es : List LogEntry) : (reconcile f es).purse = { purseOf f with
    reference := (if f.balance = f.reference - amounts es (fun e => !isRefund e) + amounts es isRefund then f.reference
      else f.balance + amounts es (fun e => !isRefund e) - amounts es isRefund) } := by
  refine congrArg (fun z => { purseOf f with reference := z }) ?_
  by_cases hlaw : f.balance = f.reference + foldSum es
  · exact (if_neg (by simpa using hlaw)).trans (if_pos ((purseLaw_foldSum _ _ es).mp hlaw)).symm
  · exact (if_pos (bne_iff_ne.mpr hlaw)).trans ((lawReference_eq _ _).trans (if_neg (fun h => hlaw ((purseLaw_foldSum _ _ es).mpr h))).symm)

theorem reconcile_reconciled (f : S0Fields) (es : List LogEntry) : (reconcile f es).reconciled = false ↔
    f.balance = f.reference - amounts es (fun e => !isRefund e) + amounts es isRefund ∧ ∀ e, es.getLast? = some e → f.nextSeq = e.seq + 1 := by
  rw [← purseLaw_foldSum, ← nextAfter_eq_iff]
  show (f.balance != f.reference + foldSum es || f.nextSeq != nextAfter es f.nextSeq) = false ↔ _
  rw [Bool.or_eq_false_iff, bne_eq_false_iff_eq, bne_eq_false_iff_eq]

/-- Settles O57: the judgements by the three outcomes of `judge`, and the restore table by which of the two sections is good. -/
theorem restoreTableGivesPurseAndLog : Obligations.RestoreTableGivesPurseAndLog := by
  refine ⟨fun r => ⟨judge_blank, fun h hbad => judge_lost h (hbad.imp_right (unsound_of_not (s0RangesOk_iff _))),
      fun h hclosed hrange => judge_good h hclosed ((s0RangesOk_iff _).mpr hrange), fun h => ?_⟩,
    fun r => ⟨judge_blank, fun h hbad => judge_lost h (hbad.imp_right (unsound_of_not (s1Sound_iff _))),
      fun h hclosed hrange => judge_good h hclosed ((s1Sound_iff _).mpr hrange), fun es h => ?_⟩,
    fun r => ⟨judge_blank, fun h hbad => judge_lost h (hbad.imp_right (fun hx => unsound_of_not (s2Sound_iff _) (fun hall => ?_))),
      fun h hclosed hrange => judge_good h hclosed ((s2Sound_iff _).mpr hrange)⟩,
    fun f es => ⟨?_, reconcile_reconciled f es⟩, fun f j hj => ?_, fun es j hj => ?_, fun j0 j1 hj0 hj1 => ?_⟩
  · obtain ⟨-, hclosed, hrange⟩ := judge_eq_good h
    exact ⟨hclosed, (s0RangesOk_iff _).mp hrange⟩
  · obtain ⟨hes, hclosed, hrange⟩ := judge_eq_good h
    exact ⟨hes, hclosed, (s1Sound_iff _).mp hrange⟩
  · obtain ⟨x, hx, hkind, hqueued⟩ := hx
    exact (hall x hx).elim (fun h => h hkind) (fun h => h hqueued)
  · rw [← reconcile_purse]
    rfl
  · cases j with
    | good es => exact absurd rfl (hj es)
    | blank => rfl
    | lost => rfl
  · have hreference : lawReference 0 es = amounts es (fun e => !isRefund e) - amounts es isRefund := by rw [lawReference_eq, Int.zero_add]
    rw [← hreference]
    cases j with
    | good f => exact absurd rfl (hj f)
    | blank => rfl
    | lost => rfl
  · cases j0 with
    | good f => exact absurd rfl (hj0 f)
    | blank | lost =>
      cases j1 with
      | good es => exact absurd rfl (hj1 es)
      | blank => rfl
      | lost => rfl

end Sys2Proof.Machine

/-! Proofs: how a restore ends, and the two-wire bus (R172, R174, R177; O60). -/

namespace Sys2Proof.Machine

open Sys2Proof.Safety

set_option Elab.async false

/-! ### The one step that ends the restore (R161, R164, R174) -/

theorem State.wake_waiting {s : State} {v : RingView} (hst : s.orders.st = .idle) (hview : s.orders.view = some v) (hplaced : s.placement.st = .placed)
    (hwaits : v.prod ≠ v.cons) (hr : s.restoring = false) : s.wake = { s with orders := { s.orders with st := .waitingRoom } } := by
  unfold State.wake
  rw [hst, hview]
  refine if_pos ?_
  rw [hr, v.hasWaiting_iff.mpr hwaits, State.isPlaced, hplaced]
  rfl

theorem State.wake_quiet {s : State} (h : ¬ orderWaits s) : s.wake = s := by
  unfold State.wake
  split
  · rename_i v hst hview
    refine if_neg fun hif => h ?_
    simp only [Bool.and_eq_true, State.isPlaced, beq_iff_eq, RingView.hasWaiting_iff] at hif
    obtain ⟨⟨hplaced, hwaits⟩, -⟩ := hif
    exact ⟨v, hst, hview, hplaced, hwaits⟩
  · rfl

theorem State.handPlaced_pending {s : State} (h : s.placement.pendingReport = true) : s.handPlaced =
    { s with placement := { s.placement with pendingReport := false }, reports := { s.reports with placed := some s.placedReport } } := if_pos h

theorem State.handPlaced_none {s : State} (h : s.placement.pendingReport = false) : s.handPlaced = s := if_neg (Bool.eq_false_iff.mp h)

theorem State.handPlaced_placement (s : State) : s.handPlaced.placement = { s.placement with pendingReport := false } := by
  cases h : s.placement.pendingReport with
  | true => rw [State.handPlaced_pending h]
  | false =>
    rw [State.handPlaced_none h]
    rw [← h]

/-- The restore has ended: the pending report is handed over with purse and log as they stand, and a waiting order is taken up. -/
theorem restoreEnded_of_framed {s u : State} {bs : List Block} (h : framed bs s u) (hr : u.restoring = false) (hplacement : .placement ∉ bs) (hreports : .reports ∉ bs)
    (horders : .orders ∉ bs) (hunit : .unit ∉ bs) (hclock : .clock ∉ bs) : restoreEnded s u.handPlaced.wake := by
  have hp := h.placement hplacement
  have ho := h.orders horders
  have hrep := h.reports hreports
  have hwoken := u.handPlaced.wake_framed
  have hhanded := u.handPlaced_framed
  have hr' : u.handPlaced.restoring = false := (State.restoring_of_storeSt hhanded.storeSt).trans hr
  have hwaits : orderWaits u.handPlaced ↔ orderWaits s := by
    unfold orderWaits
    rw [hhanded.orders, u.handPlaced_placement, ho, hp]
  refine ⟨hwoken.placement.trans (u.handPlaced_placement.trans (by rw [hp])), fun hpending => ?_, fun hnone => ?_, fun hw => ?_, fun hw => ?_⟩
  · rw [hwoken.reports, hwoken.purse, hwoken.log, hhanded.purse, hhanded.log, State.handPlaced_pending (hp ▸ hpending), ← h.unit hunit, ← h.clock hclock, ← hrep]
    rfl
  · rw [hwoken.reports, State.handPlaced_none (hp ▸ hnone), hrep]
  · obtain ⟨v, hst, hview, hplaced, hneq⟩ := hwaits.mpr hw
    rw [State.wake_waiting hst hview hplaced hneq hr', ← ho, ← hhanded.orders]
  · rw [State.wake_quiet (mt hwaits.mp hw), hhanded.orders, ho]

section
variable (j0 : Judged S0Fields) (j1 : Judged (List LogEntry)) (j2 : Judged S2Fields) (st : RetentionState)

theorem endRestore_restoreEnded (s : State) (hst : ∀ a b, st ≠ .restoring a b) : restoreEnded s (s.endRestore j0 j1 j2 st) := by
  rw [State.endRestore_eq]
  exact restoreEnded_of_framed ((s.restoredTables_framed j0 j1 j2).andThen (cs := [.purse, .log, .fixtures, .refunds, .passes, .conds, .store]) (State.setStore_framed _ st))
    (State.restoring_of_st hst) (by simp) (by simp) (by simp) (by simp) (by simp)

/-- What stands from the tables to the end of the step that ends the restore. -/
theorem State.endRestore_after (s : State) : changesOnly [.store, .placement, .reports, .orders] (s.restoredTables j0 j1 j2) (s.endRestore j0 j1 j2 st) := by
  rw [State.endRestore_eq]
  have hset : changesOnly [.store, .placement, .reports, .orders] (s.restoredTables j0 j1 j2) ((s.restoredTables j0 j1 j2).setStore st) := by
    intro b hb; cases b <;> first | rfl | simp at hb
  exact changesOnly_trans hset (changesOnly_trans (changesOnly_mono (State.handPlaced_frame _) (by simp)) (changesOnly_mono (State.wake_frame _) (by simp)))

theorem State.endRestore_store (s : State) :
    (s.endRestore j0 j1 j2 st).store = { s.store with st := st, dirty := (s.restoredTables j0 j1 j2).store.dirty } := by
  have hstore : (s.endRestore j0 j1 j2 st).store = { (s.restoredTables j0 j1 j2).store with st := st } := by
    rw [State.endRestore_eq]
    exact ((State.wake_frame _) .store (by simp)).trans ((State.handPlaced_frame _) .store (by simp))
  rw [hstore, (s.restoredTables_framed j0 j1 j2).store]

/-- The state in which purse and log have taken their values, two sections reconciled being booked once. -/
def State.tookCredit (s : State) : State :=
  if (restoredCredit j0 j1).reconciled then (s.takeCredit (restoredCredit j0 j1)).bookLost (only .s1) else s.takeCredit (restoredCredit j0 j1)

theorem State.tookCredit_spec (s : State) : changesOnly [.purse, .log, .conds, .store] s (s.tookCredit j0 j1) ∧ condsOnly [.storeLost] s (s.tookCredit j0 j1) ∧
    (s.tookCredit j0 j1).purse = (restoredCredit j0 j1).purse ∧ (s.tookCredit j0 j1).log = (restoredCredit j0 j1).log ∧
    dirtied (restoredCredit j0 j1).dirty0 (restoredCredit j0 j1).dirty1 false s (s.tookCredit j0 j1) ∧
    (s.tookCredit j0 j1).conds.storeLost = if (restoredCredit j0 j1).reconciled = true then s.conds.storeLost.book (.sections ⟨false, true, false⟩) else s.conds.storeLost := by
  have hdirty : dirtied (restoredCredit j0 j1).dirty0 (restoredCredit j0 j1).dirty1 false s (s.takeCredit (restoredCredit j0 j1)) := by
    unfold dirtied
    rw [Bool.or_false]
    rfl
  have hframe : changesOnly [.purse, .log, .conds, .store] s (s.takeCredit (restoredCredit j0 j1)) := by
    intro b hb; cases b <;> first | rfl | simp at hb
  unfold State.tookCredit
  split
  · obtain ⟨hbook, -, honly⟩ := (s.takeCredit (restoredCredit j0 j1)).book_spec .storeLost (.sections (only .s1))
    exact ⟨changesOnly_trans hframe (changesOnly_mono hbook (by simp)), honly, rfl, rfl, hdirty, rfl⟩
  · exact ⟨hframe, condsOnly_refl _ _, rfl, rfl, hdirty, rfl⟩

theorem State.restoredTables_eq (s : State) :
    s.restoredTables j0 j1 j2 = State.settleS2 s.store.dirty.s2 j2 ((s.tookCredit j0 j1).restoreRecords (recordsOf j2)).serveRestored := rfl

end

theorem State.serveRestored_idle {s : State} (h : s.refunds = []) : s.serveRestored = s := by
  have hserve : s.serveRefunds.settleQueue s.refunds = s := by
    unfold State.serveRefunds State.settleQueue
    simp [h, serveFrom]
  unfold State.serveRestored
  rw [hserve]
  exact if_neg (fun hne : s.refunds ≠ [] ∧ _ => hne.1 h)

/-- Without records and without a refund queue the tables stand. -/
theorem State.restoredTables_idle {j0 : Judged S0Fields} {j1 : Judged (List LogEntry)} {j2 : Judged S2Fields} {s : State}
    (hj : recordsOf j2 = { fixtures := [], passes := [] }) (hq : s.refunds = []) :
    s.restoredTables j0 j1 j2 = State.settleS2 s.store.dirty.s2 j2 (s.tookCredit j0 j1) := by
  rw [State.restoredTables_eq, hj]
  refine congrArg (State.settleS2 s.store.dirty.s2 j2) (State.serveRestored_idle ?_)
  exact ((s.tookCredit_spec j0 j1).1 .refunds (by simp)).trans hq

theorem State.settleS2_dirty (s : State) (before : Bool) (j : Judged S2Fields) :
    (s.settleS2 before j).store.dirty = { s.store.dirty with s2 := before || !j.isGood || s.s2Image != recordsOf j } := rfl

/-! ### The bus (R172, R177) -/

theorem State.loseBus_of {s : State} {tr : BusTransaction} (h : s.transaction = some tr) : s.loseBus = { s with store := { s.store with awaitingStop := true } } :=
  if_pos (by rw [h]; rfl)

theorem State.reissue_of {s : State} {tr : BusTransaction} (h : s.transaction = some tr) (hstop : s.store.awaitingStop = true) :
    s.reissue = { s with store := { s.store with awaitingStop := false }, emitted := s.emitted ++ [.bus tr] } := by
  unfold State.reissue
  rw [hstop, h]
  rfl

theorem State.noAckPossible_of {s : State} {why : NoAck} (h : (s.store.awaitingStop = false ∧ s.polling = false) ∨ why = .addressTimeout) : s.noAckPossible why = true := by
  unfold State.noAckPossible
  rcases h with ⟨hstop, hpoll⟩ | rfl
  · rw [hstop, hpoll]
    rfl
  · exact Bool.or_true _

section
variable {s : State} {why : NoAck}

theorem State.storeFails_writing {images : List SectionImage} {page : Nat} {polling : Bool} (hst : s.store.st = .writing images page polling)
    (h : (s.store.awaitingStop = false ∧ polling = false) ∨ why = .addressTimeout) :
    s.storeFails why = { s with store := { s.store with st := .offline, awaitingStop := false }, conds := (s.book .storeLost (.sections ⟨true, true, true⟩)).conds } := by
  have hpolling : s.polling = polling := by rw [State.polling, hst]
  unfold State.storeFails
  rw [if_pos (State.noAckPossible_of (hpolling ▸ h)), hst]
  rfl

theorem State.storeFails_restoring {j0 : Option (Judged S0Fields)} {j1 : Option (Judged (List LogEntry))} (hst : s.store.st = .restoring j0 j1)
    (h : s.store.awaitingStop = false ∨ why = .addressTimeout) :
    s.storeFails why = State.bookLost allSections (State.failRestore j0 j1 { s with store := { s.store with awaitingStop := false } }) := by
  have hpolling : s.polling = false := by rw [State.polling, hst]
  unfold State.storeFails
  rw [if_pos (State.noAckPossible_of (h.imp_left fun hs => ⟨hs, hpolling⟩)), hst]

end

/-- The state whose unjudged sections are booked as lost. -/
def State.lostBooked (j0 : Option (Judged S0Fields)) (j1 : Option (Judged (List LogEntry))) (s : State) : State :=
  let s1 := if j0.isNone then s.bookLost (only .s0) else s
  let s2 := if j1.isNone then s1.bookLost (only .s1) else s1
  s2.bookLost (only .s2)

theorem State.lostBooked_conds (j0 : Option (Judged S0Fields)) (j1 : Option (Judged (List LogEntry))) (s : State) :
    s.lostBooked j0 j1 = { s with conds := (s.lostBooked j0 j1).conds } ∧ condsOnly [.storeLost] s (s.lostBooked j0 j1) := by
  have hbook : ∀ (u : State) (n : SectionName), condsOnly [.storeLost] u (u.bookLost (only n)) := fun u n => (u.book_spec .storeLost (.sections (only n))).2.2
  cases j0 <;> cases j1
  · exact ⟨rfl, condsOnly_trans (condsOnly_trans (hbook s .s0) (hbook _ .s1)) (hbook _ .s2)⟩
  · exact ⟨rfl, condsOnly_trans (hbook s .s0) (hbook _ .s2)⟩
  · exact ⟨rfl, condsOnly_trans (hbook s .s1) (hbook _ .s2)⟩
  · exact ⟨rfl, hbook s .s2⟩

theorem State.failRestore_eq (j0 : Option (Judged S0Fields)) (j1 : Option (Judged (List LogEntry))) (s : State) :
    s.failRestore j0 j1 = (s.lostBooked j0 j1).endRestore (judgedOrLost j0) (judgedOrLost j1) .lost .offline := rfl

/-- All three sections stay in the set of STORE_LOST, whatever sections it held (R169). -/
theorem Cond.book_allSections (c : Cond) : (c.book (.sections allSections)).data = some (.sections ⟨true, true, true⟩) := by
  refine congrArg some ?_
  obtain ⟨booked, count, data⟩ := c
  cases data with
  | none => rfl
  | some d =>
    cases d with
    | sections x => simp [mergeData, allSections]
    | _ => rfl

/-- Settles O60: the transaction by the retention state, the bus rules on it, and a memory that does not acknowledge by what was under way. -/
theorem busFailuresAndRetries : Obligations.BusFailuresAndRetries := by
  refine ⟨fun s => ⟨fun j1 hst => ?_, fun j0 hst => ?_, fun j0 j1 hst => ?_, fun image rest page polling hst => ?_, fun hst => ?_⟩, fun s tr htr =>
    ⟨congrArg Host.Outcome.next (State.loseBus_of htr), fun hstop => congrArg Host.Outcome.next (State.reissue_of htr hstop),
      fun images page polling why hst h => congrArg Host.Outcome.next (State.storeFails_writing hst h), fun j0 j1 why hst h => ?_⟩⟩
  · rw [State.transaction, hst]
    rfl
  · rw [State.transaction, hst]
    rfl
  · rw [State.transaction, hst]
    rfl
  · rw [State.transaction, hst]
    rfl
  · rcases hst with hst | hst <;> rw [State.transaction, hst]
  · refine ⟨_, congrArg Host.Outcome.next ((State.storeFails_restoring hst h).trans (congrArg (State.bookLost allSections) (State.failRestore_eq _ _ _))), ?_⟩
    obtain ⟨hlost, honly⟩ := State.lostBooked_conds j0 j1 { s with store := { s.store with awaitingStop := false } }
    generalize State.lostBooked j0 j1 { s with store := { s.store with awaitingStop := false } } = u at hlost honly ⊢
    have hended := endRestore_restoreEnded (judgedOrLost j0) (judgedOrLost j1) .lost .offline u nofun
    have hstore := u.endRestore_store (judgedOrLost j0) (judgedOrLost j1) .lost .offline
    have hframe := changesOnly_of_framed (bs := [.purse, .log, .fixtures, .refunds, .passes, .conds, .store, .placement, .reports, .orders]) (u.endRestore_framed (judgedOrLost j0) (judgedOrLost j1) .lost .offline)
    have hafter := u.endRestore_after (judgedOrLost j0) (judgedOrLost j1) .lost .offline
    have hdirty : (u.restoredTables (judgedOrLost j0) (judgedOrLost j1) .lost).store.dirty.s2 = true := by
      rw [State.restoredTables_eq, State.settleS2_dirty]
      simp [Judged.isGood]
    generalize u.endRestore (judgedOrLost j0) (judgedOrLost j1) .lost .offline = t at hended hstore hframe hafter ⊢
    obtain ⟨hbook, hget, hothers⟩ := t.book_spec .storeLost (.sections allSections)
    have hstart : changesOnly [.conds, .store] s u := by
      rw [hlost]
      intro b hb; cases b <;> first | rfl | simp at hb
    have hstored : t.store = { s.store with st := .offline, awaitingStop := false, dirty := t.store.dirty } := by
      rw [hstore, hlost]
    refine ⟨hstored, (congrArg (fun x => x.dirty.s2) hstore).trans hdirty, ?_, congrArg Cond.booked hget, (congrArg Cond.data hget).trans (Cond.book_allSections _), ?_,
      fun hq => ?_⟩
    · rw [hlost] at hended
      exact hended
    · exact changesOnly_trans (changesOnly_mono hstart (by simp)) (changesOnly_trans (changesOnly_mono hframe (by simp)) (changesOnly_mono hbook (by simp)))
    · have hidle := State.restoredTables_idle (s := u) (j0 := judgedOrLost j0) (j1 := judgedOrLost j1) (j2 := .lost) rfl ((hstart .refunds (by simp)).trans hq)
      rw [hidle] at hafter hstore hdirty
      obtain ⟨hcredit, hbooked, hpurse, hlog, hmarks, -⟩ := u.tookCredit_spec (judgedOrLost j0) (judgedOrLost j1)
      refine ⟨?_, ?_, ?_, ?_, ?_, ?_⟩
      · exact (hafter .fixtures (by simp)).trans ((hcredit .fixtures (by simp)).trans (hstart .fixtures (by simp)))
      · exact (hafter .passes (by simp)).trans ((hcredit .passes (by simp)).trans (hstart .passes (by simp)))
      · exact (hafter .purse (by simp)).trans hpurse
      · exact (hafter .log (by simp)).trans hlog
      · refine (congrArg Retention.dirty hstore).trans ?_
        have hkept : (u.tookCredit (judgedOrLost j0) (judgedOrLost j1)).store.dirty = { s0 := s.store.dirty.s0 || (restoredCredit (judgedOrLost j0) (judgedOrLost j1)).dirty0
                                                                                        s1 := s.store.dirty.s1 || (restoredCredit (judgedOrLost j0) (judgedOrLost j1)).dirty1
                                                                                        s2 := s.store.dirty.s2 || false } := by
          rw [hmarks, hlost]
        refine (State.settleS2_dirty _ _ _).trans ?_
        rw [hkept]
        simp [Judged.isGood]
      · have hconds : t.conds = (u.tookCredit (judgedOrLost j0) (judgedOrLost j1)).conds := hafter .conds (by simp)
        exact condsOnly_trans (t := u) honly (condsOnly_trans hbooked (condsOnly_trans (condsOnly_of_eq hconds) hothers))

end Sys2Proof.Machine

/-! Proofs: write passes go page by page, and what each page write holds (R172, R176, Table 12-1; O59). -/

namespace Sys2Proof.Machine

open Sys2Proof.Safety

set_option Elab.async false

/-! ### The pass (R176) -/

section
variable {s : State}

theorem State.startPass_images {image : SectionImage} {rest : List SectionImage} (h : s.capture = image :: rest) : s.startPass = { s with
    store := { s.store with st := .writing (image :: rest) 0 false, dirty := ⟨false, false, false⟩ }
    emitted := s.emitted ++ [.bus (pageWriteOf image 0)] } := by
  unfold State.startPass
  rw [h]
  rfl

theorem State.startPass_clean (h : s.store.dirty = ⟨false, false, false⟩) : s.startPass = s.setStore .idle := by
  have hnone : s.capture = [] := by
    unfold State.capture
    rw [h]
    rfl
  unfold State.startPass
  rw [hnone]

theorem State.pollAcknowledged_eq (s : State) (polling : Bool) : s.pollAcknowledged polling = { s with emitted := s.emitted ++ acknowledging polling } := by
  cases polling with
  | true => exact congrArg (fun es => { s with emitted := es }) (List.append_nil s.emitted).symm
  | false => rfl

variable {image : SectionImage} {rest : List SectionImage} {page : Nat} {polling : Bool} (hstop : s.store.awaitingStop = false)
  (hst : s.store.st = .writing (image :: rest) page polling)
include hstop hst

theorem State.pageDone_page (h : page < pagesOf image) : s.pageDone = { s with
    store := { s.store with st := .writing (image :: rest) (page + 1) false }
    emitted := s.emitted ++ acknowledging polling ++ [.bus (pageWriteOf image (page + 1))] } := by
  unfold State.pageDone
  rw [if_neg (by simp [hstop]), hst]
  exact (if_pos h).trans (by rw [State.pollAcknowledged_eq]; rfl)

theorem State.pageDone_section {next : SectionImage} {more : List SectionImage} (h : pagesOf image ≤ page) (hrest : rest = next :: more) : s.pageDone = { s with
    store := { s.store with st := .writing rest 0 false }
    emitted := s.emitted ++ acknowledging polling ++ [.bus (pageWriteOf next 0)] } := by
  subst hrest
  unfold State.pageDone
  rw [if_neg (by simp [hstop]), hst]
  exact (if_neg (Nat.not_lt.mpr h)).trans (by rw [State.pollAcknowledged_eq]; rfl)

theorem State.pageDone_pass (h : pagesOf image ≤ page) (hrest : rest = []) :
    s.pageDone = State.startPass { s with emitted := s.emitted ++ acknowledging polling } := by
  subst hrest
  unfold State.pageDone
  rw [if_neg (by simp [hstop]), hst]
  exact (if_neg (Nat.not_lt.mpr h)).trans (by rw [State.pollAcknowledged_eq])

end

/-! ### What each image holds (R172) -/

theorem fixtureRecord_keeps (e : FixtureEntry) (queued : Option Schedule) : recordKeeps (fixtureRecord e queued) e := by
  refine ⟨rfl, ?_, rfl⟩
  obtain ⟨tag, standing, kind, viewed, remaining, delivered⟩ := e
  cases kind <;> rfl

/-- The record of a queued tag. -/
def State.queuedRecord (s : State) (t : Tag) : Option FixtureRec := (s.fixture t).bind (fun e => e.schedule.map (fun sch => fixtureRecord e (some sch)))

/-- The record of an entitled entry that is not queued. -/
def State.entryRecord (s : State) (e : FixtureEntry) : Option FixtureRec :=
  if e.kind ≠ .none ∧ s.refunds.contains e.tag = false then some (fixtureRecord e none) else none

theorem State.s2Image_fixtures (s : State) :
    s.s2Image.fixtures = s.refunds.filterMap s.queuedRecord ++ s.fixtures.filterMap (fun o => o.bind s.entryRecord) := rfl

theorem State.queuedRecord_spec {s : State} {t : Tag} {r : FixtureRec} (h : s.queuedRecord t = some r) :
    r.tag = t ∧ ∃ e sch ph, s.fixture r.tag = some e ∧ e.standing = .scheduled sch ph ∧ recordKeeps r e ∧ r.queued = some sch := by
  obtain ⟨e, he, hr⟩ := Option.bind_eq_some_iff.mp h
  obtain ⟨sch, hsch, rfl⟩ := Option.map_eq_some_iff.mp hr
  have htag : (fixtureRecord e (some sch)).tag = t := State.fixture_tag he
  refine ⟨htag, ?_⟩
  rw [htag]
  cases hst : e.standing with
  | awaiting => simp [FixtureEntry.schedule, hst] at hsch
  | scheduled own ph =>
    have hown : own = sch := by simpa [FixtureEntry.schedule, hst] using hsch
    exact ⟨e, sch, ph, he, by rw [hst, hown], fixtureRecord_keeps e _, rfl⟩

theorem map_filterMap_of_inverse {α β : Type} {f : α → Option β} {g : β → α} (hinv : ∀ x y, f x = some y → g y = x) : ∀ xs : List α,
    (∀ x ∈ xs, (f x).isSome = true) → (xs.filterMap f).map g = xs := by
  intro xs
  induction xs with
  | nil => exact fun _ => rfl
  | cons x xs ih =>
    intro hall
    obtain ⟨y, hy⟩ := Option.isSome_iff_exists.mp (hall x (.head _))
    rw [List.filterMap_cons_some hy, List.map_cons, hinv x y hy, ih (fun z hz => hall z (.tail _ hz))]

theorem State.queuedRecord_isSome {s : State} (h : RefundQueueSound s) {t : Tag} (ht : t ∈ s.refunds) : (s.queuedRecord t).isSome = true := by
  obtain ⟨-, -, -, hqueued, -⟩ := h
  obtain ⟨e, he, ⟨sch, hst⟩, -⟩ := hqueued t ht
  simp [State.queuedRecord, he, FixtureEntry.schedule, hst]

/-- The tag of an entitled entry that is not queued. -/
def State.keptTag (s : State) (e : FixtureEntry) : Option Tag := if e.kind ≠ .none ∧ e.tag ∉ s.refunds then some e.tag else none

theorem State.entryRecord_tag (s : State) (e : FixtureEntry) : (s.entryRecord e).map (·.tag) = s.keptTag e := by
  have hiff : (e.kind ≠ .none ∧ s.refunds.contains e.tag = false) ↔ (e.kind ≠ .none ∧ e.tag ∉ s.refunds) := by simp
  unfold State.entryRecord State.keptTag
  by_cases h : e.kind ≠ .none ∧ e.tag ∉ s.refunds
  · rw [if_pos (hiff.mpr h), if_pos h]
    rfl
  · rw [if_neg (mt hiff.mp h), if_neg h]
    rfl

theorem State.entryRecords_tags (s : State) (t : List (Option FixtureEntry)) :
    (t.filterMap (fun o => o.bind s.entryRecord)).map (·.tag) = (t.filterMap id).filterMap s.keptTag := by
  rw [List.map_filterMap, List.filterMap_filterMap]
  refine congrArg (fun f => t.filterMap f) (funext fun o => ?_)
  cases o with
  | none => rfl
  | some e => exact s.entryRecord_tag e

theorem State.entryRecords_mem {s : State} {r : FixtureRec} (h : r ∈ s.fixtures.filterMap (fun o => o.bind s.entryRecord)) :
    ∃ e, inUse s.fixtures e ∧ recordKeeps r e ∧ r.queued = none := by
  obtain ⟨o, ho, hr⟩ := List.mem_filterMap.mp h
  obtain ⟨e, rfl, he⟩ := Option.bind_eq_some_iff.mp hr
  unfold State.entryRecord at he
  obtain ⟨-, he⟩ := of_ite_ne_else he nofun
  cases he
  exact ⟨e, ho, fixtureRecord_keeps e none, rfl⟩

theorem filterMap_bind_filter {α β : Type} (t : List (Option α)) {p q : α → Bool} (hpq : ∀ x, p x = q x) (f : α → β) :
    t.filterMap (fun o => o.bind (fun x => if p x then some (f x) else none)) = ((t.filterMap id).filter q).map f := by
  induction t with
  | nil => rfl
  | cons o os ih =>
    cases o with
    | none => exact ih
    | some x => cases hx : q x <;> simpa [hpq, hx] using ih

/-! ### The bytes of a section and of its page writes (Table 12-1) -/

theorem sectionBytes_length (i : SectionImage) : (sectionBytes i).length = 32 * pagesOf i := by
  have := pagesOf_pos i
  simp only [sectionBytes, List.length_append, List.length_cons, List.length_map, List.length_range, List.length_nil]
  omega

theorem sumBytes_closed (bs : List Byte) : sumBytes (bs ++ [0 - sumBytes bs]) = 0 := by
  have hsum : sumBytes (bs ++ [0 - sumBytes bs]) = sumBytes bs + (0 - sumBytes bs) := List.foldl_append
  rw [hsum]
  bv_omega

theorem byteAt_page (bs : List Byte) (m k : Nat) (hk : k < 32) : byteAt ((bs.drop m).take 32) k = byteAt bs (m + k) := by
  unfold byteAt
  rw [List.getD_eq_getElem?_getD, List.getD_eq_getElem?_getD, List.getElem?_take_of_lt hk, List.getElem?_drop]

theorem byteAt_set_zero (bs : List Byte) (b : Byte) (h : 0 < bs.length) : byteAt (bs.set 0 b) 0 = b ∧ ∀ k, 0 < k → byteAt (bs.set 0 b) k = byteAt bs k := by
  cases bs with
  | nil => cases h
  | cons x xs =>
    refine ⟨rfl, fun k hk => ?_⟩
    cases k with
    | zero => cases hk
    | succ k => rfl

/-- The page that page write number `page` of an image writes: page 0 first and last. -/
theorem pageIndex_eq {i : SectionImage} {page : Nat} (h : page ≤ pagesOf i) : 32 * (page % pagesOf i) = if page = pagesOf i then 0 else 32 * page := by
  by_cases heq : page = pagesOf i
  · rw [if_pos heq, heq, Nat.mod_self]
  · rw [if_neg heq, Nat.mod_eq_of_lt (by omega)]

theorem pageWord_toNat {i : SectionImage} {page : Nat} (h : page ≤ pagesOf i) :
    (sectionAddress (SectionImage.name i) + BitVec.ofNat 16 (32 * (page % pagesOf i))).toNat =
      (sectionAddress (SectionImage.name i)).toNat + (if page = pagesOf i then 0 else 32 * page) := by
  have hlt := Nat.mod_lt page (pagesOf_pos i)
  rw [BitVec.toNat_add, BitVec.toNat_ofNat, ← pageIndex_eq h]
  cases i <;> simp only [pagesOf, SectionImage.name, sectionAddress, BitVec.reduceToNat] at hlt ⊢ <;> omega

/-- The data of a page write: its page's bytes, with the mark OPEN in the first. -/
theorem pageData_bytes {i : SectionImage} {page : Nat} {data : List Byte} (hpage : page ≤ pagesOf i)
    (hlater : page ≠ 0 → data = ((sectionBytes i).drop (32 * (page % pagesOf i))).take 32) (hfirst : page = 0 → data = ((sectionBytes i).take 32).set 0 0x5A#8) :
    data.length = 32 ∧
      byteAt data 0 = (if page = 0 then 0x5A#8 else if page = pagesOf i then 0xA5#8 else byteAt (sectionBytes i) (32 * page)) ∧
      ∀ k, 0 < k → k < 32 → byteAt data k = byteAt (sectionBytes i) ((if page = pagesOf i then 0 else 32 * page) + k) := by
  have hlen := sectionBytes_length i
  have hpos := pagesOf_pos i
  have hmod := Nat.mod_lt page hpos
  by_cases h0 : page = 0
  · have htake : ((sectionBytes i).take 32).length = 32 := by rw [List.length_take]; omega
    obtain ⟨hmark, hrest⟩ := byteAt_set_zero ((sectionBytes i).take 32) 0x5A#8 (by omega)
    rw [hfirst h0, if_pos h0]
    refine ⟨by rw [List.length_set, htake], hmark, fun k hk hk32 => (hrest k hk).trans ?_⟩
    rw [if_neg (by omega), h0]
    exact byteAt_page (sectionBytes i) 0 k hk32
  · rw [hlater h0, if_neg h0]
    refine ⟨by rw [List.length_take, List.length_drop]; omega, ?_, fun k _ hk32 => ?_⟩
    · rw [byteAt_page _ _ _ (by omega), pageIndex_eq hpage]
      split
      · rfl
      · rfl
    · rw [byteAt_page _ _ _ hk32, pageIndex_eq hpage]

/-- Settles O59: the pass by the cases of its page, what S2 keeps by its two lists, and the page writes by their number. -/
theorem writePassesGoPageByPage : Obligations.WritePassesGoPageByPage := by
  refine ⟨fun s => ⟨fun image rest hst hcap => ?_, fun hst hclean => ?_, rfl, fun image rest page polling hstop hst => ⟨fun h => ?_, fun next more h hrest => ?_,
    fun h hrest hclean => ?_, fun fresh others h hrest hcap => ?_⟩, rfl, fun hq => ?_, ?_⟩, fun image => ⟨?_, ?_, ?_, sectionBytes_length image, rfl, sumBytes_closed _,
    fun page hpage => ?_⟩⟩
  · exact congrArg Host.Outcome.next ((if_pos hst).trans (State.startPass_images hcap))
  · refine congrArg Host.Outcome.next ((if_pos hst).trans ((State.startPass_clean hclean).trans ?_))
    rw [← hst]
    rfl
  · exact congrArg Host.Outcome.next (State.pageDone_page hstop hst h)
  · exact congrArg Host.Outcome.next (State.pageDone_section hstop hst h hrest)
  · exact congrArg Host.Outcome.next ((State.pageDone_pass hstop hst h hrest).trans (State.startPass_clean hclean))
  · exact congrArg Host.Outcome.next ((State.pageDone_pass hstop hst h hrest).trans (State.startPass_images hcap))
  · refine ⟨_, _, s.s2Image_fixtures, map_filterMap_of_inverse (fun t r hr => (State.queuedRecord_spec hr).1) s.refunds (fun t ht => State.queuedRecord_isSome hq ht),
      fun r hr => ?_, s.entryRecords_tags s.fixtures, fun r hr => State.entryRecords_mem hr⟩
    obtain ⟨t, -, ht⟩ := List.mem_filterMap.mp hr
    exact (State.queuedRecord_spec ht).2
  · exact filterMap_bind_filter s.passes (fun p => rfl) _
  · rintro ⟨f, rfl⟩
    rfl
  · rintro ⟨es, rfl⟩
    rfl
  · rintro ⟨f, rfl⟩
    rfl
  · obtain ⟨data, hwrite, hlater, hfirst⟩ := pageWriteOf_cases image page
    refine ⟨_, data, hwrite, ?_⟩
    obtain ⟨hlen, hbytes⟩ := pageData_bytes hpage hlater hfirst
    refine ⟨hlen, (pageWord_toNat hpage).trans ?_, hbytes⟩
    cases image <;> rfl

end Sys2Proof.Machine

/-! Proofs: a request handled as CPU is judged against the arming run (R155, R156; O45). -/

namespace Sys2Proof.Machine

open Sys2Proof.Safety

set_option Elab.async false

/-! ### The arming watch, case by case -/

section
variable {s : State} {w : WriteReq}

theorem armingShape_iff (w : WriteReq) : armingShape w = true ↔ w.data.length = 16 ∧ w.enables = List.replicate 16 true := by simp [armingShape]

theorem State.armWatch_write (hr : ¬ reading s) (w : WriteReq) : s.armWatch (.write w) = if armingShape w then
    (match s.placement.run with
      | some k =>
        if w.addr = k.addr ∧ (byteAt w.data 0).toNat = k.count + 1 then
          if k.count + 1 = 8 then s.completeArming w.addr else s.setRun (some { k with count := k.count + 1 })
        else s.startRun w
      | none => s.startRun w)
    else s.setRun none := by
  unfold State.armWatch
  cases hst : s.placement.st with
  | reading a head got => exact absurd ⟨a, head, got, hst⟩ hr
  | unplaced => rfl
  | placed => rfl

theorem State.armWatch_unshaped (hr : ¬ reading s) (h : ¬ (w.data.length = 16 ∧ w.enables = List.replicate 16 true)) : s.armWatch (.write w) = s.setRun none := by
  rw [State.armWatch_write hr, if_neg (mt (armingShape_iff w).mp h)]

variable (hr : ¬ reading s) (hshape : armingShape w = true)
include hr hshape

theorem State.armWatch_next {k : ArmingRun} (hk : s.placement.run = some k) (haddr : w.addr = k.addr) (hcount : (byteAt w.data 0).toNat = k.count + 1)
    (hlast : k.count + 1 ≠ 8) : s.armWatch (.write w) = s.setRun (some { k with count := k.count + 1 }) := by
  rw [State.armWatch_write hr, if_pos hshape, hk]
  exact (if_pos ⟨haddr, hcount⟩).trans (if_neg hlast)

theorem State.armWatch_eighth {k : ArmingRun} (hk : s.placement.run = some k) (haddr : w.addr = k.addr) (hcount : (byteAt w.data 0).toNat = k.count + 1)
    (hlast : k.count + 1 = 8) : s.armWatch (.write w) = s.completeArming w.addr := by
  rw [State.armWatch_write hr, if_pos hshape, hk]
  exact (if_pos ⟨haddr, hcount⟩).trans (if_pos hlast)

theorem State.armWatch_other (h : ∀ k, s.placement.run = some k → ¬ (w.addr = k.addr ∧ (byteAt w.data 0).toNat = k.count + 1)) :
    s.armWatch (.write w) = s.startRun w := by
  rw [State.armWatch_write hr, if_pos hshape]
  cases hk : s.placement.run with
  | none => rfl
  | some k => exact if_neg (h k hk)

end

theorem State.completeArming_unplaced {s : State} (h : s.placement.st = .unplaced) (a : Addr) : (s.completeArming a).placement =
      { s.placement with st := .reading a none [], run := none, attempts := nextAttempt s.placement.attempts } ∧
    (s.completeArming a).emitted = s.emitted ++ [.own (.headRead (a + 16))] := by
  unfold State.completeArming
  rw [h]
  exact ⟨rfl, rfl⟩

theorem State.completeArming_placed {s : State} (h : s.placement.st = .placed) (a : Addr) : (s.completeArming a).placement =
      { s.placement with run := none, attempts := nextAttempt s.placement.attempts } ∧
    (s.completeArming a).emitted = s.emitted ++
      [.own (.write a (resultRecord .alreadyPlaced (nextAttempt s.placement.attempts) 255 s.unit.number) (List.replicate 16 true))] := by
  unfold State.completeArming
  rw [h]
  exact ⟨rfl, congrArg (fun x => s.emitted ++ [x]) (State.resultWrite_eq _ _ _ _)⟩

theorem nextAttempt_ne (n : Nat) : nextAttempt n ≠ n := by
  unfold nextAttempt
  split <;> omega

theorem State.completeArming_attempts (s : State) (a : Addr) : (s.completeArming a).placement.attempts = nextAttempt s.placement.attempts := by
  unfold State.completeArming
  cases s.placement.st <;> rfl

/-- The placement unit presents only where it counts an attempt (R156). -/
theorem State.armWatch_quiet {s : State} {r : Request} (h : (s.armWatch r).placement.attempts = s.placement.attempts) : (s.armWatch r).emitted = s.emitted := by
  by_cases hr : reading s
  · rw [State.armWatch_of_reading hr]
  · cases r with
    | read r => rw [State.armWatch_read hr]; rfl
    | write w =>
      by_cases hshape : armingShape w = true
      · by_cases hrun : ∃ k, s.placement.run = some k ∧ w.addr = k.addr ∧ (byteAt w.data 0).toNat = k.count + 1
        · obtain ⟨k, hk, haddr, hcount⟩ := hrun
          by_cases hlast : k.count + 1 = 8
          · rw [State.armWatch_eighth hr hshape hk haddr hcount hlast, State.completeArming_attempts] at h
            exact absurd h (nextAttempt_ne _)
          · rw [State.armWatch_next hr hshape hk haddr hcount hlast]
            rfl
        · rw [State.armWatch_other hr hshape (fun k hk hmatch => hrun ⟨k, hk, hmatch⟩)]
          rfl
      · rw [State.armWatch_unshaped hr (mt (armingShape_iff w).mpr hshape)]
        rfl

/-! ### What a taken request presents besides -/

theorem not_unitRequest_of_forward {x : Emission} (h : isForward x = true) : isUnitRequest x = false := by cases x <;> first | rfl | cases h

theorem not_unitRequest_of_slateRead {x : Emission} (h : isSlateRead x = true) : isUnitRequest x = false := by
  cases x with
  | own r => cases r <;> first | rfl | cases h
  | _ => rfl

theorem not_unitRequest_of_answer {x : Emission} (h : isAnswer x = true) : isUnitRequest x = false := by cases x <;> first | rfl | cases h

/-- Neither what a request presents for itself nor the answers that leave are requests of a unit. -/
theorem filter_unitRequests {shown placed answers : List Emission} (hshown : ∀ x ∈ shown, isForward x = true ∨ isSlateRead x = true)
    (hplaced : ∀ x ∈ placed, isUnitRequest x = true) (hanswers : ∀ x ∈ answers, isAnswer x = true) :
    (shown ++ placed ++ answers).filter isUnitRequest = placed := by
  rw [List.filter_append, List.filter_append, filter_eq_nil_of (fun x hx => (hshown x hx).elim not_unitRequest_of_forward not_unitRequest_of_slateRead),
    List.filter_eq_self.mpr hplaced, filter_eq_nil_of (fun x hx => not_unitRequest_of_answer (hanswers x hx)), List.nil_append, List.append_nil]

/-- What a step that takes a request presents, with the placement unit's part apart: `u` is the state in which the placement unit is shown the request. -/
theorem presented_with_placement {s u : State} {shown : List Emission} (hmem : ∀ x ∈ shown, isForward x = true ∨ isSlateRead x = true) (hs : presentedAs shown s u)
    (c : Cls) (r : Request) : ∃ issued, presentedAs issued s (u.showPlacement c r).drain ∧ (u.showPlacement c r).emitted = u.emitted ++ issued.filter isUnitRequest := by
  obtain ⟨placed, hplaced, hp⟩ := u.showPlacement_presents c r
  refine ⟨_, presentedAs_trans (presentedAs_trans hs hp) (State.drain_presents _), ?_⟩
  rw [filter_unitRequests hmem hplaced (drainList_answers _ _)]
  exact hp.1

theorem State.takeRead_presents (s : State) (r : ReadReq) : ∃ shown, (∀ x ∈ shown, isForward x = true ∨ isSlateRead x = true) ∧
    presentedAs shown s (s.takeRead (handled r.cls) r) := by
  obtain ⟨shown, hperm, hemitted, hown⟩ := State.presentTogether_presentedAs (s.takeOn (handled r.cls) (shownRead r) (s.gateParts (handled r.cls) r.addr r.len) none)
    (s.readPresents r)
  refine ⟨shown, fun x hx => ?_, by rw [State.takeRead_eq]; exact ⟨hemitted, hown⟩⟩
  rcases List.mem_cons.mp (hperm.mem_iff.mp hx) with rfl | hx
  · exact .inl rfl
  · obtain ⟨p, -, hp⟩ := List.mem_filterMap.mp hx
    split at hp
    · cases hp
      exact .inr rfl
    · cases hp

/-- A request taken: its placement is that of the placement unit once shown the request, and so are the unit requests that it presents. -/
theorem State.takeRequest_placed {s : State} {r : Request} (hroom : roomFor (handled (requestClass r)) s) : ∃ (u : State) (issued : List Emission),
    u.placement = s.placement ∧ u.unit = s.unit ∧ presentedAs issued s (s.takeRequest r) ∧
      (s.takeRequest r).placement = (u.showPlacement (handled (requestClass r)) r).placement ∧
      (u.showPlacement (handled (requestClass r)) r).emitted = u.emitted ++ issued.filter isUnitRequest := by
  cases r with
  | read r =>
    obtain ⟨shown, hmem, hs⟩ := s.takeRead_presents r
    obtain ⟨issued, hissued, hunits⟩ := presented_with_placement hmem hs (handled r.cls) (.read r)
    have hframe := s.takeRead_framed (handled r.cls) r
    rw [State.takeRequest_read hroom]
    exact ⟨_, issued, hframe.placement, hframe.unit, hissued, (State.drain_framed _).placement, hunits⟩
  | write w =>
    obtain ⟨shown, hperm, hs⟩ := s.takeWrite_presents (handled w.cls) w
    obtain ⟨issued, hissued, hunits⟩ := presented_with_placement (fun x hx => State.mem_writePresents (hperm.mem_iff.mp hx)) hs (handled w.cls) (.write w)
    have hframe := s.takeWrite_framed (handled w.cls) w
    rw [State.takeRequest_write hroom]
    exact ⟨_, issued, hframe.placement, hframe.unit, hissued, (State.drain_framed _).placement, hunits⟩

theorem reading_of_placement {s u : State} (h : u.placement = s.placement) : reading u ↔ reading s := by
  unfold reading
  rw [h]

theorem exec_carried {r : Request} {cmd : Instr} (h : (∃ q, r = .read q ∧ carriesRead q cmd) ∨ (∃ w, r = .write w ∧ carriesWrite w cmd)) (s : State) :
    exec cmd s = .next (s.takeRequest r) := by
  rcases h with ⟨q, rfl, hq⟩ | ⟨w, rfl, hw⟩
  · exact exec_carriesRead hq s
  · exact exec_carriesWrite hw s

/-- A request that the placement unit is not shown, or that finds it READING, leaves it as it is. -/
theorem State.takeRequest_unshown {s : State} {r : Request} (hroom : roomFor (handled (requestClass r)) s) (h : reading s ∨ handled (requestClass r) ≠ .cpu) :
    ∃ issued, (s.takeRequest r).placement = s.placement ∧ presentedAs issued s (s.takeRequest r) ∧ issued.filter isUnitRequest = [] := by
  obtain ⟨u, issued, hplacement, -, hissued, hafter, hunits⟩ := State.takeRequest_placed hroom
  rw [State.showPlacement_of_stands (h.symm.imp_right (reading_of_placement hplacement).mpr)] at hafter hunits
  exact ⟨issued, hafter.trans hplacement, hissued, List.append_right_eq_self.mp hunits.symm⟩

/-- A CPU request outside READING: its placement is that of the arming watch, on a state with the same placement unit, and so are the unit requests it presents. -/
theorem State.takeRequest_armed {s : State} {r : Request} (hroom : roomFor .cpu s) (hcls : requestClass r = .cpu) (hr : ¬ reading s) : ∃ (u : State) (issued : List Emission),
    u.placement = s.placement ∧ u.unit = s.unit ∧ ¬ reading u ∧ presentedAs issued s (s.takeRequest r) ∧
      (s.takeRequest r).placement = (u.armWatch r).placement ∧ (u.armWatch r).emitted = u.emitted ++ issued.filter isUnitRequest := by
  have hhandled : handled (requestClass r) = .cpu := by rw [hcls]; rfl
  obtain ⟨u, issued, hplacement, hunit, hissued, hafter, hunits⟩ := State.takeRequest_placed (r := r) (hhandled ▸ hroom)
  have hshown : u.showPlacement (handled (requestClass r)) r = u.armWatch r := if_pos hhandled
  rw [hshown] at hafter hunits
  exact ⟨u, issued, hplacement, hunit, mt (reading_of_placement hplacement).mp hr, hissued, hafter, hunits⟩

theorem State.setRun_of_placement {s u : State} (h : u.placement = s.placement) (k : Option ArmingRun) : (u.setRun k).placement = { s.placement with run := k } :=
  congrArg (fun p => { p with run := k }) h

/-- Settles O45: a request shown to no watch leaves run, count and state; otherwise the cases of the arming watch, on the state in which it is shown the request. -/
theorem armingRunIsJudged : Obligations.ArmingRunIsJudged := by
  refine ⟨fun s q cmd hcmd hroom h => ?_, fun s w r hroom hr hw hrc => ⟨fun cmd hcmd => ?_, fun cmd hcmd => ?_⟩⟩
  · obtain ⟨issued, hplacement, ⟨hemitted, -⟩, hunits⟩ := State.takeRequest_unshown hroom h
    exact ⟨_, issued, exec_carried hcmd s, hplacement, hemitted, hunits⟩
  · obtain ⟨u, issued, hplacement, -, hru, ⟨hemitted, -⟩, hafter, hunits⟩ := State.takeRequest_armed (r := .read r) hroom hrc hr
    rw [State.armWatch_read hru] at hafter hunits
    exact ⟨_, issued, exec_carriesRead hcmd s, hafter.trans (State.setRun_of_placement hplacement none), hemitted, List.append_right_eq_self.mp hunits.symm⟩
  · obtain ⟨u, issued, hplacement, hunit, hru, hissued, hafter, hunits⟩ := State.takeRequest_armed (r := .write w) hroom hw hr
    refine ⟨_, issued, exec_carriesWrite hcmd s, hissued, fun hattempts => ?_, fun hshape => ?_, fun hlen hen => ⟨fun k hk haddr hcount hlast => ?_,
      fun k hk haddr hcount hlast => ⟨fun hst => ?_, fun hst => ?_⟩, fun hother => ⟨fun hone => ?_, fun hone => ?_⟩⟩⟩
    · rw [hafter, ← hplacement] at hattempts
      exact List.append_right_eq_self.mp (hunits.symm.trans (State.armWatch_quiet hattempts))
    · rw [hafter, State.armWatch_unshaped hru hshape]
      exact State.setRun_of_placement hplacement none
    all_goals
      have hshape := (armingShape_iff w).mpr ⟨hlen, hen⟩
      rw [← hplacement] at *
    · rw [hafter, State.armWatch_next hru hshape hk haddr hcount (by omega)]
      rfl
    · rw [State.armWatch_eighth hru hshape hk haddr (by omega) (by omega)] at hafter hunits
      obtain ⟨hdone, hread⟩ := State.completeArming_unplaced hst w.addr
      rw [haddr] at hafter hdone hread hunits
      exact ⟨hafter.trans hdone, List.append_cancel_left (hunits.symm.trans hread)⟩
    · rw [State.armWatch_eighth hru hshape hk haddr (by omega) (by omega)] at hafter hunits
      obtain ⟨hdone, hwritten⟩ := State.completeArming_placed hst w.addr
      rw [haddr] at hafter hdone hwritten hunits
      rw [hafter.trans hdone, ← hunit]
      exact ⟨rfl, List.append_cancel_left (hunits.symm.trans hwritten)⟩
    · rw [hafter, State.armWatch_other hru hshape hother, State.startRun, if_pos hone]
      rfl
    · rw [hafter, State.armWatch_other hru hshape hother, State.startRun, if_neg hone]
      rfl

end Sys2Proof.Machine

/-! Proofs: the host's index words are taken or booked (R148, R163, R164; O48). -/

namespace Sys2Proof.Machine

open Sys2Proof.Safety

set_option Elab.async false

/-! ### The word that a write writes (R148) -/

theorem wordWritten_eq_some_iff {w : WriteReq} {kept : List Bool} {a : Addr} {v : BitVec 32} {i : Nat} (hi : i < 4294967296) (ha : addrAt w.addr i = a.toNat) :
    wordWritten w kept a = some v ↔ (∀ k, k < 4 → kept[i + k]? = some true) ∧ v.toNat = leAt w.data i 4 := by
  have hoff : (a - w.addr).toNat = i := by
    rw [BitVec.toNat_sub, ← ha]
    unfold addrAt
    have := w.addr.isLt
    omega
  have hall : (List.range 4).all (fun k => kept.getD (i + k) false) = true ↔ ∀ k, k < 4 → kept[i + k]? = some true := by
    simp only [List.all_eq_true, List.mem_range, List.getD_eq_getElem?_getD]
    refine forall₂_congr fun k _ => ?_
    cases kept[i + k]? <;> simp
  unfold wordWritten
  simp only [hoff]
  split
  · rename_i h
    rw [Option.some.injEq, ← le32_toNat]
    exact ⟨fun hv => ⟨hall.mp h, hv ▸ rfl⟩, fun hv => BitVec.eq_of_toNat_eq hv.2.symm⟩
  · rename_i h
    exact iff_of_false nofun (fun hv => h (hall.mpr hv.1))

/-! ### What a unit makes of its word (R163, R164) -/

section
variable {s : State} {v : BitVec 32} {vw : RingView}

theorem State.setOrderProducer_bad (hview : s.orders.view = some vw) (h : vw.cap ≤ v.toNat) : s.setOrderProducer v = s.book .indexBad (.index v .orderProducer) := by
  unfold State.setOrderProducer
  rw [hview]
  exact if_pos h

/-- The order unit has the producer word's value. -/
def State.producerSet (s : State) (vw : RingView) (n : Nat) : State := { s with orders := { s.orders with view := some { vw with prod := n } } }

theorem State.setOrderProducer_taken (hview : s.orders.view = some vw) (h : v.toNat < vw.cap) : s.setOrderProducer v =
    if s.orders.st = .waitingRoom ∧ v.toNat = vw.cons then { s with orders := { st := .idle, view := some { vw with prod := v.toNat } } }
    else (s.producerSet vw v.toNat).wake := by
  have hempty : RingView.hasWaiting { vw with prod := v.toNat } = false ↔ v.toNat = vw.cons := bne_eq_false_iff_eq
  unfold State.setOrderProducer
  rw [hview]
  refine (if_neg (Nat.not_le.mpr h)).trans ?_
  by_cases hdone : s.orders.st = .waitingRoom ∧ v.toNat = vw.cons
  · exact (if_pos (hdone.imp_right hempty.mpr)).trans (if_pos hdone).symm
  · exact (if_neg (mt (And.imp_right hempty.mp) hdone)).trans (if_neg hdone).symm

theorem State.setReportConsumer_bad (hview : s.reports.view = some vw) (h : vw.cap ≤ v.toNat) : s.setReportConsumer v = s.book .indexBad (.index v .reportConsumer) := by
  unfold State.setReportConsumer
  rw [hview]
  exact if_pos h

theorem State.setReportConsumer_taken (hview : s.reports.view = some vw) (h : v.toNat < vw.cap) :
    s.setReportConsumer v = { s with reports := { s.reports with view := some { vw with cons := v.toNat } } } := by
  unfold State.setReportConsumer
  rw [hview]
  exact if_neg (Nat.not_le.mpr h)

theorem State.setReportConsumer_placed (s : State) (v : BitVec 32) : (s.setReportConsumer v).reports.placed = s.reports.placed := by
  unfold State.setReportConsumer
  split
  · split <;> rfl
  · rfl

theorem State.wake_view (s : State) : s.wake.orders.view = s.orders.view := by
  unfold State.wake
  split
  · split <;> rfl
  · rfl

/-- How the order unit moves when it takes a producer value in range (R164). -/
theorem State.setOrderProducer_moves (hview : s.orders.view = some vw) (h : v.toNat < vw.cap) : (s.setOrderProducer v).orders.view = some { vw with prod := v.toNat } ∧
    (s.orders.st = .waitingRoom → v.toNat = vw.cons → (s.setOrderProducer v).orders.st = .idle) ∧
    (s.orders.st ≠ .idle → s.orders.st ≠ .waitingRoom ∨ v.toNat ≠ vw.cons → (s.setOrderProducer v).orders.st = s.orders.st) ∧
    (s.orders.st = .idle → v.toNat ≠ vw.cons → s.placement.st = .placed → s.restoring = false → (s.setOrderProducer v).orders.st = .waitingRoom) ∧
    (s.orders.st = .idle → v.toNat = vw.cons ∨ s.restoring = true → (s.setOrderProducer v).orders.st = .idle) := by
  rw [State.setOrderProducer_taken hview h]
  refine ⟨?_, fun hst hcons => by rw [if_pos ⟨hst, hcons⟩], fun hidle hnot => ?_, fun hst hcons hplaced hr => ?_, fun hst hquiet => ?_⟩
  · split
    · rfl
    · exact State.wake_view _
  · rw [if_neg (fun hdone => hnot.elim (fun h => h hdone.1) (fun h => h hdone.2)), State.wake_of_notIdle (s := s.producerSet vw v.toNat) hidle]
    rfl
  · rw [if_neg (by simp [hst]), State.wake_waiting (s := s.producerSet vw v.toNat) hst rfl hplaced hcons hr]
  · rw [if_neg (by simp [hst])]
    rcases hquiet with hcons | hr
    · have hnot : ¬ orderWaits (s.producerSet vw v.toNat) := by
        rintro ⟨x, -, hx, -, hne⟩
        obtain rfl := Option.some.inj hx
        exact hne hcons
      rw [State.wake_quiet hnot]
      exact hst
    · rw [State.wake_of_restoring (s := s.producerSet vw v.toNat) hr]
      exact hst

end

/-! ### The notices (R148) -/

/-- A write writes no word of the order ring's producer. -/
def noOrderWord (s : State) (w : WriteReq) (kept : List Bool) : Prop :=
  ∀ g, s.path.regions.find? (fun r => r.kind == .orderRing) = some g → wordWritten w kept g.base = none

/-- A write writes no word of the report ring's consumer. -/
def noReportWord (s : State) (w : WriteReq) (kept : List Bool) : Prop :=
  ∀ g, s.path.regions.find? (fun r => r.kind == .reportRing) = some g → wordWritten w kept (g.base + 64) = none

section
variable {s : State} {w : WriteReq} {kept : List Bool}

theorem State.noticeOrder_none (h : noOrderWord s w kept) : s.noticeOrder w kept = s := by
  unfold State.noticeOrder
  split
  · rw [h _ ‹_›]
  · rfl

theorem State.noticeOrder_word {g : Region} {v : BitVec 32} (hg : s.path.regions.find? (fun r => r.kind == .orderRing) = some g) (hv : wordWritten w kept g.base = some v) :
    s.noticeOrder w kept = s.setOrderProducer v := by
  unfold State.noticeOrder
  simp only [hg, hv]

theorem State.noticeReport_none (h : noReportWord s w kept) : s.noticeReport w kept = s := by
  unfold State.noticeReport
  split
  · rw [h _ ‹_›]
  · rfl

theorem State.noticeReport_word {g : Region} {v : BitVec 32} (hg : s.path.regions.find? (fun r => r.kind == .reportRing) = some g)
    (hv : wordWritten w kept (g.base + 64) = some v) : s.noticeReport w kept = s.setReportConsumer v := by
  unfold State.noticeReport
  simp only [hg, hv]

end

/-! ### The step of a write, as the order unit and the report writer see it -/

/-- The state in which a write's cell has been handed over and its index words are handed on. -/
def State.writeHanded (c : Cls) (w : WriteReq) (s : State) : State :=
  State.handOverWrite (wholeCellSlot s.path.regions w.addr (keptEnables s.path.regions c w)) w.data
    (s.trackWrite (touchedSlots s.path.regions w.addr (keptEnables s.path.regions c w)) (wholeCellSlot s.path.regions w.addr (keptEnables s.path.regions c w)) w.data)

theorem State.writeHanded_framed (s : State) (c : Cls) (w : WriteReq) : framed [.slots, .path, .engine, .keys, .conds] s (s.writeHanded c w) :=
  (s.trackWrite_framed _ _ w.data).andThen (State.handOverWrite_framed _ _ w.data)

theorem State.writeHanded_regions (s : State) (c : Cls) (w : WriteReq) : (s.writeHanded c w).path.regions = s.path.regions := by
  have htracked := (State.handOverWrite_framed (s.trackWrite (touchedSlots s.path.regions w.addr (keptEnables s.path.regions c w))
    (wholeCellSlot s.path.regions w.addr (keptEnables s.path.regions c w)) w.data) (wholeCellSlot s.path.regions w.addr (keptEnables s.path.regions c w)) w.data).path
  exact (congrArg MemoryPath.regions htracked).trans rfl

theorem State.writeHanded_conds (s : State) (c : Cls) (w : WriteReq) : condsOnly [.cellDrop, .badCell] s (s.writeHanded c w) := by
  unfold State.writeHanded State.handOverWrite
  split
  · exact State.handOver_conds (s.trackWrite _ _ w.data) w.data
  · exact condsOnly_of_eq rfl

/-- Order unit, report writer and INDEX_BAD after a write's step are as the notices leave them. -/
theorem State.takeRequest_noticed {s : State} {w : WriteReq} {c : Cls} (hc : handled w.cls = c) (hroom : roomFor c s) :
    (s.takeRequest (.write w)).orders = ((s.writeHanded c w).notices c w (keptEnables s.path.regions c w)).orders ∧
      (s.takeRequest (.write w)).reports = ((s.writeHanded c w).notices c w (keptEnables s.path.regions c w)).reports ∧
      (s.takeRequest (.write w)).conds.indexBad = ((s.writeHanded c w).notices c w (keptEnables s.path.regions c w)).conds.indexBad := by
  subst hc
  have hshown := State.takeRequest_write_shown hroom
  have hshield := State.bookShield_changesOnly ((s.writeHanded (handled w.cls) w).notices (handled w.cls) w (keptEnables s.path.regions (handled w.cls) w))
    (handled w.cls) (lostAddrs s.path.regions (handled w.cls) w)
  refine ⟨hshown.orders.trans (hshield .orders (by simp)), hshown.reports.trans (hshield .reports (by simp)), (congrArg Conditions.indexBad hshown.conds).trans ?_⟩
  show (State.bookShield _ _ _).conds.get .indexBad = _
  unfold State.bookShield
  split
  · split
    · exact (State.book_spec _ _ _).2.2 .indexBad (by simp)
    · rfl
  · rfl

theorem handled_eq_cpu (c : Cls) : handled c = .cpu ↔ c = .cpu := by cases c <;> simp [handled]

section
variable {s : State} {w : WriteReq} {kept : List Bool}

theorem State.notices_other {c : Cls} (hc : c ≠ .cpu) : s.notices c w kept = s := if_neg hc

theorem State.notices_orders : (s.notices .cpu w kept).orders = (s.noticeOrder w kept).orders := State.noticeReport_changesOnly _ w kept .orders (by simp)

theorem State.notices_reports (h : noReportWord s w kept) : (s.notices .cpu w kept).reports = s.reports := by
  have horder := s.noticeOrder_changesOnly w kept
  have hsame : noReportWord (s.noticeOrder w kept) w kept := by
    unfold noReportWord
    rw [horder .path (by simp)]
    exact h
  exact (congrArg State.reports (State.noticeReport_none hsame)).trans (horder .reports (by simp))

theorem State.notices_noReportWord (h : noReportWord s w kept) : s.notices .cpu w kept = s.noticeOrder w kept := by
  have hsame : noReportWord (s.noticeOrder w kept) w kept := by
    unfold noReportWord
    rw [s.noticeOrder_changesOnly w kept .path (by simp)]
    exact h
  exact State.noticeReport_none hsame

theorem State.notices_reportWord {g : Region} {v : BitVec 32} (hg : s.path.regions.find? (fun r => r.kind == .reportRing) = some g)
    (hv : wordWritten w kept (g.base + 64) = some v) : s.notices .cpu w kept = (s.noticeOrder w kept).setReportConsumer v :=
  State.noticeReport_word (by rw [s.noticeOrder_changesOnly w kept .path (by simp)]; exact hg) hv

end

/-- What the hand-over of a write's cell leaves for the notices: both units, the map and INDEX_BAD. -/
theorem State.writeHanded_stands (s : State) (c : Cls) (w : WriteReq) : (s.writeHanded c w).orders = s.orders ∧ (s.writeHanded c w).reports = s.reports ∧
    (s.writeHanded c w).path.regions = s.path.regions ∧ (s.writeHanded c w).conds.indexBad = s.conds.indexBad ∧ (s.writeHanded c w).placement = s.placement ∧
    (s.writeHanded c w).restoring = s.restoring := by
  have hframe := s.writeHanded_framed c w
  exact ⟨hframe.orders, hframe.reports, s.writeHanded_regions c w, s.writeHanded_conds c w .indexBad (by simp), hframe.placement, State.restoring_of_storeSt hframe.storeSt⟩

theorem noOrderWord_of_regions {s u : State} {w : WriteReq} {kept : List Bool} (hu : u.path.regions = s.path.regions) (h : noOrderWord s w kept) : noOrderWord u w kept := by
  unfold noOrderWord
  rw [hu]
  exact h

theorem noReportWord_of_regions {s u : State} {w : WriteReq} {kept : List Bool} (hu : u.path.regions = s.path.regions) (h : noReportWord s w kept) : noReportWord u w kept := by
  unfold noReportWord
  rw [hu]
  exact h

/-- A write that is no CPU write, or that writes no word of a unit whole, is not handed on to it (R148). -/
theorem State.takeRequest_unnoticed {s : State} {w : WriteReq} (hroom : roomFor (handled w.cls) s) :
    (w.cls ≠ .cpu ∨ noOrderWord s w (keptEnables s.path.regions (handled w.cls) w) → (s.takeRequest (.write w)).orders = s.orders) ∧
      (w.cls ≠ .cpu ∨ noReportWord s w (keptEnables s.path.regions (handled w.cls) w) → (s.takeRequest (.write w)).reports = s.reports) ∧
      (w.cls ≠ .cpu ∨ (noOrderWord s w (keptEnables s.path.regions (handled w.cls) w) ∧ noReportWord s w (keptEnables s.path.regions (handled w.cls) w)) →
        (s.takeRequest (.write w)).conds.indexBad = s.conds.indexBad) := by
  have hcpu := handled_eq_cpu w.cls
  obtain ⟨horders, hreports, hbad⟩ := State.takeRequest_noticed rfl hroom
  generalize handled w.cls = c at *
  obtain ⟨hko, hkr, hregions, hkb, -⟩ := s.writeHanded_stands c w
  generalize s.writeHanded c w = u at *
  rw [horders, hreports, hbad]
  by_cases hc : c = .cpu
  · subst hc
    have hw : w.cls = .cpu := hcpu.mp rfl
    refine ⟨fun h => ?_, fun h => ?_, fun h => ?_⟩
    · rw [State.notices_orders, State.noticeOrder_none (noOrderWord_of_regions hregions (h.resolve_left (Classical.not_not.mpr hw))), hko]
    · rw [State.notices_reports (noReportWord_of_regions hregions (h.resolve_left (Classical.not_not.mpr hw))), hkr]
    · obtain ⟨ho, hr⟩ := h.resolve_left (Classical.not_not.mpr hw)
      rw [State.notices_noReportWord (noReportWord_of_regions hregions hr), State.noticeOrder_none (noOrderWord_of_regions hregions ho), hkb]
  · rw [State.notices_other hc]
    exact ⟨fun _ => hko, fun _ => hkr, fun _ => hkb⟩

/-- Settles O48: the step of the write leaves order unit, report writer and INDEX_BAD as the notices do, and those are the producer or consumer word taken or booked. -/
theorem hostIndexWordsAreTaken : Obligations.HostIndexWordsAreTaken := by
  refine ⟨fun w kept a v i => wordWritten_eq_some_iff, fun s w cmd hcmd hroom => ?_, fun s w g v vw cmd hcmd hw hroom => ?_⟩
  · obtain ⟨horders, hreports, hbad⟩ := State.takeRequest_unnoticed hroom
    exact ⟨_, exec_carriesWrite hcmd s, horders, hreports,
      fun h => hbad (h.imp_right fun hnone => ⟨fun g => (hnone g).1, fun g => (hnone g).2⟩)⟩
  obtain ⟨horders, hreports, hbad⟩ := State.takeRequest_noticed (by rw [hw]; rfl) hroom
  obtain ⟨hko, hkr, hregions, hkb, hplacement, hrestoring⟩ := s.writeHanded_stands .cpu w
  generalize s.writeHanded .cpu w = u at *
  refine ⟨fun hg hview hword => ⟨_, exec_carriesWrite hcmd s, fun hcap hnone => ?_, fun hlt => ?_⟩,
    fun hg hview hword => ⟨_, exec_carriesWrite hcmd s, ?_, fun hcap hnone => ?_, fun hlt => ?_⟩⟩
  all_goals rw [← hregions] at hg
  · rw [horders, hbad, State.notices_noReportWord (noReportWord_of_regions hregions hnone), State.noticeOrder_word hg hword,
      State.setOrderProducer_bad (hko.symm ▸ hview) hcap, ← hko, ← hkb]
    exact ⟨rfl, rfl⟩
  · rw [horders, State.notices_orders, State.noticeOrder_word hg hword]
    have hmoves := State.setOrderProducer_moves (s := u) (hko.symm ▸ hview) hlt
    rw [hko, hplacement, hrestoring] at hmoves
    obtain ⟨hnew, hempty, hstays, hwakes, hrests⟩ := hmoves
    refine ⟨hnew, hempty, fun hst hne => (hstays (by simp [hst]) (.inr hne)).trans hst, hwakes, hrests, fun sl an hst => hstays (by simp [hst]) (.inl (by simp [hst])),
      fun rs hst => hstays (by simp [hst]) (.inl (by simp [hst]))⟩
  · rw [hreports, State.notices_reportWord hg hword, State.setReportConsumer_placed, u.noticeOrder_changesOnly w _ .reports (by simp), hkr]
  · have hview' : (u.noticeOrder w (keptEnables s.path.regions .cpu w)).reports.view = some vw := by
      rw [u.noticeOrder_changesOnly w _ .reports (by simp), hkr, hview]
    rw [hreports, hbad, State.notices_reportWord hg hword, State.setReportConsumer_bad hview' hcap,
      State.noticeOrder_none (noOrderWord_of_regions hregions hnone), ← hkb]
    exact ⟨(congrArg ReportWriter.view hkr).trans hview, rfl⟩
  · have hview' : (u.noticeOrder w (keptEnables s.path.regions .cpu w)).reports.view = some vw := by
      rw [u.noticeOrder_changesOnly w _ .reports (by simp), hkr, hview]
    rw [hreports, State.notices_reportWord hg hword, State.setReportConsumer_taken hview' hlt]

end Sys2Proof.Machine

/-! Proofs: CANCEL and BUY_FIXTURE are refused in their order or take effect (R92, R93, R96, R98; O54, O52). -/

namespace Sys2Proof.Machine

open Sys2Proof.Safety

set_option Elab.async false

/-! ### An order that is taken (R165) -/

theorem State.takeOrder_ready {s : State} {k need slot : Nat} {a : Answer} (h : orderReady s k need slot a) (f : Nat → Answer → State → List Report × State) :
    s.takeOrder (isOrder k) need f = { (f slot a s).2 with orders := { (f slot a s).2.orders with st := .replying (f slot a s).1 } } := by
  obtain ⟨hst, herr, hkind, hroom⟩ := h
  unfold State.takeOrder
  rw [hst]
  exact if_pos ⟨by rw [isOrder, herr, hkind]; simp, hroom⟩

theorem orderReady_kind {s : State} {k need slot : Nat} {a : Answer} (h : orderReady s k need slot a) (hk : k < 256) : orderKind a.data = BitVec.ofNat 8 k :=
  (toNat_eq_iff_ofNat hk).mp h.2.2.1

/-! ### Dirty marks of a purchase or a refund (R87, R108) -/

theorem State.entered_dirtied (s : State) (p : Purse) (kind : LogKind) (ident : BitVec 16) (amount : Credit) :
    dirtied true true false s (State.addEntry kind ident amount (s.setPurse p)) := by
  simp [dirtied, State.addEntry, State.setPurse, State.markS0, State.markS1]

theorem sectionSet_all {x : SectionSet} (h0 : x.s0 = true) (h1 : x.s1 = true) (h2 : x.s2 = true) : x = ⟨true, true, true⟩ := by
  obtain ⟨a, b, c⟩ := x
  cases h0
  cases h1
  cases h2
  rfl

/-- A step that enters the log and then changes what S2 keeps marks all three sections. -/
theorem dirtied_all {s u t : State} (h : dirtied true true false s u) (hmarks : marksFollow u t) (hkeeps : keepsChanged u t) : dirtied true true true s t := by
  obtain ⟨hstore, h0, h1, h2⟩ := hmarks
  have hu0 : u.store.dirty.s0 = true := by rw [h]; simp
  have hu1 : u.store.dirty.s1 = true := by rw [h]; simp
  unfold dirtied
  rw [hstore, sectionSet_all (h0.mpr (.inl hu0)) (h1.mpr (.inl hu1)) (h2.mpr (.inr hkeeps)), h]
  simp

/-- A table update that changes what is kept of the entry it finds changes what is kept of the table. -/
theorem tableUpdate_kept {α β : Type} {t : List (Option α)} {p : α → Bool} {f : α → α} {kept : Option α → β} {e : α} (he : tableFind t p = some e)
    (hkept : kept (some (f e)) ≠ kept (some e)) : (tableUpdate t p (fun x => some (f x))).map kept ≠ t.map kept := by
  obtain ⟨hmem, hp⟩ := tableFind_some he
  unfold tableUpdate
  rw [List.map_map]
  intro hsame
  refine hkept (Eq.trans ?_ (List.map_inj_left.mp hsame (some e) hmem))
  exact congrArg kept (if_pos hp).symm

theorem keepsChanged_updateFixture {s : State} {t : Tag} {e : FixtureEntry} (he : s.fixture t = some e) {f : FixtureEntry → FixtureEntry}
    (hkept : keptFixture (some (f e)) ≠ keptFixture (some e)) : keepsChanged s (s.updateFixture t f) := .inl (tableUpdate_kept he hkept)

section
variable {s : State} {e : FixtureEntry} {sch : Schedule} {ph : Phase} {t : Tag}

/-! ### CANCEL (R96, R98) -/

theorem State.cancelCheck_unknown (h : ∀ e, s.fixture t = some e → e.standing = .awaiting) : s.cancelCheck t = .unknownFixture := by
  unfold State.cancelCheck
  cases he : s.fixture t with
  | none => rfl
  | some e => simp only [h e he]

theorem State.cancelCheck_scheduled (he : s.fixture t = some e) (hst : e.standing = .scheduled sch ph) :
    s.cancelCheck t = if s.notCancellable e sch then .notCancellable else if s.logFull then .logFull else .accepted := by
  unfold State.cancelCheck
  simp only [he, hst]

theorem State.now_running (h : s.clock.running = true) : s.now = s.clock.value := if_pos h

theorem State.notCancellable_of (h : (∀ paid, e.kind ≠ .impulse paid) ∨ s.clock.running = false ∨ sch.kickOff.toNat ≤ s.clock.value.toNat ∨ e.viewed = true) :
    s.notCancellable e sch = true := by
  unfold State.notCancellable
  cases hrun : s.clock.running with
  | false => simp
  | true =>
    rw [State.now_running hrun]
    rcases h with hkind | hunset | hlate | hviewed
    · split
      · exact absurd ‹_› (hkind _)
      · rfl
    · exact absurd hunset (by simp [hrun])
    · simp [hlate]
    · simp [hviewed]

theorem State.cancellable {paid : Credit} (hkind : e.kind = .impulse paid) (hrun : s.clock.running = true) (hearly : s.clock.value.toNat < sch.kickOff.toNat)
    (hviewed : e.viewed = false) : s.notCancellable e sch = false := by
  unfold State.notCancellable
  rw [hkind, hrun, hviewed, State.now_running hrun, decide_eq_false (Nat.not_le.mpr hearly)]
  rfl

theorem FixtureEntry.paid_impulse {paid : Credit} (h : e.kind = .impulse paid) : e.paid = paid := by
  unfold FixtureEntry.paid
  rw [h]

/-- What an accepted CANCEL leaves (R98). -/
theorem State.cancelFixture_spec {paid : Credit} (he : s.fixture t = some e) (hkind : e.kind = .impulse paid) :
    changesOnly [.purse, .log, .fixtures, .conds, .store] s (s.cancelFixture t) ∧ (s.cancelFixture t).fixture t = some { e with kind := .none, viewed := false } ∧
      (∀ u, u ≠ t → (s.cancelFixture t).fixture u = s.fixture u) ∧ (s.cancelFixture t).purse = (s.refund .viewer t paid).purse ∧
      (s.cancelFixture t).log = (s.refund .viewer t paid).log ∧ condsOnly [.logNearlyFull] s (s.cancelFixture t) ∧
      (s.cancelFixture t).conds.logNearlyFull = nearlyFullAfter (s.log.entries.length + 1) s.conds.logNearlyFull ∧ dirtied true true true s (s.cancelFixture t) := by
  have hcancel : s.cancelFixture t = State.bookNearlyFull ((s.refund .viewer t paid).updateFixture t (fun e => { e with kind := .none, viewed := false })) := by
    unfold State.cancelFixture
    simp only [he, FixtureEntry.paid_impulse hkind]
  obtain ⟨hsame, hother⟩ := (s.refund .viewer t paid).updateFixture_spec t (fun e => { e with kind := .none, viewed := false }) (fun _ => rfl)
  have hdirty : dirtied true true true s ((s.refund .viewer t paid).updateFixture t (fun e => { e with kind := .none, viewed := false })) := by
    refine dirtied_all (s.refund_dirtied .viewer t paid) (State.updateFixture_marksFollow _ _ _) (keepsChanged_updateFixture (e := e) he ?_)
    simp [keptFixture, hkind]
  have hframe : changesOnly [.purse, .log, .fixtures, .conds, .store] s ((s.refund .viewer t paid).updateFixture t (fun e => { e with kind := .none, viewed := false })) :=
    changesOnly_trans (changesOnly_mono (s.refund_frame .viewer t paid) (by simp)) (changesOnly_mono (State.updateFixture_frame _ _ _) (by simp))
  rw [hcancel]
  generalize hu : (s.refund .viewer t paid).updateFixture t (fun e => { e with kind := .none, viewed := false }) = u at *
  obtain ⟨honly, hbook⟩ := u.bookNearlyFull_conds
  have hbooked := u.bookNearlyFull_frame
  have hconds : u.conds = s.conds := by rw [← hu]; rfl
  have hlog : u.log = (s.refund .viewer t paid).log := by rw [← hu]; rfl
  have hcount : u.logCount = s.log.entries.length + 1 := by rw [State.logCount, hlog]; simp
  have hlook := State.fixture_of_same (hbooked .fixtures (by simp))
  refine ⟨changesOnly_trans hframe (changesOnly_mono hbooked (by simp)), (hlook t).trans (hsame.trans ?_), fun v hv => (hlook v).trans (hother v hv), ?_,
    (hbooked .log (by simp)).trans hlog, condsOnly_trans (condsOnly_of_eq hconds) honly, by rw [hbook, hcount, hconds], ?_⟩
  · have hfix : (s.refund .viewer t paid).fixture t = s.fixture t := rfl
    rw [hfix, he]
    rfl
  · rw [hbooked .purse (by simp), ← hu]
    rfl
  · have hstore : u.bookNearlyFull.store = u.store := hbooked .store (by simp)
    unfold dirtied
    rw [hstore]
    exact hdirty

theorem State.answerCancel_accepted {slot : Nat} {a : Answer} (h : s.cancelCheck (orderTag a.data) = .accepted) : s.answerCancel slot a =
    ([replyTo slot a.data .accepted (.cancel s.log.next (s.cancelFixture (orderTag a.data)).purse.balance)], s.cancelFixture (orderTag a.data)) := if_pos h

theorem State.answerCancel_refused {slot : Nat} {a : Answer} (h : s.cancelCheck (orderTag a.data) ≠ .accepted) :
    s.answerCancel slot a = ([replyTo slot a.data (s.cancelCheck (orderTag a.data)) (.cancel 0 s.purse.balance)], s) := if_neg h

end

/-- A state that an order leaves, once the order unit is REPLYING. -/
theorem changesOnly_replying {s c : State} {bs : List Block} (h : changesOnly bs s c) (o : OrderUnit) : changesOnly (.orders :: bs) s { c with orders := o } := by
  refine changesOnly_trans (changesOnly_mono h fun b => List.mem_cons_of_mem _) (t := c) ?_
  intro b hb; cases b <;> first | rfl | simp at hb

/-- Settles O54: the checks of R96 in their order; an accepted order is a refund and the loss of the entitlement. -/
theorem cancelRefusesOrRefunds : Obligations.CancelRefusesOrRefunds := by
  intro s slot a hready
  have hexec := congrArg (fun t => (Host.Outcome.next t : Host.Outcome State Fault Refusal)) (State.takeOrder_ready hready State.answerCancel)
  have hkind := orderReady_kind hready (by decide)
  by_cases hacc : s.cancelCheck (orderTag a.data) = .accepted
  · obtain ⟨e, sch, ph, he, hst, hcancellable, hroom⟩ := State.cancelCheck_accepted hacc
    have hpaid : ∃ paid, e.kind = .impulse paid := by
      refine Classical.byContradiction fun hnone => ?_
      rw [State.notCancellable_of (.inl (not_exists.mp hnone))] at hcancellable
      cases hcancellable
    obtain ⟨paid, hpaid⟩ := hpaid
    obtain ⟨hframe, hthis, hothers, hpurse, hlog, hconds, hnearly, hdirty⟩ := State.cancelFixture_spec he hpaid
    rw [State.answerCancel_accepted hacc, replyTo, hkind, hframe .orders (by simp)] at hexec
    refine ⟨_, .accepted, s.log.next, hexec, rfl, fun h => absurd rfl h, fun hunknown => ?_, fun e' sch' ph' he' hst' => ?_⟩
    · exact absurd ((hunknown e he).symm.trans hst) nofun
    · obtain rfl := Option.some.inj (he.symm.trans he')
      cases hst.symm.trans hst'
      refine ⟨fun hnot => ?_, fun paid' hpaid' _ _ _ => ⟨fun hfull => ?_, fun _ => ⟨rfl, rfl, ?_⟩⟩⟩
      · exact absurd ((State.notCancellable_of hnot).symm.trans hcancellable) nofun
      · exact absurd ((State.logFull_iff _).mpr hfull) (by simp [hroom])
      · cases hpaid.symm.trans hpaid'
        exact ⟨changesOnly_mono (changesOnly_replying hframe _) (by simp), hthis, hothers, hpurse, hlog, hconds, hnearly, hdirty⟩
  · rw [State.answerCancel_refused hacc, replyTo, hkind] at hexec
    refine ⟨_, s.cancelCheck (orderTag a.data), 0, hexec, rfl, fun _ => ⟨rfl, rfl⟩, State.cancelCheck_unknown, fun e sch ph he hst =>
      ⟨fun hnot => ?_, fun paid hpaid hrun hearly hviewed => ⟨fun hfull => ?_, fun hroom => absurd ?_ hacc⟩⟩⟩
    all_goals rw [State.cancelCheck_scheduled he hst]
    · exact if_pos (State.notCancellable_of hnot)
    · rw [State.cancellable hpaid hrun hearly hviewed]
      exact if_pos ((State.logFull_iff _).mpr hfull)
    · rw [State.cancellable hpaid hrun hearly hviewed]
      exact if_neg (fun hfull => absurd ((State.logFull_iff _).mp hfull) (Nat.not_le.mpr hroom))

end Sys2Proof.Machine

/-! Proofs: the purchases (R92 to R95, Tables 5-3 and 5-4; O52, O53). -/

namespace Sys2Proof.Machine

open Sys2Proof.Safety

set_option Elab.async false

/-! ### The tables of refusals -/

theorem ite_logFull {α : Type} (s : State) (x y : α) : (if s.logFull then x else y) = if 64 ≤ s.log.entries.length then x else y := by
  by_cases h : 64 ≤ s.log.entries.length
  · rw [if_pos h, if_pos ((State.logFull_iff s).mpr h)]
  · rw [if_neg h, if_neg (mt (State.logFull_iff s).mp h)]

theorem State.fundsCheck_eq (s : State) (price : Nat) : s.fundsCheck price = fundsOutcome s price := ite_logFull s _ _

theorem ite_blackedOut {α : Type} (z : Zone) (sch : Schedule) (x y : α) : (if blackedOut z sch then x else y) = if z ≠ 0 ∧ z ∈ sch.blackout then x else y := by
  by_cases h : z ≠ 0 ∧ z ∈ sch.blackout
  · rw [if_pos h, if_pos ((blackedOut_iff z sch).mpr h)]
  · rw [if_neg h, if_neg (mt (blackedOut_iff z sch).mp h)]

theorem priceDiffers_some (p : Credit) (price : Nat) : priceDiffers (some p) price = decide (p.toNat ≠ price) := by
  rw [Bool.eq_iff_iff, decide_eq_true_iff]
  exact bne_iff_ne

section
variable {s : State} {stated : Option Credit}

theorem State.buyScheduled_eq (e : FixtureEntry) (sch : Schedule) (ph : Phase) :
    s.buyScheduled e sch ph stated = table53 s e sch ph (fixturePrice sch s.now) (priceDiffers stated (fixturePrice sch s.now)) := by
  unfold State.buyScheduled table53
  rw [ite_blackedOut, State.fundsCheck_eq]

theorem State.buyCheck_unset (h : s.clock.running = false) (t : Tag) : s.buyCheck t stated = (.noTime, 0) := if_pos h

theorem State.buyCheck_unknown {t : Tag} (hrun : s.clock.running = true) (h : ∀ e, s.fixture t = some e → e.standing = .awaiting) :
    s.buyCheck t stated = (.unknownFixture, 0) := by
  unfold State.buyCheck
  rw [if_neg (by simp [hrun])]
  cases he : s.fixture t with
  | none => rfl
  | some e => simp only [h e he]

theorem State.buyCheck_scheduled {t : Tag} {e : FixtureEntry} {sch : Schedule} {ph : Phase} (hrun : s.clock.running = true) (he : s.fixture t = some e)
    (hst : e.standing = .scheduled sch ph) :
    s.buyCheck t stated = (table53 s e sch ph (fixturePrice sch s.now) (priceDiffers stated (fixturePrice sch s.now)), fixturePrice sch s.now) := by
  unfold State.buyCheck
  rw [if_neg (by simp [hrun])]
  simp only [he, hst, State.buyScheduled_eq]

theorem State.passPrice_eq (p : PassEntry) (sale : PassSale) : s.passPrice p sale = passCost s p sale := by
  have hpaid : s.paidOf = fun x => (paidFor s x).toNat := by
    funext x
    unfold State.paidOf paidFor
    cases s.fixture x with
    | none => rfl
    | some e =>
      obtain ⟨tag, standing, kind, viewed, remaining, delivered⟩ := e
      cases kind <;> rfl
  unfold State.passPrice passCost
  rw [hpaid]
  rfl

theorem State.passScheduled_eq (hrun : s.clock.running = true) (p : PassEntry) (sale : PassSale) :
    s.passScheduled p sale stated = table54 s p sale (passCost s p sale) (priceDiffers stated (passCost s p sale)) := by
  have howned : ∀ x y : OrderOutcome, (if p.owned then x else y) = if p.owner ≠ .none then x else y := fun x y => by
    by_cases h : p.owner = .none
    · rw [if_neg (by simp [PassEntry.owned, h]), if_neg (by simp [h])]
    · rw [if_pos (by simp [PassEntry.owned, h]), if_pos h]
  unfold State.passScheduled table54
  rw [State.now_running hrun, howned, State.fundsCheck_eq, State.passPrice_eq]

theorem State.passCheck_unset (h : s.clock.running = false) (id : PassId) : s.passCheck id stated = (.noTime, 0) := if_pos h

theorem State.passCheck_unknown {id : PassId} (hrun : s.clock.running = true) (h : ∀ p, s.pass id = some p → p.sale = none) :
    s.passCheck id stated = (.unknownPass, 0) := by
  unfold State.passCheck
  rw [if_neg (by simp [hrun])]
  cases hp : s.pass id with
  | none => rfl
  | some p => simp only [h p hp]

theorem State.passCheck_scheduled {id : PassId} {p : PassEntry} {sale : PassSale} (hrun : s.clock.running = true) (hp : s.pass id = some p) (hsale : p.sale = some sale) :
    s.passCheck id stated = (table54 s p sale (passCost s p sale) (priceDiffers stated (passCost s p sale)), passCost s p sale) := by
  unfold State.passCheck
  rw [if_neg (by simp [hrun])]
  simp only [hp, hsale, State.passScheduled_eq hrun, State.passPrice_eq]

end

/-! ### A debit (R93, R95) -/

/-- The state once a purchase has been debited and logged. -/
def State.purchased (s : State) (kind : LogKind) (ident : BitVec 16) (price : Nat) : State :=
  State.addEntry kind ident (BitVec.ofNat 16 price) (s.setPurse (s.purse.debited price))

theorem State.purchased_spec (s : State) (kind : LogKind) (ident : BitVec 16) (price : Nat) :
    changesOnly [.purse, .log, .store] s (s.purchased kind ident price) ∧ dirtied true true false s (s.purchased kind ident price) ∧
      (s.purchased kind ident price).purse = { s.purse with balance := s.purse.balance - (price : Int), spent := min (s.purse.spent + price) 16777215 } ∧
      (s.purchased kind ident price).log =
        { entries := s.log.entries ++ [newEntryOf s kind ident (BitVec.ofNat 16 price) (s.purse.balance - (price : Int))], next := s.log.next + 1 } := by
  refine ⟨?_, s.entered_dirtied _ kind ident _, rfl, rfl⟩
  intro b hb; cases b <;> first | rfl | simp at hb

/-- The end of an accepted purchase: LOG_NEARLY_FULL by the log's length, and every other condition as it stands. -/
theorem State.purchased_nearlyFull {s u : State} {kind : LogKind} {ident : BitVec 16} {price : Nat} (hlog : u.log = (s.purchased kind ident price).log)
    (hconds : u.conds.logNearlyFull = s.conds.logNearlyFull) :
    u.bookNearlyFull.conds.logNearlyFull = nearlyFullAfter (s.log.entries.length + 1) s.conds.logNearlyFull := by
  have hcount : u.logCount = s.log.entries.length + 1 := by
    rw [State.logCount, hlog, (s.purchased_spec kind ident price).2.2.2]
    simp
  rw [u.bookNearlyFull_conds.2, hcount, hconds]

/-- What an accepted BUY_FIXTURE leaves (R93). -/
theorem State.buyFixture_spec {s : State} {t : Tag} {e : FixtureEntry} (he : s.fixture t = some e) (hkind : e.kind = .none) (price : Nat) :
    changesOnly [.purse, .log, .fixtures, .conds, .store] s (s.buyFixture t price) ∧
      (s.buyFixture t price).purse = { s.purse with balance := s.purse.balance - (price : Int), spent := min (s.purse.spent + price) 16777215 } ∧
      (s.buyFixture t price).log =
        { entries := s.log.entries ++ [newEntryOf s .purchase t (BitVec.ofNat 16 price) (s.purse.balance - (price : Int))], next := s.log.next + 1 } ∧
      (s.buyFixture t price).fixture t = some { e with kind := .impulse (BitVec.ofNat 16 price) } ∧
      (∀ u, u ≠ t → (s.buyFixture t price).fixture u = s.fixture u) ∧ condsOnly [.logNearlyFull] s (s.buyFixture t price) ∧
      (s.buyFixture t price).conds.logNearlyFull = nearlyFullAfter (s.log.entries.length + 1) s.conds.logNearlyFull ∧ dirtied true true true s (s.buyFixture t price) := by
  obtain ⟨hpaid, hentered, hpurse, hlog⟩ := s.purchased_spec .purchase t price
  have hbuy : s.buyFixture t price =
      ((s.purchased .purchase t price).updateFixture t (fun e => { e with kind := .impulse (BitVec.ofNat 16 price) })).bookNearlyFull := rfl
  have hfix := State.fixture_of_same (hpaid .fixtures (by simp))
  obtain ⟨hsame, hother⟩ := (s.purchased .purchase t price).updateFixture_spec t (fun e => { e with kind := .impulse (BitVec.ofNat 16 price) }) (fun _ => rfl)
  have hframe := (s.purchased .purchase t price).updateFixture_frame t (fun e => { e with kind := .impulse (BitVec.ofNat 16 price) })
  have hdirty := dirtied_all hentered ((s.purchased .purchase t price).updateFixture_marksFollow t (fun e => { e with kind := .impulse (BitVec.ofNat 16 price) }))
    (keepsChanged_updateFixture ((hfix t).trans he) (by simp [keptFixture, hkind]))
  rw [hbuy]
  generalize (s.purchased .purchase t price).updateFixture t (fun e => { e with kind := .impulse (BitVec.ofNat 16 price) }) = u at hsame hother hframe hdirty ⊢
  have hbooked := u.bookNearlyFull_frame
  have hlook := State.fixture_of_same (hbooked .fixtures (by simp))
  have hconds : u.conds = s.conds := (hframe .conds (by simp)).trans (hpaid .conds (by simp))
  have hlogs := hframe .log (by simp)
  refine ⟨changesOnly_trans (changesOnly_mono hpaid (by simp)) (changesOnly_trans (changesOnly_mono hframe (by simp)) (changesOnly_mono hbooked (by simp))),
    (hbooked .purse (by simp)).trans ((hframe .purse (by simp)).trans hpurse), (hbooked .log (by simp)).trans (Eq.trans hlogs hlog), (hlook t).trans (hsame.trans ?_),
    fun v hv => (hlook v).trans ((hother v hv).trans (hfix v)), condsOnly_trans (condsOnly_of_eq hconds) u.bookNearlyFull_conds.1,
    State.purchased_nearlyFull hlogs (congrArg Conditions.logNearlyFull hconds), ?_⟩
  · rw [hfix t, he]
    rfl
  · have hstore : u.bookNearlyFull.store = u.store := hbooked .store (by simp)
    unfold dirtied
    rw [hstore]
    exact hdirty

/-- The order's part of Table 5-3, with the price that R92 computes: none for the first two checks. -/
theorem State.buyCheck_order (s : State) (t : Tag) (stated : Credit) :
    (s.clock.running = false → (s.buyCheck t (some stated)).1 = .noTime ∧ (s.buyCheck t (some stated)).2 = 0) ∧
      (s.clock.running = true → ((∀ e, s.fixture t = some e → e.standing = .awaiting) → (s.buyCheck t (some stated)).1 = .unknownFixture ∧ (s.buyCheck t (some stated)).2 = 0) ∧
        ∀ e sch ph, s.fixture t = some e → e.standing = .scheduled sch ph → (s.buyCheck t (some stated)).2 = fixturePrice sch s.clock.value ∧
          (s.buyCheck t (some stated)).1 = table53 s e sch ph (s.buyCheck t (some stated)).2 (decide (stated.toNat ≠ (s.buyCheck t (some stated)).2))) := by
  refine ⟨fun hunset => ?_, fun hrun => ⟨fun hunknown => ?_, fun e sch ph he hst => ?_⟩⟩
  · rw [State.buyCheck_unset hunset]
    exact ⟨rfl, rfl⟩
  · rw [State.buyCheck_unknown hrun hunknown]
    exact ⟨rfl, rfl⟩
  · rw [State.buyCheck_scheduled hrun he hst, State.now_running hrun, priceDiffers_some]
    exact ⟨rfl, rfl⟩

/-- Settles O52: the checks of Table 5-3 in their order; an accepted order is a debit, an entry and the entitlement. -/
theorem buyFixtureRefusesOrDebits : Obligations.BuyFixtureRefusesOrDebits := by
  intro s slot a hready
  have hexec := congrArg (fun t => (Host.Outcome.next t : Host.Outcome State Fault Refusal)) (State.takeOrder_ready hready State.answerBuyFixture)
  have hkind := orderReady_kind hready (by decide)
  obtain ⟨hunset, hrunning⟩ := s.buyCheck_order (orderTag a.data) (orderPrice a.data)
  by_cases hacc : (s.buyCheck (orderTag a.data) (some (orderPrice a.data))).1 = .accepted
  · obtain ⟨e, sch, ph, he, hst, -, hsched⟩ := State.buyCheck_accepted hacc
    obtain ⟨-, hnone, -⟩ := State.buyScheduled_accepted hsched
    obtain ⟨hframe, hspec⟩ := State.buyFixture_spec he hnone (s.buyCheck (orderTag a.data) (some (orderPrice a.data))).2
    have hanswer : s.answerBuyFixture slot a = _ := if_pos hacc
    rw [hanswer, replyTo, hkind, hframe .orders (by simp), ← hacc] at hexec
    refine ⟨_, _, _, _, hexec, rfl, fun h => absurd hacc h, hunset, fun hrun => ⟨(hrunning hrun).1, fun e' sch' ph' he' hst' => ?_⟩⟩
    obtain ⟨hprice, houtcome⟩ := (hrunning hrun).2 e' sch' ph' he' hst'
    obtain rfl := Option.some.inj (he.symm.trans he')
    exact ⟨hprice, houtcome, fun _ => ⟨changesOnly_mono (changesOnly_replying hframe _) (by simp), rfl, hspec⟩⟩
  · have hanswer : s.answerBuyFixture slot a = _ := if_neg hacc
    rw [hanswer, replyTo, hkind] at hexec
    refine ⟨_, _, _, _, hexec, rfl, fun _ => ⟨rfl, rfl⟩, hunset, fun hrun => ⟨(hrunning hrun).1, fun e sch ph he hst => ?_⟩⟩
    obtain ⟨hprice, houtcome⟩ := (hrunning hrun).2 e sch ph he hst
    exact ⟨hprice, houtcome, fun h => absurd h hacc⟩

end Sys2Proof.Machine

/-! Proofs: BUY_PASS is refused in its order or takes effect (R91, R94, R95; O53). -/

namespace Sys2Proof.Machine

open Sys2Proof.Safety

set_option Elab.async false

theorem propagationBooked_to_same {s t t' : State} {members : List Tag} (h : propagationBooked members s t)
    (hcond : t'.conds.entitlementChanged = t.conds.entitlementChanged) : propagationBooked members s t' := by
  unfold propagationBooked changedBooked at *
  rw [hcond]
  exact h

theorem dirtied_of_store {b0 b1 b2 : Bool} {s t t' : State} (h : dirtied b0 b1 b2 s t) (hstore : t'.store = t.store) : dirtied b0 b1 b2 s t' := by
  unfold dirtied at *
  rw [hstore]
  exact h

/-- What an accepted BUY_PASS leaves (R95). -/
structure passBought (s : State) (id : PassId) (p : PassEntry) (price : Nat) (t : State) : Prop where
  frame : changesOnly [.purse, .log, .fixtures, .passes, .conds, .store] s t
  purse : t.purse = { s.purse with balance := s.purse.balance - (price : Int), spent := min (s.purse.spent + price) 16777215 }
  log : t.log = { entries := s.log.entries ++ [newEntryOf s .passPurchase (id.setWidth 16) (BitVec.ofNat 16 price) (s.purse.balance - (price : Int))]
                  next := s.log.next + 1 }
  pass : t.pass id = some { p with owner := .bought (BitVec.ofNat 16 price) }
  others : ∀ id', id' ≠ id → t.pass id' = s.pass id'
  absent : ∀ u, s.fixture u = none → t.fixture u = none
  reached : ∀ u e, s.fixture u = some e → ∃ e', t.fixture u = some e' ∧ propagated id p.members e e'
  conds : condsOnly [.logNearlyFull, .entitlementChanged] s t
  booked : propagationBooked p.members s t
  nearlyFull : t.conds.logNearlyFull = nearlyFullAfter (s.log.entries.length + 1) s.conds.logNearlyFull
  marks : dirtied true true true s t

theorem State.buyPass_spec {s : State} {id : PassId} {p : PassEntry} (hp : s.pass id = some p) (howner : p.owner = .none) (price : Nat) :
    passBought s id p price (s.buyPass id price) := by
  obtain ⟨hpaid, hentered, hpurse, hlog⟩ := s.purchased_spec .passPurchase (id.setWidth 16) price
  have hbuy : s.buyPass id price = (((s.purchased .passPurchase (id.setWidth 16) price).updatePass id
      (fun p => { p with owner := .bought (BitVec.ofNat 16 price) })).propagate id p.members).bookNearlyFull := by
    unfold State.buyPass
    rw [hp]
    rfl
  have hpasses := State.pass_of_same (hpaid .passes (by simp))
  have hfixtures := hpaid .fixtures (by simp)
  have hfix := State.fixture_of_same hfixtures
  have hconds := hpaid .conds (by simp)
  obtain ⟨hthis, hothers, honly, hbooked, hnone, hsome⟩ := (s.purchased .passPurchase (id.setWidth 16) price).updatePass_propagate_spec id
    (f := fun p => { p with owner := .bought (BitVec.ofNat 16 price) }) (fun _ => rfl) p.members ((hpasses id).trans hp)
  have hmarks := (s.purchased .passPurchase (id.setWidth 16) price).updatePass_propagate_marks id (fun p => { p with owner := .bought (BitVec.ofNat 16 price) }) p.members
  have hframe : changesOnly [.fixtures, .passes, .conds, .store] (s.purchased .passPurchase (id.setWidth 16) price)
      (((s.purchased .passPurchase (id.setWidth 16) price).updatePass id (fun p => { p with owner := .bought (BitVec.ofNat 16 price) })).propagate id p.members) :=
    changesOnly_trans (changesOnly_mono (State.updatePass_frame _ _ _) (by simp)) (changesOnly_mono (State.propagate_frame _ _ _) (by simp))
  have hkeeps : keepsChanged (s.purchased .passPurchase (id.setWidth 16) price)
      (((s.purchased .passPurchase (id.setWidth 16) price).updatePass id (fun p => { p with owner := .bought (BitVec.ofNat 16 price) })).propagate id p.members) := by
    refine .inr (.inr (.inr ?_))
    rw [State.propagate_frame _ id p.members .passes (by simp)]
    exact tableUpdate_kept ((hpasses id).trans hp) (by simp [keptPass, howner])
  rw [hbuy]
  generalize ((s.purchased .passPurchase (id.setWidth 16) price).updatePass id (fun p => { p with owner := .bought (BitVec.ofNat 16 price) })).propagate id p.members = u at *
  have hend := u.bookNearlyFull_frame
  have hendPass := State.pass_of_same (hend .passes (by simp))
  have hendFix := State.fixture_of_same (hend .fixtures (by simp))
  have hlogs := hframe .log (by simp)
  have honlys : condsOnly [.entitlementChanged] s u := fun k hk => (honly k hk).trans (congrArg (fun c => Conditions.get c k) hconds)
  exact {
    frame := changesOnly_trans (changesOnly_mono hpaid (by simp)) (changesOnly_trans (changesOnly_mono hframe (by simp)) (changesOnly_mono hend (by simp)))
    purse := (hend .purse (by simp)).trans (Eq.trans (hframe .purse (by simp)) hpurse)
    log := (hend .log (by simp)).trans (Eq.trans hlogs hlog)
    pass := (hendPass id).trans hthis
    others := fun id' hid => (hendPass id').trans ((hothers id' hid).trans (hpasses id'))
    absent := fun v hv => (hendFix v).trans (hnone v ((hfix v).trans hv))
    reached := fun v e he => by
      obtain ⟨e', he', hprop⟩ := hsome v e ((hfix v).trans he)
      exact ⟨e', (hendFix v).trans he', hprop⟩
    conds := fun k hk => (u.bookNearlyFull_conds.1 k (fun hmem => hk (List.mem_cons.mpr (.inl (List.mem_singleton.mp hmem))))).trans
      (honlys k (fun hmem => hk (List.mem_cons_of_mem _ hmem)))
    booked := propagationBooked_to_same (propagationBooked_of_same hfixtures hconds hbooked) (u.bookNearlyFull_conds.1 .entitlementChanged (by simp))
    nearlyFull := State.purchased_nearlyFull hlogs (honlys .logNearlyFull (by simp))
    marks := dirtied_of_store (dirtied_all hentered hmarks hkeeps) (hend .store (by simp)) }

/-- The order's part of Table 5-4, with the price that R94 computes: none for the first two checks. -/
theorem State.passCheck_order (s : State) (id : PassId) (stated : Credit) :
    (s.clock.running = false → (s.passCheck id (some stated)).1 = .noTime ∧ (s.passCheck id (some stated)).2 = 0) ∧
      (s.clock.running = true → ((∀ p, s.pass id = some p → p.sale = none) → (s.passCheck id (some stated)).1 = .unknownPass ∧ (s.passCheck id (some stated)).2 = 0) ∧
        ∀ p sale, s.pass id = some p → p.sale = some sale → (s.passCheck id (some stated)).2 = passCost s p sale ∧
          (s.passCheck id (some stated)).1 = table54 s p sale (s.passCheck id (some stated)).2 (decide (stated.toNat ≠ (s.passCheck id (some stated)).2))) := by
  refine ⟨fun hunset => ?_, fun hrun => ⟨fun hunknown => ?_, fun p sale hp hsale => ?_⟩⟩
  · rw [State.passCheck_unset hunset]
    exact ⟨rfl, rfl⟩
  · rw [State.passCheck_unknown hrun hunknown]
    exact ⟨rfl, rfl⟩
  · rw [State.passCheck_scheduled hrun hp hsale, priceDiffers_some]
    exact ⟨rfl, rfl⟩

/-- Settles O53: the checks of Table 5-4 in their order; an accepted order is a debit, an entry and the pass with its members. -/
theorem buyPassRefusesOrDebits : Obligations.BuyPassRefusesOrDebits := by
  intro s slot a hready
  have hexec := congrArg (fun t => (Host.Outcome.next t : Host.Outcome State Fault Refusal)) (State.takeOrder_ready hready State.answerBuyPass)
  have hkind := orderReady_kind hready (by decide)
  obtain ⟨hunset, hrunning⟩ := s.passCheck_order (orderByte a.data) (orderPrice a.data)
  by_cases hacc : (s.passCheck (orderByte a.data) (some (orderPrice a.data))).1 = .accepted
  · obtain ⟨p, sale, hp, hsale, -, hsched⟩ := State.passCheck_accepted hacc
    obtain ⟨-, -, howned, -⟩ := State.passScheduled_accepted hsched
    have hbought := State.buyPass_spec hp (by simpa [PassEntry.owned] using howned) (s.passCheck (orderByte a.data) (some (orderPrice a.data))).2
    have hanswer : s.answerBuyPass slot a = _ := if_pos hacc
    rw [hanswer, replyTo, hkind, hbought.frame .orders (by simp), ← hacc] at hexec
    refine ⟨_, _, _, _, hexec, rfl, fun h => absurd hacc h, hunset, fun hrun => ⟨(hrunning hrun).1, fun p' sale' hp' hsale' => ?_⟩⟩
    obtain ⟨hprice, houtcome⟩ := (hrunning hrun).2 p' sale' hp' hsale'
    obtain rfl := Option.some.inj (hp.symm.trans hp')
    exact ⟨hprice, houtcome, fun _ => ⟨changesOnly_mono (changesOnly_replying hbought.frame _) (by simp), rfl, hbought.purse, hbought.log, hbought.pass, hbought.others,
      hbought.absent, hbought.reached, hbought.conds, hbought.booked, hbought.nearlyFull, hbought.marks⟩⟩
  · have hanswer : s.answerBuyPass slot a = _ := if_neg hacc
    rw [hanswer, replyTo, hkind] at hexec
    refine ⟨_, _, _, _, hexec, rfl, fun _ => ⟨rfl, rfl⟩, hunset, fun hrun => ⟨(hrunning hrun).1, fun p sale hp hsale => ?_⟩⟩
    obtain ⟨hprice, houtcome⟩ := (hrunning hrun).2 p sale hp hsale
    exact ⟨hprice, houtcome, fun h => absurd h hacc⟩

end Sys2Proof.Machine

/-! Proofs: the orders that only read, and bad orders (R102, R115, R165 to R167, R180; O55). -/

namespace Sys2Proof.Machine

open Sys2Proof.Safety

set_option Elab.async false

theorem order_table139 (o : List Byte) : table139 o :=
  ⟨rfl, le32_toNat o 4, le16_toNat o 8, rfl, le16_toNat o 10, le32_toNat o 8, rfl⟩

/-! ### Quotes (R102, R166) -/

theorem fundsOutcome_ne_priceChanged (s : State) (price : Nat) : fundsOutcome s price ≠ .priceChanged := by
  unfold fundsOutcome
  repeat' split
  all_goals simp

theorem table53_ne_priceChanged (s : State) (e : FixtureEntry) (sch : Schedule) (ph : Phase) (price : Nat) : table53 s e sch ph price false ≠ .priceChanged := by
  have hfunds := fundsOutcome_ne_priceChanged s price
  unfold table53
  repeat' split
  all_goals simp_all

theorem table54_ne_priceChanged (s : State) (p : PassEntry) (sale : PassSale) (price : Nat) : table54 s p sale price false ≠ .priceChanged := by
  have hfunds := fundsOutcome_ne_priceChanged s price
  unfold table54
  repeat' split
  all_goals simp_all

theorem priceDiffers_exact {price : Nat} (h : price < 65536) : priceDiffers (some (BitVec.ofNat 16 price)) price = false := by
  rw [priceDiffers_some, BitVec.toNat_ofNat, Nat.mod_eq_of_lt h]
  simp

section
variable {s : State} {t : Tag}

theorem State.quotePrice_unknown (h : ∀ e, s.fixture t = some e → e.standing = .awaiting) : s.quotePrice (s.fixture t) = 0 := by
  have hnone : (s.fixture t).bind FixtureEntry.schedule = none := by
    cases he : s.fixture t with
    | none => rfl
    | some e => simp [FixtureEntry.schedule, h e he]
  unfold State.quotePrice
  rw [hnone]

variable {e : FixtureEntry} {sch : Schedule} {ph : Phase} (he : s.fixture t = some e) (hst : e.standing = .scheduled sch ph)
include he hst

theorem State.quoteSchedule : (s.fixture t).bind FixtureEntry.schedule = some sch := by
  simp [he, FixtureEntry.schedule, hst]

theorem State.quotePrice_scheduled : s.quotePrice (s.fixture t) = fixturePrice sch s.now := by
  unfold State.quotePrice
  rw [State.quoteSchedule he hst]

theorem State.quoteBlackout_scheduled : s.quoteBlackout (s.fixture t) = true ↔ s.purse.zone ≠ 0 ∧ s.purse.zone ∈ sch.blackout := by
  unfold State.quoteBlackout
  rw [State.quoteSchedule he hst]
  exact blackedOut_iff _ _

end

/-- A fixture is unknown to a quote, or has a schedule part (R102). -/
theorem State.fixture_unknown_or_scheduled (s : State) (t : Tag) :
    (∀ e, s.fixture t = some e → e.standing = .awaiting) ∨ ∃ e sch ph, s.fixture t = some e ∧ e.standing = .scheduled sch ph := by
  cases he : s.fixture t with
  | none => exact .inl nofun
  | some e =>
    cases hst : e.standing with
    | awaiting => exact .inl fun e' he' => Option.some.inj he' ▸ hst
    | scheduled sch ph => exact .inr ⟨e, sch, ph, rfl, hst⟩

/-- A quote's refusal is the purchase's at the quoted price, which is never PRICE_CHANGED (R102). -/
theorem State.buyCheck_quote (s : State) (t : Tag) :
    (s.buyCheck t none).1 ≠ .priceChanged ∧ (s.buyCheck t none).1 = (s.buyCheck t (some (BitVec.ofNat 16 (s.quotePrice (s.fixture t))))).1 := by
  cases hrun : s.clock.running with
  | false =>
    rw [State.buyCheck_unset hrun, State.buyCheck_unset hrun]
    exact ⟨nofun, rfl⟩
  | true =>
    rcases s.fixture_unknown_or_scheduled t with hunknown | ⟨e, sch, ph, he, hst⟩
    · rw [State.buyCheck_unknown hrun hunknown, State.buyCheck_unknown hrun hunknown]
      exact ⟨nofun, rfl⟩
    · rw [State.buyCheck_scheduled hrun he hst, State.buyCheck_scheduled hrun he hst, State.quotePrice_scheduled he hst, priceDiffers_exact (fixturePrice_lt _ _)]
      exact ⟨table53_ne_priceChanged _ _ _ _ _, rfl⟩

theorem State.quotePassPrice_unknown {s : State} {id : PassId} (h : ∀ p, s.pass id = some p → p.sale = none) : s.quotePassPrice (s.pass id) = 0 := by
  unfold State.quotePassPrice
  cases hp : s.pass id with
  | none => rfl
  | some p => simp only [h p hp]

theorem State.quotePassPrice_scheduled {s : State} {id : PassId} {p : PassEntry} {sale : PassSale} (hp : s.pass id = some p) (hsale : p.sale = some sale) :
    s.quotePassPrice (s.pass id) = passCost s p sale := by
  unfold State.quotePassPrice
  simp only [hp, hsale, State.passPrice_eq]

theorem State.passCheck_quote (s : State) (id : PassId) :
    (s.passCheck id none).1 ≠ .priceChanged ∧ (s.passCheck id none).1 = (s.passCheck id (some (BitVec.ofNat 16 (s.quotePassPrice (s.pass id))))).1 := by
  cases hrun : s.clock.running with
  | false =>
    rw [State.passCheck_unset hrun, State.passCheck_unset hrun]
    exact ⟨nofun, rfl⟩
  | true =>
    by_cases hunknown : ∀ p, s.pass id = some p → p.sale = none
    · rw [State.passCheck_unknown hrun hunknown, State.passCheck_unknown hrun hunknown]
      exact ⟨nofun, rfl⟩
    · simp only [Classical.not_forall] at hunknown
      obtain ⟨p, hp, hsome⟩ := hunknown
      obtain ⟨sale, hsale⟩ := Option.ne_none_iff_exists'.mp hsome
      rw [State.passCheck_scheduled hrun hp hsale, State.passCheck_scheduled hrun hp hsale, State.quotePassPrice_scheduled hp hsale,
        priceDiffers_exact (by rw [← State.passPrice_eq]; exact State.passPrice_lt _ _ _)]
      exact ⟨table54_ne_priceChanged _ _ _ _, rfl⟩

/-! ### LOG_READ (R115) -/

theorem selectEntries_empty (start : Seq) (count : Nat) : selectEntries [] start count = [] := rfl

theorem selectEntries_from (q : LogEntry) (rest : List LogEntry) (start : Seq) (count : Nat) : selectEntries (q :: rest) start count =
    ((q :: rest).drop (if (start - q.seq).toNat < 2147483648 then (start - q.seq).toNat else 0)).take (min count 8) := rfl

/-! ### FIXTURE_LIST (R167) -/

theorem mem_listFrom (t : List (Option FixtureEntry)) : ∀ (k i : Nat) (e : FixtureEntry), (i, e) ∈ listFrom k t ↔ k ≤ i ∧ t[i - k]? = some (some e) := by
  induction t with
  | nil => exact fun k i e => by simp [listFrom]
  | cons o os ih =>
    intro k i e
    have hrest : (i, e) ∈ listFrom (k + 1) os ↔ k < i ∧ (o :: os)[i - k]? = some (some e) := by
      rw [ih]
      refine and_congr_right fun hlt => ?_
      rw [show i - k = (i - (k + 1)) + 1 by omega, List.getElem?_cons_succ]
    have hsplit : (k ≤ i ∧ (o :: os)[i - k]? = some (some e)) ↔ (i = k ∧ o = some e) ∨ (i, e) ∈ listFrom (k + 1) os := by
      rw [hrest]
      rcases Nat.lt_trichotomy i k with hlt | rfl | hlt
      · exact iff_of_false (by omega) (by omega)
      · simp
      · have hne : i ≠ k := by omega
        simp [hlt, hne, Nat.le_of_lt hlt]
    rw [hsplit]
    cases o with
    | none => simp [listFrom]
    | some x => simp [listFrom, eq_comm]

theorem listFrom_sorted (t : List (Option FixtureEntry)) : ∀ k, (listFrom k t).Pairwise (fun p q => p.1 < q.1) := by
  induction t with
  | nil => exact fun k => List.Pairwise.nil
  | cons o os ih =>
    intro k
    cases o with
    | none => exact ih (k + 1)
    | some x => exact List.Pairwise.cons (fun p hp => ((mem_listFrom os (k + 1) p.1 p.2).mp hp).1) (ih (k + 1))

/-- What comes before an element of the front of a sorted list is in that front. -/
theorem mem_take_of_sorted {α : Type} {f : α → Nat} {xs : List α} (h : xs.Pairwise (fun p q => f p < f q)) {n : Nat} {p q : α} (hp : p ∈ xs.take n) (hq : q ∈ xs)
    (hle : f q ≤ f p) : q ∈ xs.take n := by
  rw [← List.take_append_drop n xs] at h hq
  rcases List.mem_append.mp hq with hq | hq
  · exact hq
  · exact absurd ((List.pairwise_append.mp h).2.2 p hp q hq) (Nat.not_lt.mpr hle)

/-- The entries in use from an index on. -/
def State.listable (s : State) (start : Nat) : List (Nat × FixtureEntry) := (listFrom 0 s.fixtures).filter (fun p => start ≤ p.1)

theorem State.mem_listable {s : State} {start i : Nat} {e : FixtureEntry} : (i, e) ∈ s.listable start ↔ start ≤ i ∧ s.fixtures[i]? = some (some e) := by
  unfold State.listable
  rw [List.mem_filter, mem_listFrom, decide_eq_true_iff, Nat.sub_zero]
  exact ⟨fun h => ⟨h.2, h.1.2⟩, fun h => ⟨⟨Nat.zero_le i, h.2⟩, h.1⟩⟩

theorem State.listable_sorted (s : State) (start : Nat) : (s.listable start).Pairwise (fun p q => p.1 < q.1) := (listFrom_sorted s.fixtures 0).filter _

/-- The selection of a FIXTURE_LIST and its next index. -/
theorem State.listEntries_spec (s : State) (start : Nat) : (s.listEntries start).length ≤ 8 ∧ ((s.listEntries start).map (·.1)).Pairwise (· < ·) ∧
    (∀ p ∈ s.listEntries start, start ≤ p.1 ∧ s.fixtures[p.1]? = some (some p.2)) ∧
    (∀ p ∈ s.listEntries start, ∀ (i : Nat) (e : FixtureEntry), start ≤ i → i ≤ p.1 → s.fixtures[i]? = some (some e) → (i, e) ∈ s.listEntries start) ∧
    ((s.listEntries start).length < 8 → listNext (s.listEntries start) = 32 ∧
      ∀ (i : Nat) (e : FixtureEntry), start ≤ i → s.fixtures[i]? = some (some e) → (i, e) ∈ s.listEntries start) ∧
    ((s.listEntries start).length = 8 → ∃ p, (s.listEntries start).getLast? = some p ∧ listNext (s.listEntries start) = p.1 + 1) := by
  have heq : s.listEntries start = (s.listable start).take 8 := rfl
  have hsorted := s.listable_sorted start
  rw [heq]
  refine ⟨List.length_take_le _ _, List.pairwise_map.mpr (hsorted.sublist (List.take_sublist _ _)), fun p hp => State.mem_listable.mp (List.mem_of_mem_take hp),
    fun p hp i e hstart hle he => mem_take_of_sorted (f := Prod.fst) hsorted hp (State.mem_listable.mpr ⟨hstart, he⟩) hle, fun hfew => ⟨if_neg (by omega), fun i e hstart he => ?_⟩,
    fun hfull => ?_⟩
  · rw [List.length_take] at hfew
    rw [List.take_of_length_le (by omega)]
    exact State.mem_listable.mpr ⟨hstart, he⟩
  · unfold listNext
    rw [if_pos hfull]
    cases hlast : ((s.listable start).take 8).getLast? with
    | none =>
      rw [List.getLast?_eq_none_iff.mp hlast] at hfull
      cases hfull
    | some p => exact ⟨p, rfl, rfl⟩

/-! ### Bad orders (R164, R165, R180) -/

theorem State.takeOrder_bad {s : State} {slot : Nat} {a : Answer} (hst : s.orders.st = .fetching slot (some a)) (hroom : 1 ≤ s.reportRoom) (hbad : isBadOrder a = true) :
    s.takeOrder isBadOrder 1 State.answerBadOrder = replied s (s.answerBadOrder slot a).1 := by
  have hstate : (s.answerBadOrder slot a).2 = s := by
    unfold State.answerBadOrder
    split <;> rfl
  unfold State.takeOrder
  rw [hst]
  refine (if_pos ⟨hbad, hroom⟩).trans ?_
  simp only [hstate]
  rfl

/-- Settles O55: each reading order leaves the state as it is but for its records; the quotes by the tables of refusals, the list by the order of the indices. -/
theorem readingOrdersChangeNothing : Obligations.ReadingOrdersChangeNothing := by
  refine ⟨order_table139, fun s slot a => ⟨fun hready => ?_, fun hready => ?_, fun hready => ?_, fun hready => ?_, fun hready => ?_, fun hst hroom => ⟨fun herr => ?_,
    fun herr hkind => ?_⟩⟩⟩
  · have hexec := congrArg (fun t => (Host.Outcome.next t : Host.Outcome State Fault Refusal)) (State.takeOrder_ready hready State.answerQuote)
    rw [State.answerQuote, replyTo, orderReady_kind hready (by decide)] at hexec
    obtain ⟨hnever, hsame⟩ := s.buyCheck_quote (orderTag a.data)
    refine ⟨_, _, hexec, hnever, State.quotePrice_unknown, fun e sch ph he hst => ⟨State.quotePrice_scheduled he hst, State.quoteBlackout_scheduled he hst⟩, hsame,
      fun hunset => congrArg Prod.fst (State.buyCheck_unset hunset _), fun hrun => ⟨fun hunknown => congrArg Prod.fst (State.buyCheck_unknown hrun hunknown),
        fun e sch ph he hst => ?_⟩⟩
    rw [State.buyCheck_scheduled hrun he hst, State.quotePrice_scheduled he hst]
    rfl
  · have hexec := congrArg (fun t => (Host.Outcome.next t : Host.Outcome State Fault Refusal)) (State.takeOrder_ready hready State.answerQuotePass)
    rw [State.answerQuotePass, replyTo, orderReady_kind hready (by decide)] at hexec
    obtain ⟨hnever, hsame⟩ := s.passCheck_quote (orderByte a.data)
    refine ⟨_, _, hexec, hnever, State.quotePassPrice_unknown, fun p sale hp hsale => State.quotePassPrice_scheduled hp hsale, hsame,
      fun hunset => congrArg Prod.fst (State.passCheck_unset hunset _), fun hrun => ⟨fun hunknown => congrArg Prod.fst (State.passCheck_unknown hrun hunknown),
        fun p sale hp hsale => ?_⟩⟩
    rw [State.passCheck_scheduled hrun hp hsale, State.quotePassPrice_scheduled hp hsale]
    rfl
  · have hexec := congrArg (fun t => (Host.Outcome.next t : Host.Outcome State Fault Refusal)) (State.takeOrder_ready hready State.answerPurse)
    rw [State.answerPurse, replyTo, orderReady_kind hready (by decide)] at hexec
    exact hexec
  · have hexec := congrArg (fun t => (Host.Outcome.next t : Host.Outcome State Fault Refusal)) (State.takeOrder_ready hready State.answerLogRead)
    simp only [State.answerLogRead, replyTo, orderReady_kind hready (by decide)] at hexec
    refine ⟨_, hexec, fun hempty => ?_, fun q rest hlog => ?_⟩
    · rw [hempty, selectEntries_empty]
    · rw [hlog, selectEntries_from]
  · have hexec := congrArg (fun t => (Host.Outcome.next t : Host.Outcome State Fault Refusal)) (State.takeOrder_ready hready State.answerFixtureList)
    simp only [State.answerFixtureList, replyTo, orderReady_kind hready (by decide)] at hexec
    exact ⟨_, _, hexec, s.listEntries_spec _⟩
  · refine congrArg Host.Outcome.next ((State.takeOrder_bad hst hroom (by simp [isBadOrder, herr])).trans ?_)
    rw [State.answerBadOrder, if_pos herr]
  · have hbad : isBadOrder a = true := by
      rcases hkind with hkind | hkind
      · simp [isBadOrder, hkind]
      · simp [isBadOrder, hkind]
    refine congrArg Host.Outcome.next ((State.takeOrder_bad hst hroom hbad).trans ?_)
    rw [State.answerBadOrder, if_neg (by simp [herr])]
    rfl

end Sys2Proof.Machine

/-! Proofs: the bytes of every report (R161, R168, R178 to R180, Tables 13-10 to 13-16). -/

namespace Sys2Proof.Machine

open Sys2Proof.Safety

set_option Elab.async false

/-! ### Fields, as the tables have them (R178) -/

theorem leBytes_mod (n : Nat) : ∀ v, leBytes n (v % 256 ^ n) = leBytes n v := by
  induction n with
  | zero => exact fun _ => rfl
  | succ n ih =>
    intro v
    have hhead : BitVec.ofNat 8 (v % 256 ^ (n + 1)) = BitVec.ofNat 8 v := by
      refine BitVec.eq_of_toNat_eq ?_
      rw [BitVec.toNat_ofNat, BitVec.toNat_ofNat, Nat.pow_succ', show 2 ^ 8 = 256 from rfl]
      exact Nat.mod_mul_right_mod v 256 (256 ^ n)
    have htail : v % 256 ^ (n + 1) / 256 = v / 256 % 256 ^ n := by
      rw [Nat.pow_succ', Nat.mod_mul_right_div_self]
    rw [leBytes, leBytes, hhead, htail, ih]

theorem two_eq (off v : Nat) : two off v = (off, leBytes 2 v) := by
  unfold two
  rw [bytes16_eq_leBytes, BitVec.toNat_ofNat]
  exact congrArg (Prod.mk off) (leBytes_mod 2 v)

theorem four_eq (off : Nat) (v : BitVec 32) : four off v = (off, leBytes 4 v.toNat) := congrArg (Prod.mk off) (bytes32_eq_leBytes v)

theorem four_ofNat (off v : Nat) : four off (BitVec.ofNat 32 v) = (off, leBytes 4 v) := by
  rw [four_eq, BitVec.toNat_ofNat]
  exact congrArg (Prod.mk off) (leBytes_mod 4 v)

theorem signed_eq (off : Nat) (z : Int) : signed off z = (off, signedBytes z) := congrArg (Prod.mk off) (bytesInt_eq_signedBytes z)

theorem one_toNat (off : Nat) (b : Byte) : one off b.toNat = (off, [b]) := congrArg (fun x => (off, [x])) (BitVec.eq_of_toNat_eq (by simp))

/-! ### Codes (Table 13-16, Table 11-2) -/

theorem OrderOutcome.code_eq (o : OrderOutcome) : o.code = outcomeCode o := by cases o <;> rfl

theorem phaseCode_none : phaseCode none = 0 := rfl

theorem phaseCode_some (e : FixtureEntry) : phaseCode (some e) = standingCode e.standing := by
  obtain ⟨tag, standing, kind, viewed, remaining, delivered⟩ := e
  cases standing with
  | awaiting => rfl
  | scheduled sch ph => cases ph <;> rfl

theorem Kind.fields_eq (k : Kind) : k.code = (kindFields k).1 ∧ k.passField = (kindFields k).2.2 := by cases k <;> exact ⟨rfl, rfl⟩

theorem FixtureEntry.paid_eq (e : FixtureEntry) : e.paid.toNat = (kindFields e.kind).2.1 := by
  obtain ⟨tag, standing, kind, viewed, remaining, delivered⟩ := e
  cases kind <;> rfl

theorem ownerFields_eq (o : Ownership) : ownershipCode o = (ownerFields o).1 ∧ (ownershipPaid o).toNat = (ownerFields o).2 := by cases o <;> exact ⟨rfl, rfl⟩

theorem logKindFields_eq (k : LogKind) : logKindCode k = (logKindFields k).1 ∧ causeCode k = (logKindFields k).2 := by
  cases k with
  | refund c => cases c <;> exact ⟨rfl, rfl⟩
  | _ => exact ⟨rfl, rfl⟩

theorem CondKind.rank_eq (k : CondKind) : k.rank = 1 + [CondKind.storeLost, .refundWaiting, .logNearlyFull, .entitlementChanged, .cellDrop, .badCell, .shieldHit, .tableFull,
    .clockJump, .indexBad].idxOf k := by cases k <;> rfl

theorem CellReason.code_eq (r : CellReason) : r.code = 1 + [CellReason.badChecksum, .badGrant, .badTag, .badSchedule, .queueFull, .keyTableFull, .restoring].idxOf r := by
  cases r <;> rfl

theorem classCode_eq (c : Cls) : classCode c = [Cls.cpu, .transport, .video, .audio, .display, .periph, .spare, .internal].idxOf c := by cases c <;> rfl

/-! ### The records (Tables 13-10 to 13-15) -/

theorem encode_placed (p : PlacedReport) : (Report.placed p).encode = reportBytes (.placed p) := by
  unfold Report.encode Report.fields
  simp only [four_eq, signed_eq]
  rfl

theorem encode_logEntry (orderNo : BitVec 32) (e : LogEntry) : (Report.logEntry orderNo e).encode = reportBytes (.logEntry orderNo e) := by
  unfold Report.encode Report.fields
  simp only [two_eq, four_eq, signed_eq, logKindFields_eq]
  rfl

theorem encode_fixtureEntry (orderNo : BitVec 32) (index : Nat) (e : FixtureEntry) : (Report.fixtureEntry orderNo index e).encode = reportBytes (.fixtureEntry orderNo index e) := by
  simp only [Report.encode, Report.fields, FixtureEntry.paid_eq, phaseCode_some]
  obtain ⟨tag, standing, kind, viewed, remaining, delivered⟩ := e
  cases standing with
  | awaiting =>
    simp only [FixtureEntry.schedule, scheduleFields, two_eq, four_eq, Kind.fields_eq]
    rfl
  | scheduled sch ph =>
    simp only [FixtureEntry.schedule, scheduleFields, two_eq, four_eq, Kind.fields_eq]
    rfl

theorem encode_condition (k : CondKind) (count : Nat) (data : Option CondData) : (Report.condition k count data).encode = reportBytes (.condition k count data) := by
  simp only [Report.encode, Report.fields, CondKind.rank_eq]
  cases data with
  | none =>
    simp only [two_eq]
    rfl
  | some d =>
    cases d with
    | table ident t =>
      cases t <;> (simp only [Option.map_some, Option.getD_some, CondData.fields, two_eq]; rfl)
    | index v w =>
      cases w <;> (simp only [Option.map_some, Option.getD_some, CondData.fields, two_eq, four_eq]; rfl)
    | _ =>
      simp only [Option.map_some, Option.getD_some, CondData.fields, two_eq, signed_eq, CellReason.code_eq, classCode_eq]
      rfl

theorem encode_reply (kind : Byte) (outcome : OrderOutcome) (slot : Nat) (orderNo : BitVec 32) (body : ReplyBody) :
    (Report.reply kind outcome slot orderNo body).encode = reportBytes (.reply kind outcome slot orderNo body) := by
  simp only [Report.encode, Report.fields, one_toNat, OrderOutcome.code_eq, four_eq]
  cases body with
  | quote entry price blackout refusal =>
    cases entry with
    | none =>
      simp only [ReplyBody.fields, OrderOutcome.code_eq, two_eq]
      rfl
    | some e =>
      simp only [ReplyBody.fields, OrderOutcome.code_eq, two_eq, phaseCode_some, Option.map_some, Option.getD_some, Kind.fields_eq]
      rfl
  | quotePass entry price refusal =>
    cases entry with
    | none =>
      simp only [ReplyBody.fields, OrderOutcome.code_eq, two_eq]
      rfl
    | some p =>
      simp only [ReplyBody.fields, OrderOutcome.code_eq, two_eq, Option.map_some, Option.getD_some, ownerFields_eq]
      rfl
  | purse p count next clock running =>
    simp only [ReplyBody.fields, two_eq, four_ofNat, signed_eq]
    simp only [four_eq]
    rfl
  | _ =>
    simp only [ReplyBody.fields, two_eq, four_eq, signed_eq]
    rfl

theorem Report.encode_eq (r : Report) : r.encode = reportBytes r := by
  cases r with
  | placed p => exact encode_placed p
  | reply kind outcome slot orderNo body => exact encode_reply kind outcome slot orderNo body
  | logEntry orderNo e => exact encode_logEntry orderNo e
  | fixtureEntry orderNo index e => exact encode_fixtureEntry orderNo index e
  | condition k count data => exact encode_condition k count data

end Sys2Proof.Machine

/-! Proofs: the report writer writes one record at a time, in its precedence (R161, R168 to R170; O56). -/

namespace Sys2Proof.Machine

open Sys2Proof.Safety

set_option Elab.async false

/-! ### The highest condition and ALERT (R169, R170) -/

theorem mem_rankOrder (k : CondKind) : k ∈ rankOrder := by cases k <;> decide

theorem rankOrder_sorted : rankOrder.Pairwise (fun k k' => k.rank < k'.rank) := by decide

theorem Conditions.highest_isSome_iff (c : Conditions) : c.highest.isSome = true ↔ ∃ k, (c.get k).booked = true := by
  unfold Conditions.highest
  rw [List.find?_isSome]
  exact ⟨fun ⟨k, _, hk⟩ => ⟨k, hk⟩, fun ⟨k, hk⟩ => ⟨k, mem_rankOrder k, hk⟩⟩

theorem Conditions.highest_eq {c : Conditions} {k : CondKind} (hk : (c.get k).booked = true) (hmin : ∀ k', k'.rank < k.rank → (c.get k').booked = false) :
    c.highest = some k := by
  cases hfind : c.highest with
  | none => exact absurd ((c.highest_isSome_iff).mpr ⟨k, hk⟩) (by simp [hfind])
  | some k' =>
    obtain ⟨hk', before, later, hsplit, hbefore⟩ := List.find?_eq_some_iff_append.mp hfind
    have hsorted := rankOrder_sorted
    have hmem := mem_rankOrder k
    rw [hsplit] at hsorted hmem
    rcases List.mem_append.mp hmem with hin | hin
    · exact absurd hk (by simpa using hbefore k hin)
    · rcases List.mem_cons.mp hin with rfl | hin
      · rfl
      · exact absurd hk' (by simp [hmin k' ((List.pairwise_cons.mp (List.pairwise_append.mp hsorted).2.1).1 k hin)])

theorem RingView.unconsumed_ne_zero {lo : Nat} {v : RingView} (h : viewSound lo v) : (v.unconsumed != 0) = true ↔ v.prod ≠ v.cons := by
  obtain ⟨-, -, hprod, hcons⟩ := h
  rw [bne_iff_ne]
  unfold RingView.unconsumed
  constructor
  · rintro hne heq
    exact hne (by rw [heq, Nat.add_sub_cancel_left, Nat.mod_self])
  · intro hne hzero
    obtain ⟨q, hq⟩ := Nat.dvd_of_mod_eq_zero hzero
    have hq1 : q < 2 := by
      refine Classical.byContradiction fun hge => ?_
      have := Nat.mul_le_mul_left v.cap (Nat.not_lt.mp hge)
      omega
    have hq0 : q ≠ 0 := by
      rintro rfl
      omega
    obtain rfl : q = 1 := by omega
    omega

theorem State.alert_iff {s : State} {v : RingView} (hview : s.reports.view = some v) (h : viewSound 16 v) :
    s.alert = true ↔ (∃ k, (s.conds.get k).booked = true) ∨ v.prod ≠ v.cons := by
  unfold State.alert
  rw [hview, Bool.or_eq_true, Conditions.highest_isSome_iff, ← RingView.unconsumed_ne_zero h]

theorem State.alert_iff_none {s : State} (hview : s.reports.view = none) : s.alert = true ↔ ∃ k, (s.conds.get k).booked = true := by
  unfold State.alert
  rw [hview, Bool.or_false, Conditions.highest_isSome_iff]

/-! ### The writer (R168) -/

theorem State.mayReport_iff (s : State) : s.mayReport = true ↔ ∃ v, mayWriteReport s v := by
  unfold State.mayReport mayWriteReport
  rw [Bool.and_eq_true, decide_eq_true_iff, Bool.not_eq_true']
  cases hview : s.reports.view with
  | none =>
    refine iff_of_false (fun h => ?_) (fun ⟨v, h, _⟩ => nomatch h)
    rw [State.reportRoom_none hview] at h
    exact absurd h.1 (by decide)
  | some v =>
    rw [State.reportRoom_eq hview]
    constructor
    · rintro ⟨hroom, hpending⟩
      exact ⟨v, rfl, hroom, hpending⟩
    · rintro ⟨v', hv, hroom, hpending⟩
      cases hv
      exact ⟨hroom, hpending⟩

theorem State.writeReport_eq {s : State} {v : RingView} (h : s.reports.view = some v) (r : Report) : s.writeReport r = reportWritten s v r := by
  unfold State.writeReport
  rw [h]
  rfl

section
variable {s : State}

theorem State.writePlaced_none (h : s.reports.placed = none) : s.writePlaced = s := by
  unfold State.writePlaced
  rw [h]

theorem State.writePlaced_waits (h : ¬ s.mayReport = true) : s.writePlaced = s := by
  unfold State.writePlaced
  split
  · exact if_neg h
  · rfl

theorem State.writeReply_waits (h : s.reports.placed ≠ none ∨ ¬ s.mayReport = true) : s.writeReply = s := by
  unfold State.writeReply
  split
  · exact if_neg (fun hif => h.elim (fun hp => hp hif.1) (fun hm => hm hif.2))
  · rfl

theorem State.writeCondition_waits (h : s.reports.placed ≠ none ∨ s.orders.st.resting = false ∨ ¬ s.mayReport = true) : s.writeCondition = s := by
  unfold State.writeCondition
  split
  · refine if_neg (fun hif => ?_)
    obtain ⟨hplaced, hrests, hmay⟩ := hif
    rcases h with h | h | h
    · exact h hplaced
    · exact absurd hrests (by simp [h])
    · exact h hmay
  · rfl

variable {v : RingView} (hmay : mayWriteReport s v)
include hmay

theorem State.writePlaced_writes {p : PlacedReport} (h : s.reports.placed = some p) : s.writePlaced =
    { reportWritten s v (.placed p) with reports := { view := some { v with prod := (v.prod + 1) % v.cap }, placed := none } } := by
  unfold State.writePlaced
  rw [h]
  refine (if_pos ((s.mayReport_iff).mpr ⟨v, hmay⟩)).trans ?_
  rw [State.writeReport_eq hmay.1]
  rfl

theorem State.writeReply_next {r next : Report} {rest : List Report} (hplaced : s.reports.placed = none) (hst : s.orders.st = .replying (r :: next :: rest)) :
    s.writeReply = { reportWritten s v r with orders := { s.orders with st := .replying (next :: rest) } } := by
  unfold State.writeReply
  rw [hst]
  refine (if_pos ⟨hplaced, (s.mayReport_iff).mpr ⟨v, hmay⟩⟩).trans ?_
  rw [State.writeReport_eq hmay.1]
  rfl

theorem State.writeReply_last {r : Report} (hplaced : s.reports.placed = none) (hst : s.orders.st = .replying [r]) :
    s.writeReply = State.wake { reportWritten s v r with orders := { s.orders with st := .idle } } := by
  unfold State.writeReply
  rw [hst]
  refine (if_pos ⟨hplaced, (s.mayReport_iff).mpr ⟨v, hmay⟩⟩).trans ?_
  rw [State.writeReport_eq hmay.1]
  rfl

theorem State.writeCondition_writes {k : CondKind} (hplaced : s.reports.placed = none) (hrests : s.orders.st.resting = true) (hhighest : s.conds.highest = some k) :
    s.writeCondition = State.unbook k (reportWritten s v (.condition k (s.conds.get k).count (s.conds.get k).data)) := by
  unfold State.writeCondition
  rw [hhighest]
  refine (if_pos ⟨hplaced, hrests, (s.mayReport_iff).mpr ⟨v, hmay⟩⟩).trans ?_
  rw [State.writeReport_eq hmay.1]

end

/-- An order unit that is IDLE again takes the next waiting order, unless the retention unit is RESTORING (R164). -/
theorem State.wake_idle {s : State} {o : RingView} (hst : s.orders.st = .idle) (hview : s.orders.view = some o) (hplaced : s.placement.st = .placed) :
    s.wake = { s with orders := { s.orders with st := if o.prod ≠ o.cons ∧ s.restoring = false then .waitingRoom else .idle } } := by
  by_cases h : o.prod ≠ o.cons ∧ s.restoring = false
  · rw [if_pos h]
    exact State.wake_waiting hst hview hplaced h.1 h.2
  · have hquiet : s.wake = s := by
      cases hr : s.restoring with
      | true => exact State.wake_of_restoring hr
      | false =>
        refine State.wake_quiet ?_
        rintro ⟨x, -, hx, -, hne⟩
        cases hview.symm.trans hx
        exact h ⟨hne, hr⟩
    rw [if_neg h, hquiet, ← hst]

/-- Settles O56: the bytes of each record, and the writer by what it may write and what goes first. -/
theorem reportsAreWrittenInPrecedence : Obligations.ReportsAreWrittenInPrecedence := by
  refine ⟨Report.encode_eq, fun s => ⟨State.alert_iff_none, fun v => State.alert_iff⟩, bytes32_eq_leBytes, fun s hnot => ?_, fun s => ⟨fun h => ?_, fun h => ?_⟩, fun s v hmay =>
    ⟨fun p hp => ?_, fun r next rest hplaced hst => ?_, fun r o hplaced hst hview hst' => ?_, fun k hplaced hrests hk hmin => ?_, fun h => ?_⟩⟩
  · have hwaits : ¬ s.mayReport = true := fun h => by
      obtain ⟨v, hv⟩ := (s.mayReport_iff).mp h
      exact hnot v hv
    exact ⟨congrArg Host.Outcome.next (State.writePlaced_waits hwaits), congrArg Host.Outcome.next (State.writeReply_waits (.inr hwaits)),
      congrArg Host.Outcome.next (State.writeCondition_waits (.inr (.inr hwaits)))⟩
  · exact congrArg Host.Outcome.next (State.writePlaced_none h)
  · exact congrArg Host.Outcome.next (State.writeReply_waits (.inl h))
  · exact congrArg Host.Outcome.next (State.writePlaced_writes hmay hp)
  · exact congrArg Host.Outcome.next (State.writeReply_next hmay hplaced hst)
  · exact congrArg Host.Outcome.next ((State.writeReply_last hmay hplaced hst).trans (State.wake_idle rfl hview hst'))
  · have hrests' : s.orders.st.resting = true := by
      rcases hrests with h | h <;> rw [h] <;> rfl
    obtain ⟨-, hget, honly⟩ := (reportWritten s v (.condition k (s.conds.get k).count (s.conds.get k).data)).unbook_spec k
    exact ⟨_, congrArg Host.Outcome.next (State.writeCondition_writes hmay hplaced hrests' (Conditions.highest_eq hk hmin)), rfl, hget, honly⟩
  · refine congrArg Host.Outcome.next (State.writeCondition_waits ?_)
    rcases h with h | ⟨sl, an, h⟩ | ⟨rs, h⟩
    · exact .inl h
    · exact .inr (.inl (by rw [h]; rfl))
    · exact .inr (.inl (by rw [h]; rfl))

end Sys2Proof.Machine

/-! Proofs: an announcement at the head of the queue is checked, clamped and applied (R65, R69 to R74; O41, O42). -/

namespace Sys2Proof.Machine

open Sys2Proof.Safety

set_option Elab.async false

/-! ### The fields of an announcement and their limits (R69, Table 13-3) -/

theorem clamp16_toNat {lo hi : BitVec 16} (h : lo.toNat ≤ hi.toNat) (v : BitVec 16) : (clamp16 lo hi v).toNat = max lo.toNat (min hi.toNat v.toNat) := by
  unfold clamp16
  repeat' split
  all_goals omega

theorem announceSchedule_floor (cell : List Byte) : (announceSchedule cell).floor.toNat = min (pay16 cell 16).toNat (pay16 cell 14).toNat := by
  unfold announceSchedule
  simp only []
  repeat' split
  all_goals omega

theorem announceSchedule_stepLen (cell : List Byte) : (announceSchedule cell).stepLen.toNat = max 60 (min 3600 (pay16 cell 18).toNat) :=
  clamp16_toNat (lo := 60) (hi := 3600) (by decide) _

theorem announceSchedule_allowance (cell : List Byte) : (announceSchedule cell).allowance.toNat = min 900 (pay16 cell 22).toNat :=
  (clamp16_toNat (lo := 0) (hi := 900) (by decide) _).trans (Nat.zero_max _)

theorem announceSchedule_table133 (cell : List Byte) : table133 cell (announceSchedule cell) := by
  obtain ⟨-, -, hservice, -⟩ := parseHeader_table131 cell
  refine ⟨hservice, beq_iff_eq, le32_toNat cell 18, le32_toNat cell 22, le32_toNat cell 26, le16_toNat cell 30, ?_, ?_, le16_toNat cell 36, ?_, ?_⟩
  · rw [announceSchedule_floor, ← le16_toNat, ← le16_toNat]
    rfl
  · rw [announceSchedule_stepLen, ← le16_toNat]
    rfl
  · rw [announceSchedule_allowance, ← le16_toNat]
    rfl
  · refine List.map_congr_left (fun i _ => ?_)
    unfold pay8
    rw [← Nat.add_assoc]

theorem announceSchedule_limits (cell : List Byte) : (announceSchedule cell).floor.toNat ≤ (announceSchedule cell).base.toNat ∧
    60 ≤ (announceSchedule cell).stepLen.toNat ∧ (announceSchedule cell).stepLen.toNat ≤ 3600 ∧ (announceSchedule cell).allowance.toNat ≤ 900 ∧
    (announceSchedule cell).blackout.length ≤ 16 := by
  have hbase : (announceSchedule cell).base = pay16 cell 14 := rfl
  have hzones : (announceSchedule cell).blackout.length = min (pay8 cell 1).toNat 16 := by simp [announceSchedule]
  rw [announceSchedule_floor, announceSchedule_stepLen, announceSchedule_allowance, hbase, hzones]
  omega

theorem announceSchedule_cancelled {cell : List Byte} (h : pay8 cell 0 = 1) : (announceSchedule cell).cancelled = true := beq_iff_eq.mpr h

theorem announceSchedule_scheduled {cell : List Byte} (h : pay8 cell 0 = 0) : (announceSchedule cell).cancelled = false := by
  have hcode : (announceSchedule cell).cancelled = (pay8 cell 0 == 1) := rfl
  rw [hcode, h]
  rfl

/-! ### The checks of an announcement (R69) -/

theorem announceFault_badTag {cell : List Byte} (h : (parseHeader cell).tag = 0) : announceFault cell = some .badTag := if_pos h

theorem announceFault_of_sound {cell : List Byte} (h : announcementSound cell) : announceFault cell = none := by
  obtain ⟨htag, hstatus, hsale, hplay⟩ := h
  unfold announceFault
  exact (if_neg htag).trans ((if_neg (Nat.not_lt.mpr hstatus)).trans ((if_neg (Nat.not_lt.mpr hsale)).trans (if_neg (Nat.not_le.mpr hplay))))

theorem announceFault_badSchedule {cell : List Byte} (htag : (parseHeader cell).tag ≠ 0) (h : ¬ announcementSound cell) : announceFault cell = some .badSchedule := by
  refine (if_neg htag).trans ?_
  split
  · rename_i hstatus
    rfl
  rename_i hstatus
  split
  · rename_i hsale
    rfl
  rename_i hsale
  split
  · rename_i hplay
    rfl
  · rename_i hplay
    exact absurd ⟨htag, Nat.not_lt.mp hstatus, Nat.not_lt.mp hsale, Nat.not_le.mp hplay⟩ h

/-! ### The phases of an announcement (R70, R73, Table 4-3) -/

theorem firstPhase_derived {sch : Schedule} {c : Seconds} (h : sch.cancelled = false) : firstPhase sch c = derivePhase sch c := by
  unfold firstPhase
  rw [h]
  rfl

theorem nextPhase_kept {sch : Schedule} {c : Seconds} {ph : Phase} (h : sch.cancelled = false) (hph : ph = .cancelled ∨ ph = .ended ∨ ph = .retired) :
    nextPhase sch c ph = ph := by
  unfold nextPhase
  rcases hph with rfl | rfl | rfl <;> simp [h]

theorem nextPhase_derived {sch : Schedule} {c : Seconds} {ph : Phase} (h : sch.cancelled = false) (hph : ph = .listed ∨ ph = .onSale ∨ ph = .live) :
    nextPhase sch c ph = derivePhase sch c := by
  unfold nextPhase
  rcases hph with rfl | rfl | rfl <;> simp [h]

section
variable {s : State} {cell : List Byte} {t : Tag} {e : FixtureEntry} {sch old : Schedule} {ph : Phase}

/-! ### The cases of an announcement (R69, R70, R72, R73) -/

theorem State.applyAnnouncement_fault {r : CellReason} (h : announceFault cell = some r) : s.applyAnnouncement cell = s.book .badCell (.reason r) := by
  unfold State.applyAnnouncement
  simp only [h]

theorem State.applyAnnouncement_new (h : announcementSound cell) (he : s.fixture (parseHeader cell).tag = none) :
    s.applyAnnouncement cell = s.announceNew (parseHeader cell).tag (announceSchedule cell) := by
  unfold State.applyAnnouncement
  simp only [announceFault_of_sound h, he]

theorem State.applyAnnouncement_awaiting (h : announcementSound cell) (he : s.fixture (parseHeader cell).tag = some e) (hst : e.standing = .awaiting) :
    s.applyAnnouncement cell = s.announceAwaiting (parseHeader cell).tag (announceSchedule cell) := by
  unfold State.applyAnnouncement
  simp only [announceFault_of_sound h, he, hst]

theorem State.applyAnnouncement_again (h : announcementSound cell) (he : s.fixture (parseHeader cell).tag = some e) (hst : e.standing = .scheduled old ph) :
    s.applyAnnouncement cell = s.announceAgain (parseHeader cell).tag (announceSchedule cell) old ph := by
  unfold State.applyAnnouncement
  simp only [announceFault_of_sound h, he, hst]

theorem newEntry_onOffer (c : Seconds) (id : PassId) : onOfferNow { newEntry t sch c with kind := .pass id } ↔ onOfferNow (newEntry t sch c) := Iff.rfl

theorem State.announceNew_noPlace (h : noPlaceIn s.fixtures (evictable s)) : s.announceNew t sch = s.book .tableFull (.table t .fixtureTable) := by
  unfold State.announceNew
  simp only [State.createFixture_noPlace h]
  split <;> rfl

theorem State.announceNew_covered {i : Nat} {id : PassId} (h : placeIn s.fixtures (evictable s) i) (hoffer : onOfferNow (newEntry t sch s.now))
    (hid : s.coveringPass t = some id) :
    s.announceNew t sch = (s.setFixtures (s.fixtures.set i (some { newEntry t sch s.now with kind := .pass id }))).bookEntitlement t := by
  unfold State.announceNew
  simp only [(FixtureEntry.onOffer_iff _).mpr hoffer, if_true, hid, State.createFixture_place h]

theorem State.announceNew_uncovered {i : Nat} (h : placeIn s.fixtures (evictable s) i) (hnone : ¬ onOfferNow (newEntry t sch s.now) ∨ s.coveringPass t = none) :
    s.announceNew t sch = s.setFixtures (s.fixtures.set i (some (newEntry t sch s.now))) := by
  have hpass : (if (newEntry t sch s.now).onOffer then s.coveringPass t else none) = none := by
    rcases hnone with hoffer | hid
    · exact if_neg (mt (FixtureEntry.onOffer_iff _).mp hoffer)
    · rw [hid, ite_self]
  unfold State.announceNew
  simp only [hpass, State.createFixture_place h]

theorem State.announceNew_marks (s : State) (t : Tag) (sch : Schedule) : marksFollow s (s.announceNew t sch) := by
  have hbook : ∀ k d, marksFollow s (s.book k d) := fun k d => marksFollow_of_same (marksFollow_refl s) rfl rfl rfl rfl rfl rfl
  unfold State.announceNew
  simp only []
  split
  · split
    · exact marksFollow_bookEntitlement (State.createFixture_marksFollow ‹_›) t
    · exact hbook _ _
  · split
    · exact State.createFixture_marksFollow ‹_›
    · exact hbook _ _

/-- The entry that a first schedule part leaves of an AWAITING one (R73). -/
def FixtureEntry.announced (sch : Schedule) (c : Seconds) (e : FixtureEntry) : FixtureEntry :=
  { e with standing := .scheduled sch (firstPhase sch c), remaining := sch.allowance.toNat, delivered := false }

/-- The entry whose schedule part is replaced (R72). -/
def FixtureEntry.reannounced (sch old : Schedule) (ph : Phase) (c : Seconds) (e : FixtureEntry) : FixtureEntry :=
  { e with
    standing := .scheduled { sch with cancelled := sch.cancelled || old.cancelled } (nextPhase sch c ph)
    remaining := min e.remaining sch.allowance.toNat }

theorem State.announceAwaiting_eq (s : State) (t : Tag) (sch : Schedule) :
    s.announceAwaiting t sch = if sch.cancelled then (s.updateFixture t (FixtureEntry.announced sch s.now)).cancelEffect t
      else s.updateFixture t (FixtureEntry.announced sch s.now) := rfl

theorem State.announceAgain_eq (s : State) (t : Tag) (sch old : Schedule) (ph : Phase) :
    s.announceAgain t sch old ph = if sch.cancelled = true ∧ ph ≠ .cancelled then (s.updateFixture t (FixtureEntry.reannounced sch old ph s.now)).cancelEffect t
      else s.updateFixture t (FixtureEntry.reannounced sch old ph s.now) := rfl

/-! ### Entering CANCELLED (R74) -/

theorem State.cancelEffect_other (h : ∀ x, s.fixture t = some x → ∀ a, x.kind ≠ .impulse a) : s.cancelEffect t = s := by
  unfold State.cancelEffect
  split
  · split
    · exact absurd ‹_› (h _ ‹_› _)
    · rfl
  · rfl

theorem State.cancelEffect_atFull {a : Credit} (he : s.fixture t = some e) (hkind : e.kind = .impulse a) (hfull : 64 ≤ s.log.entries.length) :
    s.cancelEffect t = State.bookEntitlement t ((s.setRefunds (s.refunds ++ [t])).book .refundWaiting (.length (s.refunds.length + 1))) := by
  have hlen : (s.setRefunds (s.refunds ++ [t])).refunds.length = s.refunds.length + 1 := List.length_append
  unfold State.cancelEffect
  simp only [he, hkind]
  rw [if_pos ((State.logFull_iff s).mpr hfull), hlen]

theorem State.cancelEffect_atRoom {a : Credit} (he : s.fixture t = some e) (hkind : e.kind = .impulse a) (hroom : s.log.entries.length < 64) :
    s.cancelEffect t = State.bookEntitlement t
      (State.bookNearlyFull (State.updateFixture t (fun e => { e with kind := .none, viewed := false }) (s.refund .operator t a))) := by
  unfold State.cancelEffect
  simp only [he, hkind]
  exact if_neg (mt (State.logFull_iff s).mp (Nat.not_le.mpr hroom))

theorem State.refund_marksFollow (s : State) (cause : Cause) (t : Tag) (a : Credit) : marksFollow s (s.refund cause t a) := by
  have hnext : (s.refund cause t a).log.next ≠ s.log.next := by
    rw [State.refund_log]
    simp
  have hkeeps : ¬ keepsChanged s (s.refund cause t a) := not_keepsChanged_refl s
  have hstore := s.refund_dirtied cause t a
  refine ⟨?_, ?_, ?_, ?_⟩
  · rw [hstore]
  · exact iff_of_true (by rw [hstore]; simp) (.inr (.inr hnext))
  · exact iff_of_true (by rw [hstore]; simp) (.inr (fun hlog => hnext (by rw [hlog])))
  · rw [or_iff_left hkeeps, hstore]
    simp

theorem marksFollow_bookNearlyFull {s u : State} (h : marksFollow s u) : marksFollow s u.bookNearlyFull := by
  have hframe := u.bookNearlyFull_frame
  exact marksFollow_of_same h (hframe .purse (by simp)) (hframe .log (by simp)) (hframe .fixtures (by simp)) (hframe .refunds (by simp))
    (hframe .passes (by simp)) (hframe .store (by simp))

/-- The refund of an entry that enters CANCELLED, and the loss of its entitlement. -/
def State.refundCancelled (s : State) (t : Tag) (a : Credit) : State :=
  State.updateFixture t (fun e => { e with kind := .none, viewed := false }) (s.refund .operator t a)

theorem State.refundCancelled_marks (s : State) (t : Tag) (a : Credit) : marksFollow s (s.refundCancelled t a) :=
  marksFollow_seq (s.refund_marksFollow .operator t a) (State.updateFixture_marksFollow _ _ _) (.inr rfl) (.inr rfl) (.inl rfl) (.inr rfl) (.inr rfl)

/-- Two updates of the same entry are one. -/
theorem tableUpdate_twice {α : Type} (t : List (Option α)) {p : α → Bool} {f g : α → α} (hf : ∀ x, p (f x) = p x) :
    tableUpdate (tableUpdate t p (fun x => some (f x))) p (fun x => some (g x)) = tableUpdate t p (fun x => some (g (f x))) := by
  unfold tableUpdate
  rw [List.map_map]
  refine List.map_congr_left (fun o _ => ?_)
  cases o with
  | none => rfl
  | some x => cases hp : p x <;> simp [hp, hf]

variable {f : FixtureEntry → FixtureEntry} (hf : ∀ x, (f x).tag = x.tag) (he : s.fixture t = some e)
include hf he

theorem State.updateFixture_found : (s.updateFixture t f).fixture t = some (f e) := by
  rw [(s.updateFixture_spec t f hf).1, he]
  rfl

/-- What is kept of an IMPULSE entry changes where it is updated and then loses its entitlement. -/
theorem State.refundCancelled_keeps {a : Credit} (hkind : e.kind = .impulse a) : keepsChanged s ((s.updateFixture t f).refundCancelled t a) := by
  have htwice : ((s.updateFixture t f).refundCancelled t a).fixtures =
      tableUpdate s.fixtures (fun e => e.tag == t) (fun e => some { f e with kind := .none, viewed := false }) :=
    tableUpdate_twice s.fixtures (fun x => by rw [hf])
  refine .inl ?_
  rw [htwice]
  exact tableUpdate_kept he (by simp [keptFixture, hkind])

/-- An announcement that makes an entry CANCELLED marks the sections whose contents change. -/
theorem State.cancelled_marks (hkind : (f e).kind = e.kind) : marksFollow s ((s.updateFixture t f).cancelEffect t) := by
  have hupdate := s.updateFixture_marksFollow t f
  have hfound := State.updateFixture_found hf he
  by_cases himpulse : ∃ a, (f e).kind = .impulse a
  · obtain ⟨a, ha⟩ := himpulse
    by_cases hfull : 64 ≤ s.log.entries.length
    · rw [State.cancelEffect_atFull hfound ha hfull]
      refine marksFollow_bookEntitlement (marksFollow_of_same (marksFollow_seq hupdate (State.setRefunds_marksFollow _ (s.refunds ++ [t]))
        (.inl rfl) (.inl rfl) (.inr rfl) (.inl rfl) (.inl rfl)) rfl rfl rfl rfl rfl rfl) t
    · rw [State.cancelEffect_atRoom hfound ha (Nat.not_le.mp hfull)]
      refine marksFollow_bookEntitlement (marksFollow_bookNearlyFull ?_) t
      refine marksFollow_of_keeps hupdate (State.refundCancelled_marks _ t a) (.inl rfl) (.inl rfl) (iff_of_true ?_ (.inr ?_))
      · exact State.refundCancelled_keeps hf he (hkind.symm.trans ha)
      · exact keepsChanged_updateFixture (s := (s.updateFixture t f).refund .operator t a) hfound (by simp [keptFixture, ha])
  · rw [State.cancelEffect_other (fun x hx a ha => himpulse ⟨a, by rw [hfound] at hx; cases hx; exact ha⟩)]
    exact hupdate

end

end Sys2Proof.Machine

/-! Proofs: announcements settle O41, and cancellations (R72 to R74, R97, R99) settle O42. -/

namespace Sys2Proof.Machine

open Sys2Proof.Safety

set_option Elab.async false

section
variable {s : State} {cell : List Byte} {t : Tag} {e : FixtureEntry} {old : Schedule} {ph : Phase}

/-! ### What an announcement does to the entry of its tag (R72, R73) -/

/-- An announcement updates the entry of its tag, and the owner acts on an entry that enters CANCELLED. -/
theorem State.applyAnnouncement_found (h : announcementSound cell) (he : s.fixture (parseHeader cell).tag = some e) :
    ∃ f : FixtureEntry → FixtureEntry, (∀ x, (f x).tag = x.tag) ∧ (f e).kind = e.kind ∧
      (s.applyAnnouncement cell = (s.updateFixture (parseHeader cell).tag f).cancelEffect (parseHeader cell).tag ∨
        s.applyAnnouncement cell = s.updateFixture (parseHeader cell).tag f) := by
  cases hst : e.standing with
  | awaiting =>
    rw [State.applyAnnouncement_awaiting h he hst, State.announceAwaiting_eq]
    exact ⟨FixtureEntry.announced (announceSchedule cell) s.now, fun _ => rfl, rfl, ite_branch _ _⟩
  | scheduled old ph =>
    rw [State.applyAnnouncement_again h he hst, State.announceAgain_eq]
    exact ⟨FixtureEntry.reannounced (announceSchedule cell) old ph s.now, fun _ => rfl, rfl, ite_branch _ _⟩

theorem State.applyAnnouncement_marks (s : State) (cell : List Byte) : marksFollow s (s.applyAnnouncement cell) := by
  by_cases hsound : announcementSound cell
  · cases he : s.fixture (parseHeader cell).tag with
    | none =>
      rw [State.applyAnnouncement_new hsound he]
      exact s.announceNew_marks _ _
    | some e =>
      obtain ⟨f, htag, hkind, happly | happly⟩ := State.applyAnnouncement_found hsound he
      · rw [happly]
        exact State.cancelled_marks htag he hkind
      · rw [happly]
        exact s.updateFixture_marksFollow _ _
  · obtain ⟨r, hr⟩ : ∃ r, announceFault cell = some r := by
      by_cases htag : (parseHeader cell).tag = 0
      · exact ⟨_, announceFault_badTag htag⟩
      · exact ⟨_, announceFault_badSchedule htag hsound⟩
    rw [State.applyAnnouncement_fault hr]
    exact marksFollow_of_same (marksFollow_refl s) rfl rfl rfl rfl rfl rfl

/-- The completion of an announcement: its owner acts, and the head cell leaves. -/
theorem State.announcement_effect (hhead : s.headCell .fixture = some cell) : exec .announcement s = .next (s.applyAnnouncement cell).popCell ∧
    cellEffect s [.purse, .log, .fixtures, .refunds, .conds, .store] (s.applyAnnouncement cell).popCell :=
  ⟨congrArg Host.Outcome.next (State.complete_head hhead State.applyAnnouncement),
    cellEffect_of_owner (changesOnly_of_framed (s.applyAnnouncement_framed cell)) (by simp) (s.applyAnnouncement_memberships cell) (s.applyAnnouncement_marks cell)⟩

end

/-- Settles O41: a reason, a new entry, or the entry of the tag updated, each behind the departure of the head cell. -/
theorem announcementIsCheckedAndApplied : Obligations.AnnouncementIsCheckedAndApplied := by
  rintro s cell tag sch hhead rfl rfl
  obtain ⟨hexec, hframe, hmarks, hengine⟩ := State.announcement_effect hhead
  refine ⟨_, hexec, hframe, hmarks, hengine, announceSchedule_table133 cell, announceSchedule_limits cell, fun htag => ?_, fun htag hbad => ?_,
    fun hsound hnone => ⟨fun hplace => ?_, fun i hplace => ?_⟩, fun e hsound he hstatus => ?_⟩
  · rw [State.applyAnnouncement_fault (announceFault_badTag htag)]
    exact s.book_popCell _ _
  · rw [State.applyAnnouncement_fault (announceFault_badSchedule htag hbad)]
    exact s.book_popCell _ _
  · rw [State.applyAnnouncement_new hsound hnone, State.announceNew_noPlace hplace]
    exact s.book_popCell _ _
  · have hphase : (pay8 cell 0 = 1 → firstPhase (announceSchedule cell) s.now = .cancelled) ∧
        (pay8 cell 0 = 0 → table42 (announceSchedule cell) s.now.toNat (firstPhase (announceSchedule cell) s.now)) := by
      refine ⟨fun h => firstPhase_cancelled (announceSchedule_cancelled h), fun h => ?_⟩
      rw [firstPhase_derived (announceSchedule_scheduled h)]
      exact derivePhase_table42 _ _
    rw [State.applyAnnouncement_new hsound hnone]
    by_cases hcover : onOfferNow (newEntry (parseHeader cell).tag (announceSchedule cell) s.now) ∧ ∃ id, s.coveringPass (parseHeader cell).tag = some id
    · obtain ⟨hoffer, id, hid⟩ := hcover
      rw [State.announceNew_covered hplace hoffer hid]
      refine ⟨_, rfl, rfl, rfl, rfl, rfl, ⟨_, rfl, hphase⟩, rfl, rfl, rfl, fun id' _ hid' => ?_, fun hnot => ?_⟩
      · cases hid.symm.trans hid'
        exact ⟨rfl, rfl⟩
      · rcases hnot with hnot | hnot
        · exact absurd hoffer hnot
        · exact absurd (hid.symm.trans hnot) nofun
    · have hnot : ¬ onOfferNow (newEntry (parseHeader cell).tag (announceSchedule cell) s.now) ∨ s.coveringPass (parseHeader cell).tag = none := by
        rcases Classical.not_and_iff_not_or_not.mp hcover with hoffer | hid
        · exact .inl hoffer
        · exact .inr (Option.eq_none_iff_forall_not_mem.mpr (not_exists.mp hid))
      rw [State.announceNew_uncovered hplace hnot]
      refine ⟨_, rfl, rfl, rfl, rfl, rfl, ⟨_, rfl, hphase⟩, rfl, rfl, rfl, fun id hoffer hid => ?_, fun _ => ⟨rfl, rfl⟩⟩
      exact absurd ⟨hoffer, id, hid⟩ hcover
  · have hsch := announceSchedule_scheduled hstatus
    cases hst : e.standing with
    | awaiting =>
      rw [State.applyAnnouncement_awaiting hsound he hst, State.announceAwaiting_eq, hsch]
      obtain ⟨hthis, hothers⟩ := s.updateFixture_spec (parseHeader cell).tag (FixtureEntry.announced (announceSchedule cell) s.now) (fun _ => rfl)
      refine ⟨rfl, rfl, rfl, rfl, hothers, fun _ => ⟨derivePhase (announceSchedule cell) s.now, derivePhase_table42 _ _, hthis.trans ?_⟩, nofun⟩
      rw [he, ← firstPhase_derived hsch]
      rfl
    | scheduled old ph =>
      rw [State.applyAnnouncement_again hsound he hst, State.announceAgain_eq, if_neg (by simp [hsch])]
      obtain ⟨hthis, hothers⟩ := s.updateFixture_spec (parseHeader cell).tag (FixtureEntry.reannounced (announceSchedule cell) old ph s.now) (fun _ => rfl)
      refine ⟨rfl, rfl, rfl, rfl, hothers, nofun, fun old' ph' hst' => ⟨nextPhase (announceSchedule cell) s.now ph, ?_, ?_, hthis.trans ?_⟩⟩
      all_goals cases hst'
      · exact nextPhase_kept hsch
      · intro hph
        rw [nextPhase_derived hsch hph]
        exact derivePhase_table42 _ _
      · rw [he, Option.map_some, FixtureEntry.reannounced, hsch, Bool.false_or]

section
variable {s : State} {cell : List Byte} {t : Tag} {e : FixtureEntry} {f : FixtureEntry → FixtureEntry} {a : Credit}

/-! ### What entering CANCELLED does to an IMPULSE entry (R74, R97, R99) -/

/-- With a full log the tag joins the refund queue, and the entitlement stands. -/
theorem State.cancelEffect_waits (he : s.fixture t = some e) (hkind : e.kind = .impulse a) (hfull : 64 ≤ s.log.entries.length) :
    (s.cancelEffect t).fixtures = s.fixtures ∧ (s.cancelEffect t).purse = s.purse ∧ (s.cancelEffect t).log = s.log ∧
      (s.cancelEffect t).refunds = s.refunds ++ [t] ∧ condsOnly [.refundWaiting, .entitlementChanged] s (s.cancelEffect t) ∧
      (s.cancelEffect t).conds.refundWaiting = s.conds.refundWaiting.book (.length (s.refunds.length + 1)) ∧
      (s.cancelEffect t).conds.entitlementChanged = s.conds.entitlementChanged.book (.tag t) := by
  rw [State.cancelEffect_atFull he hkind hfull]
  refine ⟨rfl, rfl, rfl, rfl, fun k hk => ?_, rfl, rfl⟩
  rw [List.mem_cons, List.mem_singleton, not_or] at hk
  obtain ⟨hwaiting, hchanged⟩ := hk
  exact (Conditions.get_set_other _ _ hchanged).trans (Conditions.get_set_other _ _ hwaiting)

/-- With room in the log the entry is refunded and loses its entitlement. -/
theorem State.cancelEffect_refunded (he : s.fixture t = some e) (hkind : e.kind = .impulse a) (hroom : s.log.entries.length < 64) :
    (s.cancelEffect t).fixture t = some { e with kind := .none, viewed := false } ∧ (∀ u, u ≠ t → (s.cancelEffect t).fixture u = s.fixture u) ∧
      (s.cancelEffect t).purse = s.purse.refunded a ∧ (s.cancelEffect t).log = (s.refund .operator t a).log ∧ (s.cancelEffect t).refunds = s.refunds ∧
      condsOnly [.entitlementChanged, .logNearlyFull] s (s.cancelEffect t) ∧
      (s.cancelEffect t).conds.entitlementChanged = s.conds.entitlementChanged.book (.tag t) ∧
      (s.cancelEffect t).conds.logNearlyFull = nearlyFullAfter (s.log.entries.length + 1) s.conds.logNearlyFull ∧
      (s.cancelEffect t).store = (s.refundCancelled t a).store := by
  obtain ⟨hthis, hothers⟩ := (s.refund .operator t a).updateFixture_spec t (fun e => { e with kind := .none, viewed := false }) (fun _ => rfl)
  have hcount : (s.refundCancelled t a).logCount = s.log.entries.length + 1 := List.length_append
  obtain ⟨honly, hnearly⟩ := (s.refundCancelled t a).bookNearlyFull_conds
  have hframe := (s.refundCancelled t a).bookNearlyFull_frame
  have hlook := State.fixture_of_same (hframe .fixtures (by simp))
  have hchanged : (s.refundCancelled t a).bookNearlyFull.conds.entitlementChanged = s.conds.entitlementChanged := honly .entitlementChanged (by simp)
  rw [State.cancelEffect_atRoom he hkind hroom]
  refine ⟨(hlook t).trans (hthis.trans ?_), fun u hu => (hlook u).trans (hothers u hu), hframe .purse (by simp), hframe .log (by simp), hframe .refunds (by simp),
    fun k hk => ?_, congrArg (fun c => c.book (.tag t)) hchanged, hnearly.trans ?_, hframe .store (by simp)⟩
  · have hsame : (s.refund .operator t a).fixture t = s.fixture t := rfl
    rw [hsame, he]
    rfl
  · rw [List.mem_cons, List.mem_singleton, not_or] at hk
    obtain ⟨hentitlement, hlog⟩ := hk
    exact (Conditions.get_set_other _ _ hentitlement).trans (honly k (by simpa using hlog))
  · rw [hcount]
    rfl

theorem State.refundCancelled_dirtied (he : s.fixture t = some e) (hkind : e.kind = .impulse a) : dirtied true true true s (s.refundCancelled t a) := by
  refine dirtied_all (s.refund_dirtied .operator t a) (State.updateFixture_marksFollow _ _ _) ?_
  exact keepsChanged_updateFixture (s := s.refund .operator t a) he (by simp [keptFixture, hkind])

/-- All three sections are marked behind a step that sets marks alone. -/
theorem dirtied_all_of_marks {s u v : State} (h : marksFollow s u) (h' : dirtied true true true u v) : dirtied true true true s v := by
  obtain ⟨hstore, -, -, -⟩ := h
  unfold dirtied at h' ⊢
  rw [h', hstore]
  simp

/-- The entry of an announcement with status CANCELLED, its entitlement as it stands. -/
def FixtureEntry.cancelledBy (sch : Schedule) (e : FixtureEntry) : FixtureEntry :=
  { e with
    standing := .scheduled { sch with cancelled := true } .cancelled
    remaining := (match e.standing with
      | .awaiting => sch.allowance.toNat
      | .scheduled _ _ => min e.remaining sch.allowance.toNat)
    delivered := (match e.standing with
      | .awaiting => false
      | .scheduled _ _ => e.delivered) }

/-- An announcement with status CANCELLED updates the entry of its tag; its owner acts when the entry was not CANCELLED yet. -/
theorem State.applyAnnouncement_cancelled (h : announcementSound cell) (hstatus : pay8 cell 0 = 1) (he : s.fixture (parseHeader cell).tag = some e) :
    ∃ f : FixtureEntry → FixtureEntry, (∀ x, (f x).tag = x.tag) ∧ f e = e.cancelledBy (announceSchedule cell) ∧
      ((∃ old, e.standing = .scheduled old .cancelled) → s.applyAnnouncement cell = s.updateFixture (parseHeader cell).tag f) ∧
      ((∀ old, e.standing ≠ .scheduled old .cancelled) →
        s.applyAnnouncement cell = (s.updateFixture (parseHeader cell).tag f).cancelEffect (parseHeader cell).tag) := by
  have hsch := announceSchedule_cancelled hstatus
  cases hst : e.standing with
  | awaiting =>
    rw [State.applyAnnouncement_awaiting h he hst, State.announceAwaiting_eq, if_pos hsch]
    refine ⟨FixtureEntry.announced (announceSchedule cell) s.now, fun _ => rfl, ?_, nofun, fun _ => rfl⟩
    have hself : { announceSchedule cell with cancelled := true } = announceSchedule cell := by rw [← hsch]
    rw [FixtureEntry.announced, FixtureEntry.cancelledBy, hst, hself, firstPhase_cancelled hsch]
  | scheduled old ph =>
    rw [State.applyAnnouncement_again h he hst, State.announceAgain_eq]
    refine ⟨FixtureEntry.reannounced (announceSchedule cell) old ph s.now, fun _ => rfl, ?_, fun hph => if_neg ?_, fun hph => if_pos ⟨hsch, ?_⟩⟩
    · rw [FixtureEntry.reannounced, FixtureEntry.cancelledBy, hst, hsch, Bool.true_or, nextPhase_cancelled (.inr hsch)]
    · obtain ⟨old', hph⟩ := hph
      cases hph
      exact fun h => h.2 rfl
    · rintro rfl
      exact hph old rfl

end

/-- Settles O42: an announcement with status CANCELLED, and what entering CANCELLED does by kind and room. -/
theorem cancellationRefundsOrQueues : Obligations.CancellationRefundsOrQueues := by
  rintro s cell tag e hhead rfl hsound hstatus he
  obtain ⟨hexec, -, -, hengine⟩ := State.announcement_effect hhead
  obtain ⟨f, hf, hfe, hagain, hentered⟩ := State.applyAnnouncement_cancelled hsound hstatus he
  have hfound := State.updateFixture_found hf he
  obtain ⟨-, hothers⟩ := s.updateFixture_spec (parseHeader cell).tag f hf
  have hkind : (f e).kind = e.kind := by rw [hfe]; rfl
  have hviewed : (f e).viewed = e.viewed := by rw [hfe]; rfl
  have hsched : ∃ sch, (f e).standing = .scheduled sch .cancelled ∧ sch.cancelled = true := ⟨{ announceSchedule cell with cancelled := true }, by rw [hfe]; rfl, rfl⟩
  by_cases hold : ∃ old, e.standing = .scheduled old .cancelled
  · rw [hagain hold] at hexec hengine
    exact ⟨_, f e, hexec, hfound, hsched, by rw [hfe]; rfl, hothers, hengine, fun _ => ⟨hkind, hviewed, rfl, rfl, rfl, rfl⟩,
      fun hnot => absurd hold (not_exists.mpr hnot)⟩
  rw [hentered (not_exists.mp hold)] at hexec hengine
  by_cases himpulse : ∃ a, e.kind = .impulse a
  case neg =>
    have hother := State.cancelEffect_other (s := s.updateFixture (parseHeader cell).tag f) (t := (parseHeader cell).tag) (fun x hx a ha => by
      cases hfound.symm.trans hx
      exact himpulse ⟨a, hkind.symm.trans ha⟩)
    rw [hother] at hexec hengine
    exact ⟨_, f e, hexec, hfound, hsched, by rw [hfe]; rfl, hothers, hengine, fun h => absurd h hold, fun _ => ⟨fun _ => ⟨hkind, hviewed, rfl, rfl, rfl, rfl⟩,
      fun a ha => absurd ⟨a, ha⟩ himpulse, fun a ha => absurd ⟨a, ha⟩ himpulse⟩⟩
  obtain ⟨a, ha⟩ := himpulse
  by_cases hfull : 64 ≤ s.log.entries.length
  · obtain ⟨hfixtures, hpurse, hlog, hrefunds, honly, hwaiting, hchanged⟩ := State.cancelEffect_waits hfound (hkind.trans ha) hfull
    have hlook := State.fixture_of_same hfixtures
    refine ⟨_, f e, hexec, (hlook _).trans hfound, hsched, by rw [hfe]; rfl, fun u hu => (hlook u).trans (hothers u hu), hengine, fun h => absurd h hold,
      fun _ => ⟨fun hnot => absurd ha (hnot a), fun a' ha' _ => ⟨hkind.trans ha', hviewed, hpurse, hlog, hrefunds, honly, hwaiting, hchanged⟩,
        fun _ _ hroom => absurd hfull (Nat.not_le.mpr hroom)⟩⟩
  · obtain ⟨hthis, hrest, hpurse, hlog, hrefunds, honly, hchanged, hnearly, hstore⟩ := State.cancelEffect_refunded hfound (hkind.trans ha) (Nat.not_le.mp hfull)
    refine ⟨_, _, hexec, hthis, hsched, by rw [hfe]; rfl, fun u hu => (hrest u hu).trans (hothers u hu), hengine, fun h => absurd h hold,
      fun _ => ⟨fun hnot => absurd ha (hnot a), fun _ _ h => absurd h hfull, fun a' ha' _ => ?_⟩⟩
    cases ha.symm.trans ha'
    refine ⟨rfl, rfl, hrefunds, ⟨credited s.purse.balance a, credited_eq _ _, hpurse, hlog⟩, honly, hchanged, hnearly, ?_⟩
    have hdirty := dirtied_of_store (State.refundCancelled_dirtied hfound (hkind.trans ha)) hstore
    exact dirtied_all_of_marks (s.updateFixture_marksFollow (parseHeader cell).tag f) hdirty

end Sys2Proof.Machine

/-! Proofs: the refund queue is served (R97, R112), and LOG_ACK (R107, R110 to R113; O39). -/

namespace Sys2Proof.Machine

open Sys2Proof.Safety

set_option Elab.async false

/-! ### Marks of steps one after the other -/

theorem dirtied_trans {a b c a' b' c' : Bool} {s u t : State} (h : dirtied a b c s u) (h' : dirtied a' b' c' u t) :
    dirtied (a || a') (b || b') (c || c') s t := by
  unfold dirtied at *
  rw [h', h]
  simp [Bool.or_assoc]

theorem dirtied_refl (s : State) : dirtied false false false s s := by simp [dirtied]

/-! ### One tag is served (R75, R97) -/

/-- An entry that has lost its entitlement. -/
def FixtureEntry.disentitled (e : FixtureEntry) : FixtureEntry := { e with kind := .none, viewed := false }

theorem paidFor_none {s : State} {t : Tag} (h : s.fixture t = none) : paidFor s t = 0 := by
  unfold paidFor
  rw [h]

theorem paidFor_some {s : State} {t : Tag} {e : FixtureEntry} (h : s.fixture t = some e) : paidFor s t = e.paid := by
  unfold paidFor FixtureEntry.paid
  rw [h]
  obtain ⟨tag, standing, kind, viewed, remaining, delivered⟩ := e
  cases kind <;> rfl

theorem paidFor_of_same {s u : State} {t : Tag} (h : u.fixture t = s.fixture t) : paidFor u t = paidFor s t := by
  unfold paidFor
  rw [h]

theorem State.serveTag_eq (s : State) (t : Tag) (rest : List Tag) :
    s.serveTag t rest = State.setRefunds rest (State.updateFixture t FixtureEntry.disentitled (s.refund .operator t (paidFor s t))) := by
  unfold State.serveTag
  cases h : s.fixture t with
  | none =>
    rw [paidFor_none h]
    rfl
  | some e =>
    rw [paidFor_some h]
    rfl

theorem State.serveTag_fixture (s : State) (t : Tag) (rest : List Tag) :
    (s.serveTag t rest).fixture t = (s.fixture t).map FixtureEntry.disentitled ∧ ∀ u, u ≠ t → (s.serveTag t rest).fixture u = s.fixture u := by
  rw [State.serveTag_eq]
  exact (s.refund .operator t (paidFor s t)).updateFixture_spec t FixtureEntry.disentitled (fun _ => rfl)

theorem State.serveTag_purse (s : State) (t : Tag) (rest : List Tag) : (s.serveTag t rest).purse = refunded s.purse (paidFor s t).toNat := by
  rw [State.serveTag_eq]
  rfl

theorem State.serveTag_log (s : State) (t : Tag) (rest : List Tag) : (s.serveTag t rest).log =
    { entries := s.log.entries ++ [newEntryOf s (.refund .operator) t (paidFor s t) (refunded s.purse (paidFor s t).toNat).balance], next := s.log.next + 1 } := by
  rw [State.serveTag_eq]
  rfl

/-- Serving a tag enters the log, and the queue that S2 keeps changes. -/
theorem State.serveTag_dirtied {s : State} {t : Tag} {rest : List Tag} (h : s.refunds = t :: rest) : dirtied true true true s (s.serveTag t rest) := by
  have hmarks := marksFollow_seq (State.updateFixture_marksFollow (s.refund .operator t (paidFor s t)) t FixtureEntry.disentitled)
    (State.setRefunds_marksFollow _ rest) (.inl rfl) (.inl rfl) (.inr rfl) (.inl rfl) (.inl rfl)
  rw [State.serveTag_eq]
  refine dirtied_all (s.refund_dirtied .operator t (paidFor s t)) hmarks (.inr (.inl ?_))
  show rest ≠ s.refunds
  rw [h]
  simp

theorem State.serveTag_purseLaw {s : State} (h : purseLaw s) (t : Tag) (rest : List Tag) : purseLaw (s.serveTag t rest) := by
  rw [State.serveTag_eq]
  exact s.refund_purseLaw .operator t (paidFor s t) h

/-! ### Tags served one after the other (R112) -/

theorem refundedAll_cons (s : State) (t : Tag) (tags : List Tag) (p : Purse) :
    refundedAll s (t :: tags) p = refundedAll s tags (refunded p (paidFor s t).toNat) := rfl

theorem refundedAll_congr {s u : State} {tags : List Tag} (h : ∀ t ∈ tags, paidFor u t = paidFor s t) (p : Purse) : refundedAll u tags p = refundedAll s tags p := by
  induction tags generalizing p with
  | nil => rfl
  | cons t tags ih =>
    rw [refundedAll_cons, refundedAll_cons, h t List.mem_cons_self]
    exact ih (fun x hx => h x (List.mem_cons_of_mem t hx)) _

/-- The entries of the tags behind the first are those that the state behind the first makes. -/
theorem refundEntries_cons {s u : State} {t : Tag} {tags : List Tag} (hnext : u.log.next = s.log.next + 1) (hnow : u.now = s.now)
    (h : ∀ x ∈ tags, paidFor u x = paidFor s x) (p : Purse) : refundEntries s p (t :: tags) =
      newEntryOf s (.refund .operator) t (paidFor s t) (refunded p (paidFor s t).toNat).balance :: refundEntries u (refunded p (paidFor s t).toNat) tags := by
  unfold refundEntries
  rw [List.zipIdx_cons, List.map_cons]
  refine List.cons_eq_cons.mpr ⟨?_, ?_⟩
  · simp [newEntryOf, refundedAll]
  · rw [Nat.zero_add, List.zipIdx_succ, List.map_map]
    refine List.map_congr_left (fun x hx => ?_)
    obtain ⟨tag, i⟩ := x
    have hmem : tag ∈ tags := List.fst_mem_of_mem_zipIdx hx
    have hseq : s.log.next + BitVec.ofNat 32 (i + 1) = u.log.next + BitVec.ofNat 32 i := by
      rw [hnext]
      bv_omega
    have hpurse : refundedAll s ((t :: tags).take (i + 1 + 1)) p = refundedAll u (tags.take (i + 1)) (refunded p (paidFor s t).toNat) :=
      (refundedAll_congr (fun y hy => h y (List.mem_of_mem_take hy)) _).symm
    simp only [Function.comp, hseq, hpurse, h tag hmem, hnow]

/-- The tags of the queue's front are served, each by one REFUND entry, and the rest waits. -/
structure served (s : State) (tags rest : List Tag) (v : State) : Prop where
  frame : changesOnly [.purse, .log, .fixtures, .refunds, .store] s v
  count : v.log.entries.length = s.log.entries.length + tags.length
  next : v.log.next = s.log.next + BitVec.ofNat 32 tags.length
  refunds : v.refunds = rest
  found : ∀ t ∈ tags, v.fixture t = (s.fixture t).map FixtureEntry.disentitled
  other : ∀ t, t ∉ tags → v.fixture t = s.fixture t
  purse : v.purse = { s.purse with balance := v.purse.balance, reference := v.purse.reference, spent := v.purse.spent }
  law : purseLaw s → purseLaw v
  marks : dirtied (decide (0 < tags.length)) (decide (0 < tags.length)) (decide (0 < tags.length)) s v
  credit : tags.Nodup → v.purse = refundedAll s tags s.purse ∧ v.log.entries = s.log.entries ++ refundEntries s s.purse tags

theorem served.stand {s : State} {rest : List Tag} (h : s.refunds = rest) : served s [] rest s where
  frame := changesOnly_refl _ _
  count := rfl
  next := (BitVec.add_zero _).symm
  refunds := h
  found := nofun
  other := fun _ _ => rfl
  purse := rfl
  law := id
  marks := dirtied_refl s
  credit := fun _ => ⟨rfl, (List.append_nil _).symm⟩

theorem served.front {s v : State} {t : Tag} {waiting tags rest : List Tag} (hq : s.refunds = t :: waiting) (h : served (s.serveTag t waiting) tags rest v) :
    served s (t :: tags) rest v := by
  obtain ⟨hthis, hothers⟩ := s.serveTag_fixture t waiting
  have hentries : (s.serveTag t waiting).log.entries.length = s.log.entries.length + 1 := by rw [State.serveTag_log]; exact List.length_append
  have hnext : (s.serveTag t waiting).log.next = s.log.next + 1 := by rw [State.serveTag_log]
  refine ⟨changesOnly_trans (s.serveTag_frame t waiting) h.frame, ?_, ?_, h.refunds, fun x hx => ?_, fun x hx => ?_, ?_, fun hlaw => h.law (s.serveTag_purseLaw hlaw t waiting),
    ?_, fun hnodup => ?_⟩
  · rw [h.count, hentries, List.length_cons]
    omega
  · rw [h.next, hnext, List.length_cons]
    bv_omega
  · by_cases hmem : x ∈ tags
    · rw [h.found x hmem]
      by_cases heq : x = t
      · rw [heq, hthis, Option.map_map]
        rfl
      · rw [hothers x heq]
    · obtain rfl : x = t := (List.mem_cons.mp hx).resolve_right hmem
      rw [h.other x hmem, hthis]
  · rw [List.mem_cons, not_or] at hx
    rw [h.other x hx.2, hothers x hx.1]
  · rw [h.purse, State.serveTag_purse]
    rfl
  · have hmarks := dirtied_trans (State.serveTag_dirtied hq) h.marks
    simpa using hmarks
  · obtain ⟨hfresh, hnodup'⟩ := List.nodup_cons.mp hnodup
    have hpaid : ∀ x ∈ tags, paidFor (s.serveTag t waiting) x = paidFor s x := fun x hx => paidFor_of_same (hothers x (fun heq => hfresh (heq ▸ hx)))
    obtain ⟨hpurse, hmade⟩ := h.credit hnodup'
    refine ⟨?_, ?_⟩
    · rw [hpurse, refundedAll_congr hpaid, State.serveTag_purse, refundedAll_cons]
    · have hnow : (s.serveTag t waiting).now = s.now := congrArg (fun c => if c.running then c.value else 0) ((s.serveTag_frame t waiting) .clock (by simp) : (s.serveTag t waiting).clock = s.clock)
      rw [hmade, refundEntries_cons hnext hnow hpaid, State.serveTag_log, State.serveTag_purse, List.append_assoc]
      rfl

theorem serveFrom_served (q : List Tag) : ∀ s : State, s.refunds = q →
    served s (q.take (64 - s.log.entries.length)) (q.drop (64 - s.log.entries.length)) (serveFrom q s) := by
  induction q with
  | nil =>
    intro s h
    rw [List.take_nil, List.drop_nil]
    exact served.stand h
  | cons t waiting ih =>
    intro s h
    by_cases hroom : s.log.entries.length < 64
    · have hcount : 64 - s.log.entries.length = 64 - (s.serveTag t waiting).log.entries.length + 1 := by
        rw [State.serveTag_log, List.length_append, List.length_singleton]
        omega
      rw [serveFrom_room t waiting s hroom, hcount, List.take_succ_cons, List.drop_succ_cons]
      exact served.front h (ih _ (s.serveTag_refunds t waiting))
    · have hfull : 64 - s.log.entries.length = 0 := Nat.sub_eq_zero_of_le (Nat.not_lt.mp hroom)
      rw [serveFrom_full _ s (Nat.not_lt.mp hroom), hfull]
      exact served.stand h

/-! ### The conditions are settled (R113) -/

section
variable {s : State} {before : List Tag}

theorem State.settleQueue_stands (h : s.refunds = before) : s.settleQueue before = s := by
  have hnone : ¬ 0 < before.length - s.refunds.length := by rw [h]; omega
  unfold State.settleQueue
  simp only [if_neg hnone]
  exact if_neg fun hempty => hempty.1 (h ▸ hempty.2)

theorem State.settleQueue_emptied (h : s.refunds = []) (hbefore : before ≠ []) : s.settleQueue before = (s.unbook .refundWaiting).bookNearlyFull := by
  have hserved : 0 < before.length - s.refunds.length := by
    rw [h]
    exact List.length_pos_iff.mpr hbefore
  unfold State.settleQueue
  simp only [if_pos hserved]
  exact congrArg State.bookNearlyFull (if_pos ⟨hbefore, h⟩)

theorem State.settleQueue_left (h : s.refunds ≠ []) (hlt : s.refunds.length < before.length) :
    s.settleQueue before = (s.book .refundWaiting (.length s.refunds.length)).bookNearlyFull := by
  have hserved : 0 < before.length - s.refunds.length := by omega
  unfold State.settleQueue
  simp only [if_pos hserved]
  exact congrArg State.bookNearlyFull (if_neg fun hempty => h hempty.2)

/-- LOG_NEARLY_FULL is settled behind a change of REFUND_WAITING alone. -/
theorem nearlyFull_settled {u : State} (honly : condsOnly [.refundWaiting] s u) (hlog : u.log = s.log) :
    condsOnly [.refundWaiting, .logNearlyFull] s u.bookNearlyFull ∧ u.bookNearlyFull.conds.refundWaiting = u.conds.refundWaiting ∧
      u.bookNearlyFull.conds.logNearlyFull = nearlyFullAfter s.log.entries.length s.conds.logNearlyFull := by
  obtain ⟨hkeep, hbook⟩ := u.bookNearlyFull_conds
  have hlast : u.conds.logNearlyFull = s.conds.logNearlyFull := honly .logNearlyFull (by simp)
  refine ⟨fun k hk => ?_, hkeep .refundWaiting (by simp), ?_⟩
  · rw [List.mem_cons, List.mem_singleton, not_or] at hk
    exact (hkeep k (by simpa using hk.2)).trans (honly k (by simpa using hk.1))
  · rw [hbook, hlast, State.logCount, hlog]

end

/-- What the settling of the conditions does behind the serving of the queue's front. -/
theorem State.settleQueue_conds {s : State} {tags rest : List Tag} (h : s.refunds = rest) :
    condsOnly [.refundWaiting, .logNearlyFull] s (s.settleQueue (tags ++ rest)) ∧
      (tags = [] → (s.settleQueue (tags ++ rest)).conds = s.conds) ∧
      (tags ≠ [] → rest = [] → (s.settleQueue (tags ++ rest)).conds.refundWaiting = { booked := false, count := 0, data := none }) ∧
      (tags ≠ [] → rest ≠ [] → (s.settleQueue (tags ++ rest)).conds.refundWaiting = s.conds.refundWaiting.book (.length rest.length)) ∧
      (tags ≠ [] → (s.settleQueue (tags ++ rest)).conds.logNearlyFull = nearlyFullAfter s.log.entries.length s.conds.logNearlyFull) := by
  by_cases htags : tags = []
  · rw [State.settleQueue_stands (by rw [h, htags, List.nil_append])]
    exact ⟨condsOnly_refl _ _, fun _ => rfl, fun hne => absurd htags hne, fun hne => absurd htags hne, fun hne => absurd htags hne⟩
  by_cases hrest : rest = []
  · rw [State.settleQueue_emptied (h.trans hrest) (by simp [htags])]
    obtain ⟨honly, hwaiting, hnearly⟩ := nearlyFull_settled (s.unbook_spec .refundWaiting).2.2 rfl
    exact ⟨honly, fun hnil => absurd hnil htags, fun _ _ => hwaiting, fun _ hne => absurd hrest hne, fun _ => hnearly⟩
  · rw [State.settleQueue_left (by rwa [h]) (by rw [h, List.length_append]; exact Nat.lt_add_of_pos_left (List.length_pos_iff.mpr htags)), h]
    obtain ⟨honly, hwaiting, hnearly⟩ := nearlyFull_settled (s.book_spec .refundWaiting (.length rest.length)).2.2 rfl
    exact ⟨honly, fun hnil => absurd hnil htags, fun _ hnil => absurd hnil hrest, fun _ _ => hwaiting, fun _ => hnearly⟩

/-! ### LOG_ACK (R107, R110 to R113) -/

theorem refundEntries_congr {s u : State} {tags : List Tag} (hnext : u.log.next = s.log.next) (hnow : u.now = s.now)
    (h : ∀ t ∈ tags, paidFor u t = paidFor s t) (p : Purse) : refundEntries u p tags = refundEntries s p tags := by
  unfold refundEntries
  refine List.map_congr_left (fun x hx => ?_)
  obtain ⟨tag, i⟩ := x
  rw [hnext, hnow, h tag (List.fst_mem_of_mem_zipIdx hx), refundedAll_congr (fun y hy => h y (List.mem_of_mem_take hy))]

theorem refundEntries_length (s : State) (p : Purse) (tags : List Tag) : (refundEntries s p tags).length = tags.length := by
  simp [refundEntries]

theorem refundEntries_getElem? {s : State} {tags : List Tag} {j : Nat} {t : Tag} (h : tags[j]? = some t) (p : Purse) :
    (refundEntries s p tags)[j]? = some { seq := s.log.next + BitVec.ofNat 32 j, kind := .refund .operator, ident := t, amount := paidFor s t, clock := s.now
                                          balanceAfter := (refundedAll s (tags.take (j + 1)) p).balance } := by
  simp [refundEntries, List.getElem?_map, List.getElem?_zipIdx, h]

/-- What the front of a queue takes is bounded by the queue. -/
theorem take_drop_min {α : Type} (xs : List α) (n : Nat) : xs.take (min xs.length n) = xs.take n ∧ xs.drop (min xs.length n) = xs.drop n := by
  rcases Nat.le_total xs.length n with h | h
  · rw [Nat.min_eq_left h, List.take_length, List.drop_length, List.take_of_length_le h, List.drop_of_length_le h]
    exact ⟨rfl, rfl⟩
  · rw [Nat.min_eq_right h]
    exact ⟨rfl, rfl⟩

theorem removeEntries_dirtied (s : State) (k : Nat) : dirtied (decide (0 < k)) (decide (0 < k)) false s (s.removeEntries k) := by
  simp [dirtied, State.removeEntries, State.markS0, State.markS1]

theorem sequencedState_dirtied (s : State) (cell : List Byte) : dirtied true false false s (sequencedState s cell) := by
  simp [dirtied, sequencedState, s0Dirty]

/-- The state in which the owner of LOG_ACK serves the queue: the acknowledged entries have left. -/
def acknowledged (s : State) (cell : List Byte) (k : Nat) : State := (sequencedState s cell).removeEntries k

theorem acknowledged_purse {s : State} {cell : List Byte} {k : Nat} {folded : Purse} (h : folded = { sequenced s cell with
      reference := s.purse.reference - amounts (s.log.entries.take k) (fun e => !isRefund e) + amounts (s.log.entries.take k) isRefund }) :
    (acknowledged s cell k).purse = folded := by
  have hsum : s.purse.reference + foldSum (s.log.entries.take k) =
      s.purse.reference - amounts (s.log.entries.take k) (fun e => !isRefund e) + amounts (s.log.entries.take k) isRefund := by
    rw [foldSum_eq_amounts]
    omega
  rw [h, ← hsum]
  rfl

theorem acknowledged_frame (s : State) (cell : List Byte) (k : Nat) : changesOnly [.purse, .log, .store] s (acknowledged s cell k) := by
  intro b hb; cases b <;> first | rfl | simp at hb

theorem acknowledged_dirtied (s : State) (cell : List Byte) (k : Nat) : dirtied true (decide (0 < k)) false s (acknowledged s cell k) := by
  have hboth := dirtied_trans (sequencedState_dirtied s cell) (removeEntries_dirtied (sequencedState s cell) k)
  rwa [Bool.true_or, Bool.false_or] at hboth

theorem exec_logAck {s : State} {cell : List Byte} {k : Nat} (h : unitGrantAtHead s 7 cell) (hk : ackCount s.log.entries (grantAmount cell) = k) :
    exec .logAck s = .next ((acknowledged s cell k).serveRefunds.settleQueue s.refunds).popCell := by
  obtain ⟨hhead, hunit, happlies⟩ := h
  refine congrArg Host.Outcome.next ((State.completeGrant_applied hhead happlies _).trans ?_)
  rw [State.advanceSeq_unit hunit happlies, ← hk]
  rfl

/-- Settles O39: the entries leave, the queue's front is served, the conditions are settled, and the head cell leaves. -/
theorem logAckRemovesFoldsAndServes : Obligations.LogAckRemovesFoldsAndServes := by
  intro s cell k m hgrant hsound hk hm
  obtain ⟨hnodup, -, -, hwaits, -, -⟩ := hsound
  have hack : ackCount s.log.entries (grantAmount cell) = k := by
    rw [hk]
    cases s.log.entries <;> rfl
  have hexec : exec .logAck s = .next ((serveFrom s.refunds (acknowledged s cell k)).settleQueue s.refunds).popCell := exec_logAck hgrant hack
  have hstart := acknowledged_frame s cell k
  have hdirty := acknowledged_dirtied s cell k
  have hlog : (acknowledged s cell k).log = { s.log with entries := s.log.entries.drop k } := rfl
  have hroom : 64 - (acknowledged s cell k).log.entries.length = 64 - (s.log.entries.length - k) := by rw [hlog, List.length_drop]
  have hserved := serveFrom_served s.refunds (acknowledged s cell k) rfl
  obtain ⟨htake, hdrop⟩ := take_drop_min s.refunds (64 - (s.log.entries.length - k))
  rw [hroom, ← htake, ← hdrop, ← hm] at hserved
  obtain ⟨hframe, hcount, hnext, hrefunds, hfound, hother, hpurse, hlaw, hmarks, hcredit⟩ := hserved
  obtain ⟨hcredit, hmade⟩ := hcredit (hnodup.sublist (List.take_sublist _ _))
  have hlen : (s.refunds.take m).length = m := by rw [List.length_take, hm]; omega
  obtain ⟨honly, hidle, hempty, hleft, hnearly⟩ := State.settleQueue_conds (tags := s.refunds.take m) hrefunds
  rw [List.take_append_drop] at honly hidle hempty hleft hnearly
  have hsettle := State.settleQueue_frame (serveFrom s.refunds (acknowledged s cell k)) s.refunds
  have hconds : (serveFrom s.refunds (acknowledged s cell k)).conds = s.conds := (hframe .conds (by simp)).trans (hstart .conds (by simp))
  have hzero : m = 0 ↔ s.refunds.take m = [] := by rw [← List.length_eq_zero_iff, hlen]
  have hsome : 0 < m → s.refunds.take m ≠ [] := fun h hnil => Nat.ne_of_gt h (hzero.mpr hnil)
  have hpaid : ∀ t ∈ s.refunds.take m, paidFor (acknowledged s cell k) t = paidFor s t := fun _ _ => rfl
  have hfixture := State.fixture_of_same (hsettle .fixtures (by simp))
  generalize serveFrom s.refunds (acknowledged s cell k) = w at *
  generalize w.settleQueue s.refunds = v at *
  have hms : v.purse.memberships = s.purse.memberships := by
    rw [hsettle .purse (by simp), hpurse]
    rfl
  have hengine : v.engine = s.engine := (hsettle .engine (by simp)).trans ((hframe .engine (by simp)).trans (hstart .engine (by simp)))
  have hpp : v.purse = w.purse := hsettle .purse (by simp)
  have hpl : v.log = w.log := hsettle .log (by simp)
  have hkept : v.refunds = w.refunds := hsettle .refunds (by simp)
  have hlimits := hpp.trans hpurse
  refine ⟨v.popCell, refundEntries s (acknowledged s cell k).purse (s.refunds.take m), ?exec, ?frame, ?engine, ?refunds, ?entries, ?length, ?next, ?tags, ?others, ?folded,
    ?lastSeq, hms, ?zone, ?cap, ?overdraft, ?law, ?purse, ?conds, ?condsIdle, ?emptied, ?left, ?nearly, ?marks⟩
  case exec => exact hexec
  case frame =>
    refine changesOnly_trans (changesOnly_mono hstart (by simp)) (changesOnly_trans (changesOnly_mono hframe (by simp)) ?_)
    exact changesOnly_trans (changesOnly_mono hsettle (by simp)) (changesOnly_mono v.popCell_frame (by simp))
  case engine => exact congrArg State.engine (State.popCell_of hengine hms)
  case refunds => exact hkept.trans hrefunds
  case entries => exact (congrArg PurchaseLog.entries hpl).trans (hmade.trans (congrArg _ (refundEntries_congr (s := s) rfl rfl hpaid _)))
  case length => rw [refundEntries_length, hlen]
  case next => rw [← hlen]; exact (congrArg PurchaseLog.next hpl).trans hnext
  case tags =>
    intro j tag htag
    have hmem := List.mem_of_getElem? htag
    obtain ⟨e, he, -, -⟩ := hwaits tag (List.mem_of_mem_take hmem)
    refine ⟨e, _, he, refundEntries_getElem? htag _, rfl, rfl, paidFor_some he, rfl, rfl, (hfixture tag).trans ((hfound tag hmem).trans ?_)⟩
    exact congrArg (Option.map FixtureEntry.disentitled) he
  case others => exact fun u hu => (hfixture u).trans (hother u hu)
  case folded =>
    intro folded hfolded
    rw [acknowledged_purse hfolded] at hcredit ⊢
    exact ⟨hpp.trans (hcredit.trans (refundedAll_congr hpaid _)), rfl⟩
  case lastSeq | zone | cap | overdraft => exact hlimits ▸ rfl
  case law =>
    intro h
    have hlawful := hlaw (State.removeEntries_purseLaw (sequencedState s cell) k h)
    rw [purseLaw_iff] at hlawful ⊢
    rwa [← hpp, ← hpl] at hlawful
  case purse =>
    intro h0
    rw [hzero.mp h0] at hcredit
    have hstand := hpp.trans hcredit
    exact ⟨(congrArg Purse.balance hstand).trans rfl, (congrArg Purse.spent hstand).trans rfl⟩
  case conds => exact condsOnly_trans (condsOnly_of_eq hconds) honly
  case condsIdle => exact fun h0 => (hidle (hzero.mp h0)).trans hconds
  case emptied => exact fun hpos hnil => hempty (hsome hpos) hnil
  case left =>
    intro hne hpos
    rw [← hconds]
    exact hleft (hsome hpos) hne
  case nearly =>
    intro hpos
    rw [← hconds]
    exact (hnearly (hsome hpos)).trans (congrArg (fun l : PurchaseLog => nearlyFullAfter l.entries.length w.conds.logNearlyFull) hpl.symm)
  case marks =>
    have hall := dirtied_of_store (dirtied_trans hdirty hmarks) (hsettle .store (by simp))
    rw [hlen, Bool.true_or, Bool.false_or] at hall
    exact hall

end Sys2Proof.Machine

/-! Proofs: what each record of S2 does at the end of the restore (R74, R82, R175). -/

namespace Sys2Proof.Machine

open Sys2Proof.Safety

set_option Elab.async false

/-! ### Queued records (R175) -/

theorem recordKind_eq (r : FixtureRec) : recordKind r = keptKind r := by
  unfold recordKind keptKind
  cases r.kind <;> rfl

theorem requeued_eq (r : FixtureRec) (sch : Schedule) (e : FixtureEntry) : e.requeued r sch = { e with
      standing := (match e.standing with
        | .scheduled own _ => cancelledBy own
        | .awaiting => cancelledBy sch)
      kind := .impulse r.paid, viewed := r.viewed } := by
  obtain ⟨tag, standing, kind, viewed, remaining, delivered⟩ := e
  cases standing <;> rfl

theorem State.joinRefunds_refunds (s : State) (t : Tag) : (s.joinRefunds t).refunds = if t ∈ s.refunds then s.refunds else s.refunds ++ [t] := by
  unfold State.joinRefunds
  by_cases h : t ∈ s.refunds
  · rw [if_pos h, if_pos (List.contains_iff_mem.mpr h)]
  · rw [if_neg h, if_neg (mt List.contains_iff_mem.mp h)]
    rfl

theorem State.joinRefunds_frame (s : State) (t : Tag) : changesOnly [.refunds, .store] s (s.joinRefunds t) :=
  changesOnly_ite (fun _ => changesOnly_refl _ _) (fun _ => s.setRefunds_frame _)

section
variable {s : State} {r : FixtureRec} {sch : Schedule} {e : FixtureEntry} {i : Nat}

theorem State.restoreRecord_requeued (hq : r.queued = some sch) (he : s.fixture r.tag = some e) :
    s.restoreRecord r = State.joinRefunds r.tag (s.updateFixture r.tag (FixtureEntry.requeued r sch)) := by
  unfold State.restoreRecord State.restoreQueued
  simp only [hq, he]

theorem State.restoreRecord_queuedNew (hq : r.queued = some sch) (he : s.fixture r.tag = none) (hplace : placeIn s.fixtures (evictable s) i) :
    s.restoreRecord r = State.joinRefunds r.tag (s.setFixtures (s.fixtures.set i (some (queuedEntry r sch)))) := by
  unfold State.restoreRecord State.restoreQueued
  simp only [hq, he, State.createFixture_place hplace]

theorem State.restoreRecord_queuedFull (hq : r.queued = some sch) (he : s.fixture r.tag = none) (hplace : noPlaceIn s.fixtures (evictable s)) :
    s.restoreRecord r = s.book .tableFull (.table r.tag .fixtureTable) := by
  unfold State.restoreRecord State.restoreQueued
  simp only [hq, he, State.createFixture_noPlace hplace]

/-- What a queued record leaves of the entry that holds its tag. -/
theorem State.restoreRecord_requeued_spec (hq : r.queued = some sch) (he : s.fixture r.tag = some e) :
    changesOnly [.fixtures, .refunds, .store] s (s.restoreRecord r) ∧ (s.restoreRecord r).fixture r.tag = some (e.requeued r sch) ∧
      (∀ u, u ≠ r.tag → (s.restoreRecord r).fixture u = s.fixture u) ∧
      (s.restoreRecord r).refunds = (if r.tag ∈ s.refunds then s.refunds else s.refunds ++ [r.tag]) := by
  obtain ⟨-, hothers⟩ := s.updateFixture_spec r.tag (FixtureEntry.requeued r sch) (fun _ => rfl)
  have hupdate := s.updateFixture_frame r.tag (FixtureEntry.requeued r sch)
  have hjoin := (s.updateFixture r.tag (FixtureEntry.requeued r sch)).joinRefunds_frame r.tag
  have hlook := State.fixture_of_same (hjoin .fixtures (by simp))
  rw [State.restoreRecord_requeued hq he]
  exact ⟨changesOnly_trans (changesOnly_mono hupdate (by simp)) (changesOnly_mono hjoin (by simp)),
    (hlook _).trans (State.updateFixture_found (fun _ => rfl) he), fun u hu => (hlook u).trans (hothers u hu), State.joinRefunds_refunds _ _⟩

theorem State.restoreRecord_queuedNew_spec (hq : r.queued = some sch) (he : s.fixture r.tag = none) (hplace : placeIn s.fixtures (evictable s) i) :
    changesOnly [.fixtures, .refunds, .store] s (s.restoreRecord r) ∧ (s.restoreRecord r).fixtures = s.fixtures.set i (some (queuedEntry r sch)) ∧
      (s.restoreRecord r).refunds = (if r.tag ∈ s.refunds then s.refunds else s.refunds ++ [r.tag]) := by
  have hset := s.setFixtures_frame (s.fixtures.set i (some (queuedEntry r sch)))
  have hjoin := (s.setFixtures (s.fixtures.set i (some (queuedEntry r sch)))).joinRefunds_frame r.tag
  rw [State.restoreRecord_queuedNew hq he hplace]
  exact ⟨changesOnly_trans (changesOnly_mono hset (by simp)) (changesOnly_mono hjoin (by simp)), hjoin .fixtures (by simp), State.joinRefunds_refunds _ _⟩

/-! ### Records without the queued mark (R74, R175) -/

/-- The entry that a record is merged into. -/
def FixtureEntry.merged (r : FixtureRec) (e : FixtureEntry) : FixtureEntry := { e with kind := recordKind r, viewed := r.viewed }

theorem State.restoreRecord_merged (hq : r.queued = none) (he : s.fixture r.tag = some e) (hst : ∀ sch, e.standing ≠ .scheduled sch .cancelled) :
    s.restoreRecord r = s.updateFixture r.tag (FixtureEntry.merged r) := by
  unfold State.restoreRecord State.restoreFixture
  simp only [hq, he]
  exact if_neg (fun hc => (not_exists.mpr hst) ((e.isCancelled_iff).mp hc))

theorem State.restoreRecord_cancelled (hq : r.queued = none) (he : s.fixture r.tag = some e) (hst : e.standing = .scheduled sch .cancelled) :
    s.restoreRecord r = (s.updateFixture r.tag (FixtureEntry.merged r)).cancelEffect r.tag := by
  unfold State.restoreRecord State.restoreFixture
  simp only [hq, he]
  exact if_pos ((e.isCancelled_iff).mpr ⟨sch, hst⟩)

theorem State.restoreRecord_new (hq : r.queued = none) (he : s.fixture r.tag = none) (hplace : placeIn s.fixtures (evictable s) i) :
    s.restoreRecord r = s.setFixtures (s.fixtures.set i (some (awaitingEntry r.tag (recordKind r) r.viewed))) := by
  unfold State.restoreRecord State.restoreFixture
  simp only [hq, he, State.createFixture_place hplace]

theorem State.restoreRecord_full (hq : r.queued = none) (he : s.fixture r.tag = none) (hplace : noPlaceIn s.fixtures (evictable s)) :
    s.restoreRecord r = s.book .tableFull (.table r.tag .fixtureTable) := by
  unfold State.restoreRecord State.restoreFixture
  simp only [hq, he, State.createFixture_noPlace hplace]

/-- A record that is not queued and cancels nothing afresh is merged. -/
theorem State.restoreRecord_plain (hq : r.queued = none) (he : s.fixture r.tag = some e)
    (h : (∀ sch, e.standing ≠ .scheduled sch .cancelled) ∨ (∀ a, keptKind r ≠ .impulse a)) : s.restoreRecord r = s.updateFixture r.tag (FixtureEntry.merged r) := by
  by_cases hc : ∃ sch, e.standing = .scheduled sch .cancelled
  · obtain ⟨sch, hst⟩ := hc
    rw [State.restoreRecord_cancelled hq he hst]
    refine State.cancelEffect_other (fun x hx a ha => ?_)
    cases (State.updateFixture_found (f := FixtureEntry.merged r) (fun _ => rfl) he).symm.trans hx
    exact h.elim (fun hnot => hnot sch hst) (fun hnot => hnot a ((recordKind_eq r).symm.trans ha))
  · exact State.restoreRecord_merged hq he (not_exists.mp hc)

end

/-! ### Pass records (R82, R175) -/

section
variable {s : State} {r : PassRec} {p : PassEntry} {i : Nat}

/-- The entry of a pass record that no announced pass takes. -/
def restoredPass (r : PassRec) : PassEntry := { id := r.id, members := r.members, sale := none, owner := r.owner }

/-- The propagation of a pass record: none where the record has no owner. -/
def State.reachRestored (r : PassRec) (members : List Tag) (s : State) : State := if r.owner = .none then s else s.propagate r.id members

theorem State.restorePass_found (hp : s.pass r.id = some p) :
    s.restorePass r = State.reachRestored r p.members (s.updatePass r.id (fun p => { p with owner := r.owner })) := by
  unfold State.restorePass
  simp only [hp]
  rfl

theorem State.restorePass_new (hp : s.pass r.id = none) (hplace : placeIn s.passes (passEvictable s) i) :
    s.restorePass r = State.reachRestored r r.members (s.setPasses (s.passes.set i (some (restoredPass r)))) := by
  unfold State.restorePass
  simp only [hp, State.createPass_place hplace]
  rfl

theorem State.restorePass_noPlace (hp : s.pass r.id = none) (hplace : noPlaceIn s.passes (passEvictable s)) :
    s.restorePass r = s.book .tableFull (.table (r.id.setWidth 16) .passTable) := by
  unfold State.restorePass
  simp only [hp, State.createPass_noPlace hplace]
  rfl

theorem State.reachRestored_passes (s : State) (r : PassRec) (members : List Tag) : (State.reachRestored r members s).passes = s.passes := by
  unfold State.reachRestored
  split
  · rfl
  · exact (s.propagate_frame r.id members) .passes (by simp)

/-- What the propagation of a pass record leaves, seen from a state with the same fixtures and conditions. -/
theorem State.reachRestored_spec {u : State} (hframe : changesOnly [.passes, .store] s u) (members : List Tag) :
    changesOnly [.fixtures, .passes, .conds, .store] s (State.reachRestored r members u) ∧ condsOnly [.entitlementChanged] s (State.reachRestored r members u) ∧
      (r.owner = .none → (State.reachRestored r members u).fixtures = s.fixtures ∧ (State.reachRestored r members u).conds = s.conds) ∧
      (r.owner ≠ .none → propagationBooked members s (State.reachRestored r members u) ∧
        (∀ t, s.fixture t = none → (State.reachRestored r members u).fixture t = none) ∧
        ∀ t e, s.fixture t = some e → ∃ e', (State.reachRestored r members u).fixture t = some e' ∧ propagated r.id members e e') := by
  have hfixtures : u.fixtures = s.fixtures := hframe .fixtures (by simp)
  have hconds : u.conds = s.conds := hframe .conds (by simp)
  unfold State.reachRestored
  by_cases howner : r.owner = .none
  · rw [if_pos howner]
    exact ⟨changesOnly_mono hframe (by simp), condsOnly_of_eq hconds, fun _ => ⟨hfixtures, hconds⟩, fun h => absurd howner h⟩
  · obtain ⟨-, honly, hbooked, hnone, hsome⟩ := u.propagate_spec r.id members
    have hlook := State.fixture_of_same hfixtures
    rw [if_neg howner]
    exact ⟨changesOnly_trans (changesOnly_mono hframe (by simp)) (changesOnly_mono (u.propagate_frame r.id members) (by simp)),
      condsOnly_trans (condsOnly_of_eq hconds) honly, fun h => absurd h howner, fun _ => ⟨propagationBooked_of_same hfixtures hconds hbooked,
        fun t ht => hnone t ((hlook t).trans ht), fun t e he => hsome t e ((hlook t).trans he)⟩⟩

end

end Sys2Proof.Machine

/-! Proofs: the section reads of the restore, and the one step that ends it (R172 to R175, R161; O58). -/

namespace Sys2Proof.Machine

open Sys2Proof.Safety

set_option Elab.async false

/-! ### What a step enters in the log (R87, R108, R175) -/

/-- A step makes `n` log entries within the log's capacity, and marks S0 and S1 exactly when it makes one. -/
def entersLog (s t : State) : Prop :=
  ∃ n, t.log.entries.length = s.log.entries.length + n ∧ t.log.next = s.log.next + BitVec.ofNat 32 n ∧ (0 < n → t.log.entries.length ≤ 64) ∧
    t.store.dirty.s0 = (s.store.dirty.s0 || decide (0 < n)) ∧ t.store.dirty.s1 = (s.store.dirty.s1 || decide (0 < n))

theorem entersLog.refl (s : State) : entersLog s s := ⟨0, rfl, (BitVec.add_zero _).symm, nofun, by simp, by simp⟩

theorem entersLog.trans {s u t : State} (h : entersLog s u) (h' : entersLog u t) : entersLog s t := by
  obtain ⟨m, hlen, hnext, hcap, hs0, hs1⟩ := h
  obtain ⟨n, hlen', hnext', hcap', hs0', hs1'⟩ := h'
  have hmark : decide (0 < m + n) = (decide (0 < m) || decide (0 < n)) := by
    rw [← Bool.decide_or]
    exact decide_eq_decide.mpr (by omega)
  refine ⟨m + n, by omega, ?_, fun _ => ?_, ?_, ?_⟩
  · rw [hnext', hnext]
    bv_omega
  · rcases Nat.eq_zero_or_pos n with rfl | hn
    · have := hcap (by omega)
      omega
    · exact hcap' hn
  · rw [hs0', hs0, hmark, Bool.or_assoc]
  · rw [hs1', hs1, hmark, Bool.or_assoc]

/-- A step that leaves the log and its marks enters nothing. -/
theorem entersLog_of_same {s t : State} (hlog : t.log = s.log) (hs0 : t.store.dirty.s0 = s.store.dirty.s0) (hs1 : t.store.dirty.s1 = s.store.dirty.s1) : entersLog s t :=
  ⟨0, by rw [hlog]; rfl, by rw [hlog]; exact (BitVec.add_zero _).symm, nofun, by simp [hs0], by simp [hs1]⟩

theorem entersLog_of_marksFollow {s t : State} (h : marksFollow s t) (hpurse : t.purse = s.purse) (hlog : t.log = s.log) : entersLog s t := by
  obtain ⟨-, h0, h1, -⟩ := h
  refine entersLog_of_same hlog (Bool.eq_iff_iff.mpr ?_) (Bool.eq_iff_iff.mpr ?_)
  · simpa [hpurse, hlog] using h0
  · simpa [hlog] using h1

theorem entersLog_of_frame {bs : List Block} {s t : State} (h : changesOnly bs s t) (hlog : .log ∉ bs) (hstore : .store ∉ bs) : entersLog s t :=
  entersLog_of_same (h .log hlog) (congrArg (fun r => r.dirty.s0) (h .store hstore : t.store = s.store)) (congrArg (fun r => r.dirty.s1) (h .store hstore : t.store = s.store))

theorem entersLog_foldl {α : Type} {f : State → α → State} (h : ∀ s a, entersLog s (f s a)) (xs : List α) : ∀ s, entersLog s (xs.foldl f s) := by
  induction xs with
  | nil => exact fun s => entersLog.refl s
  | cons x xs ih => exact fun s => (h s x).trans (ih _)

/-- The marks of S0 and S1 follow the next sequence number: at most 64 entries are made, and the number does not come back. -/
theorem entersLog.marks {s t : State} (h : entersLog s t) : (t.store.dirty.s0 = true ↔ s.store.dirty.s0 = true ∨ t.log.next ≠ s.log.next) ∧
    (t.store.dirty.s1 = true ↔ s.store.dirty.s1 = true ∨ t.log.next ≠ s.log.next) := by
  obtain ⟨n, hlen, hnext, hcap, hs0, hs1⟩ := h
  have hmoved : t.log.next ≠ s.log.next ↔ 0 < n := by
    rw [hnext]
    constructor
    · intro hne
      refine Classical.byContradiction fun hnot => ?_
      rw [Nat.eq_zero_of_not_pos hnot] at hne
      exact hne (BitVec.add_zero _)
    · intro hn heq
      have hle : n ≤ 64 := by
        have := hcap hn
        omega
      bv_omega
  rw [hs0, hs1, hmoved]
  simp

theorem State.refund_entersLog {s : State} (cause : Cause) (t : Tag) (a : Credit) (hroom : s.log.entries.length < 64) : entersLog s (s.refund cause t a) := by
  have hstore := s.refund_dirtied cause t a
  have hlen : (s.refund cause t a).log.entries.length = s.log.entries.length + 1 := List.length_append
  exact ⟨1, hlen, rfl, fun _ => hlen ▸ hroom, by rw [hstore]; simp, by rw [hstore]; simp⟩

theorem State.cancelEffect_entersLog (s : State) (t : Tag) : entersLog s (s.cancelEffect t) := by
  by_cases himpulse : ∃ e a, s.fixture t = some e ∧ e.kind = .impulse a
  · obtain ⟨e, a, he, ha⟩ := himpulse
    by_cases hfull : 64 ≤ s.log.entries.length
    · rw [State.cancelEffect_atFull he ha hfull]
      exact entersLog_of_marksFollow (s.setRefunds_marksFollow (s.refunds ++ [t])) rfl rfl
    · have hfixture := entersLog_of_marksFollow (State.updateFixture_marksFollow (s.refund .operator t a) t (fun e => { e with kind := .none, viewed := false })) rfl rfl
      rw [State.cancelEffect_atRoom he ha (Nat.not_le.mp hfull)]
      exact (s.refund_entersLog .operator t a (Nat.not_le.mp hfull)).trans (hfixture.trans
        ((entersLog_of_frame (State.bookNearlyFull_frame _) (by simp) (by simp)).trans (entersLog_of_frame (State.bookEntitlement_frame _ t) (by simp) (by simp))))
  · rw [State.cancelEffect_other (fun x hx a ha => himpulse ⟨x, a, hx, ha⟩)]
    exact entersLog.refl s

theorem State.joinRefunds_entersLog (s : State) (t : Tag) : entersLog s (s.joinRefunds t) := by
  unfold State.joinRefunds
  split
  · exact entersLog.refl s
  · exact entersLog_of_marksFollow (s.setRefunds_marksFollow _) rfl rfl

theorem State.restoreRecord_entersLog (s : State) (r : FixtureRec) : entersLog s (s.restoreRecord r) := by
  have hupdate : ∀ f, entersLog s (s.updateFixture r.tag f) := fun f => entersLog_of_marksFollow (s.updateFixture_marksFollow r.tag f) rfl rfl
  have hcreate : ∀ e u, s.createFixture e = some u → entersLog s u := fun e u h =>
    entersLog_of_marksFollow (State.createFixture_marksFollow h) (State.createFixture_framed h).purse (State.createFixture_framed h).log
  have hbook : ∀ k d, entersLog s (s.book k d) := fun k d => entersLog_of_frame (s.book_spec k d).1 (by simp) (by simp)
  unfold State.restoreRecord State.restoreQueued State.restoreFixture
  split
  · split
    · exact (hupdate _).trans (State.joinRefunds_entersLog _ _)
    · split
      · exact (hcreate _ _ ‹_›).trans (State.joinRefunds_entersLog _ _)
      · exact hbook _ _
  · split
    · simp only []
      split
      · exact (hupdate _).trans (State.cancelEffect_entersLog _ _)
      · exact hupdate _
    · split
      · exact hcreate _ _ ‹_›
      · exact hbook _ _

theorem State.restorePass_entersLog (s : State) (r : PassRec) : entersLog s (s.restorePass r) := by
  have hreach : ∀ (u : State) members, entersLog u (State.reachRestored r members u) := by
    intro u members
    unfold State.reachRestored
    split
    · exact entersLog.refl u
    · have hframe := u.propagate_frame r.id members
      exact entersLog_of_marksFollow (u.propagate_spec r.id members).1 (hframe .purse (by simp)) (hframe .log (by simp))
  cases hp : s.pass r.id with
  | some p =>
    rw [State.restorePass_found hp]
    exact (entersLog_of_marksFollow (s.updatePass_marksFollow r.id (fun p => { p with owner := r.owner })) rfl rfl).trans (hreach _ _)
  | none =>
    cases hplace : allocate s.passes (PassEntry.evictKey s.now) with
    | some i =>
      rw [State.restorePass_new hp (placeIn_of_allocate (passRanks s _) hplace)]
      exact (entersLog_of_marksFollow (s.setPasses_marksFollow (s.passes.set i (some (restoredPass r))) List.length_set) rfl rfl).trans (hreach _ _)
    | none =>
      rw [State.restorePass_noPlace hp (noPlaceIn_of_allocate (passRanks s _) hplace)]
      exact entersLog_of_frame (s.book_spec .tableFull (.table (r.id.setWidth 16) .passTable)).1 (by simp) (by simp)

/-! ### The conditions that the records book (R74, R82, R108, R175) -/

/-- The conditions that a record can book. -/
def recordConds : List CondKind := [.tableFull, .refundWaiting, .entitlementChanged, .logNearlyFull]

theorem condsOnly_sub {ks ks' : List CondKind} {s t : State} (h : condsOnly ks s t) (hsub : ∀ k ∈ ks, k ∈ ks') : condsOnly ks' s t :=
  fun k hk => h k (fun hmem => hk (hsub k hmem))

theorem condsOnly_foldl {α : Type} {f : State → α → State} {ks : List CondKind} (h : ∀ s a, condsOnly ks s (f s a)) (xs : List α) : ∀ s, condsOnly ks s (xs.foldl f s) := by
  induction xs with
  | nil => exact fun s => condsOnly_refl _ s
  | cons x xs ih => exact fun s => condsOnly_trans (h s x) (ih _)

theorem State.cancelEffect_conds (s : State) (t : Tag) : condsOnly recordConds s (s.cancelEffect t) := by
  by_cases himpulse : ∃ e a, s.fixture t = some e ∧ e.kind = .impulse a
  · obtain ⟨e, a, he, ha⟩ := himpulse
    by_cases hfull : 64 ≤ s.log.entries.length
    · obtain ⟨-, -, -, -, honly, -, -⟩ := State.cancelEffect_waits he ha hfull
      exact condsOnly_sub honly (by simp [recordConds])
    · obtain ⟨-, -, -, -, -, honly, -⟩ := State.cancelEffect_refunded he ha (Nat.not_le.mp hfull)
      exact condsOnly_sub honly (by simp [recordConds])
  · rw [State.cancelEffect_other (fun x hx a ha => himpulse ⟨x, a, hx, ha⟩)]
    exact condsOnly_refl _ s

theorem State.restoreRecord_conds (s : State) (r : FixtureRec) : condsOnly recordConds s (s.restoreRecord r) := by
  have hcreate : ∀ e u, s.createFixture e = some u → condsOnly recordConds s u := fun e u h => condsOnly_of_eq (State.createFixture_framed h).conds
  have hjoin : ∀ u : State, condsOnly recordConds s u → condsOnly recordConds s (u.joinRefunds r.tag) := fun u h =>
    condsOnly_trans h (condsOnly_of_eq ((u.joinRefunds_frame r.tag) .conds (by simp)))
  have hbook : ∀ d, condsOnly recordConds s (s.book .tableFull d) := fun d => condsOnly_sub (s.book_spec .tableFull d).2.2 (by simp [recordConds])
  unfold State.restoreRecord State.restoreQueued State.restoreFixture
  split
  · split
    · exact hjoin _ (condsOnly_of_eq rfl)
    · split
      · exact hjoin _ (hcreate _ _ ‹_›)
      · exact hbook _
  · split
    · simp only []
      split
      · exact condsOnly_trans (t := s.updateFixture r.tag _) (condsOnly_of_eq rfl) (State.cancelEffect_conds _ _)
      · exact condsOnly_of_eq rfl
    · split
      · exact hcreate _ _ ‹_›
      · exact hbook _

theorem State.restorePass_conds (s : State) (r : PassRec) : condsOnly recordConds s (s.restorePass r) := by
  have hreach : ∀ (u : State) members, changesOnly [.passes, .store] s u → condsOnly recordConds s (State.reachRestored r members u) := fun u members h =>
    condsOnly_sub (State.reachRestored_spec (r := r) h members).2.1 (by simp [recordConds])
  cases hp : s.pass r.id with
  | some p =>
    rw [State.restorePass_found hp]
    exact hreach _ _ (s.updatePass_frame r.id (fun p => { p with owner := r.owner }))
  | none =>
    cases hplace : allocate s.passes (PassEntry.evictKey s.now) with
    | some i =>
      rw [State.restorePass_new hp (placeIn_of_allocate (passRanks s _) hplace)]
      exact hreach _ _ (s.setPasses_frame _)
    | none =>
      rw [State.restorePass_noPlace hp (noPlaceIn_of_allocate (passRanks s _) hplace)]
      exact condsOnly_sub (s.book_spec .tableFull (.table (r.id.setWidth 16) .passTable)).2.2 (by simp [recordConds])

theorem State.restoreRecords_entersLog (s : State) (f : S2Fields) : entersLog s (s.restoreRecords f) :=
  (entersLog_foldl (fun s r => s.restoreRecord_entersLog r) f.fixtures s).trans (entersLog_foldl (fun s r => s.restorePass_entersLog r) f.passes _)

theorem State.restoreRecords_conds (s : State) (f : S2Fields) : condsOnly recordConds s (s.restoreRecords f) :=
  condsOnly_trans (condsOnly_foldl (fun s r => s.restoreRecord_conds r) f.fixtures s) (condsOnly_foldl (fun s r => s.restorePass_conds r) f.passes _)

end Sys2Proof.Machine

/-! Proofs: the step that ends the restore, and the section reads (R161, R172 to R175); O58. -/

namespace Sys2Proof.Machine

open Sys2Proof.Safety

set_option Elab.async false

/-! ### The queue is served at the end of the restore (R112, R175, assumption logs 28 and 38) -/

/-- What the serving of the queue leaves in the step that ends the restore: the front is served, and the rest waits. -/
structure servedRestored (s : State) (tags rest : List Tag) (t : State) : Prop where
  serves : ∃ w, served s tags rest w ∧ changesOnly [.conds] w t
  only : condsOnly [.refundWaiting, .logNearlyFull] s t
  nearly : tags ≠ [] → t.conds.logNearlyFull = nearlyFullAfter t.log.entries.length s.conds.logNearlyFull
  nearlyStands : tags = [] → t.conds.logNearlyFull = s.conds.logNearlyFull
  idle : s.refunds = [] → t.conds.refundWaiting = s.conds.refundWaiting
  left : rest ≠ [] → t.conds.refundWaiting = s.conds.refundWaiting.book (.length rest.length)
  emptied : rest = [] → s.refunds ≠ [] → t.conds.refundWaiting = { booked := false, count := 0, data := none }

theorem State.serveRestored_eq {s w : State} {tags rest : List Tag} (hq : s.refunds = tags ++ rest) (hw : s.serveRefunds = w) (hrest : w.refunds = rest) :
    s.serveRestored = if rest ≠ [] ∧ tags = [] then (w.settleQueue s.refunds).book .refundWaiting (.length rest.length) else w.settleQueue s.refunds := by
  have hkept : (w.settleQueue s.refunds).refunds = rest := (w.settleQueue_frame s.refunds .refunds (by simp)).trans hrest
  have hlen : rest.length = s.refunds.length ↔ tags = [] := by
    rw [hq, List.length_append, ← List.length_eq_zero_iff]
    omega
  unfold State.serveRestored
  rw [hw]
  simp only [hkept, hlen]

theorem servedRestored_of_served {s w : State} {tags rest : List Tag} (hserved : served s tags rest w) (hq : s.refunds = tags ++ rest) (hw : s.serveRefunds = w) :
    servedRestored s tags rest s.serveRestored := by
  have heq := State.serveRestored_eq hq hw hserved.refunds
  obtain ⟨honly, hidle, hempty, hleft, hnearly⟩ := State.settleQueue_conds (tags := tags) hserved.refunds
  rw [← hq] at honly hidle hempty hleft hnearly
  have hconds : w.conds = s.conds := hserved.frame .conds (by simp)
  have hsettle := w.settleQueue_frame s.refunds
  have hlog : (w.settleQueue s.refunds).log = w.log := hsettle .log (by simp)
  by_cases hcase : rest ≠ [] ∧ tags = []
  · obtain ⟨hrest, htags⟩ := hcase
    have hstand := (hidle htags).trans hconds
    obtain ⟨hbook, hget, hbooked⟩ := (w.settleQueue s.refunds).book_spec .refundWaiting (.length rest.length)
    have hstarted := condsOnly_of_eq (ks := [.refundWaiting, .logNearlyFull]) hstand
    rw [if_pos ⟨hrest, htags⟩] at heq
    rw [heq]
    exact ⟨⟨w, hserved, changesOnly_trans hsettle hbook⟩, condsOnly_trans hstarted (condsOnly_sub hbooked (by simp)), fun hne => absurd htags hne,
      fun _ => (hbooked .logNearlyFull (by simp)).trans (congrArg Conditions.logNearlyFull hstand), fun hnil => absurd (List.append_eq_nil_iff.mp (hq.symm.trans hnil)).2 hrest,
      fun _ => hget.trans (congrArg (fun c : Conditions => c.refundWaiting.book (.length rest.length)) hstand), fun hnil => absurd hnil hrest⟩
  · rw [if_neg hcase] at heq
    have hsome : rest ≠ [] → tags ≠ [] := fun hrest htags => hcase ⟨hrest, htags⟩
    rw [heq]
    refine ⟨⟨w, hserved, hsettle⟩, condsOnly_trans (condsOnly_of_eq hconds) honly, fun hne => ?_, fun hnil => ?_, fun hnil => ?_, fun hne => ?_, fun hnil hne => ?_⟩
    · rw [hnearly hne, hlog, hconds]
    · rw [hidle hnil, hconds]
    · rw [hidle (List.append_eq_nil_iff.mp (hq.symm.trans hnil)).1, hconds]
    · rw [hleft (hsome hne) hne, hconds]
    · exact hempty (fun htags => hne (by rw [hq, htags, hnil]; rfl)) hnil

theorem State.serveRestored_spec (s : State) :
    servedRestored s (s.refunds.take (64 - s.log.entries.length)) (s.refunds.drop (64 - s.log.entries.length)) s.serveRestored :=
  servedRestored_of_served (serveFrom_served s.refunds s rfl) (List.take_append_drop _ _).symm rfl

theorem served.entersLog {s w : State} {tags rest : List Tag} (h : served s tags rest w) (hcap : 0 < tags.length → s.log.entries.length + tags.length ≤ 64) :
    entersLog s w := by
  refine ⟨tags.length, h.count, h.next, fun hpos => h.count ▸ hcap hpos, ?_, ?_⟩
  · rw [h.marks]
  · rw [h.marks]

theorem State.serveRestored_entersLog (s : State) : entersLog s s.serveRestored := by
  obtain ⟨⟨w, hserved, hframe⟩, -⟩ := s.serveRestored_spec
  refine (hserved.entersLog fun hpos => ?_).trans (entersLog_of_frame hframe (by simp) (by simp))
  rw [List.length_take] at hpos ⊢
  omega

/-! ### Section reads (R172 to R174) -/

section
variable {α : Type} {s : State} {x : SectionSet}

theorem Judged.isLost_iff (j : Judged α) : j.isLost = true ↔ j = .lost := by cases j <;> simp [Judged.isLost]

theorem State.bookIfLost_lost {j : Judged α} (h : j = .lost) : s.bookIfLost j x = s.book .storeLost (.sections x) := if_pos ((j.isLost_iff).mpr h)

theorem State.bookIfLost_kept {j : Judged α} (h : j ≠ .lost) : s.bookIfLost j x = s := if_neg (mt (j.isLost_iff).mp h)

theorem State.bookIfLost_eq (j : Judged α) : s.bookIfLost j x = { s with conds := (s.bookIfLost j x).conds } := by
  by_cases h : j = .lost
  · rw [State.bookIfLost_lost h]
    rfl
  · rw [State.bookIfLost_kept h]

theorem State.bookIfLost_conds [DecidableEq (Judged α)] (j : Judged α) :
    (s.bookIfLost j x).conds = if j = .lost then (s.book .storeLost (.sections x)).conds else s.conds := by
  by_cases h : j = .lost
  · rw [if_pos h, State.bookIfLost_lost h]
  · rw [if_neg h, State.bookIfLost_kept h]

theorem State.bookIfLost_only (j : Judged α) : condsOnly [.storeLost] s (s.bookIfLost j x) := by
  by_cases h : j = .lost
  · rw [State.bookIfLost_lost h]
    exact (s.book_spec _ _).2.2
  · rw [State.bookIfLost_kept h]
    exact condsOnly_refl _ s

end

section
variable {s : State} (hstop : s.store.awaitingStop = false)
include hstop

theorem State.sectionRead_s0 (x : SectionBytes S0Fields) (hst : s.store.st = .restoring none none) : s.sectionRead (.s0 x) =
    State.bus (sectionReadOf .s1) ((s.bookIfLost (judgeS0 x) (only .s0)).setStore (.restoring (some (judgeS0 x)) none)) := by
  unfold State.sectionRead
  simp only [hstop, hst]
  rfl

theorem State.sectionRead_s1 {j0 : Judged S0Fields} (x : SectionBytes S1Fields) (hst : s.store.st = .restoring (some j0) none) : s.sectionRead (.s1 x) =
    State.bus (sectionReadOf .s2) ((s.bookIfLost (judgeS1 x) (only .s1)).setStore (.restoring (some j0) (some (judgeS1 x)))) := by
  unfold State.sectionRead
  simp only [hstop, hst]
  rfl

theorem State.sectionRead_s2 {j0 : Judged S0Fields} {j1 : Judged (List LogEntry)} (x : SectionBytes S2Fields) (hst : s.store.st = .restoring (some j0) (some j1)) :
    s.sectionRead (.s2 x) = (s.bookIfLost (judgeS2 x) (only .s2)).endRestore j0 j1 (judgeS2 x) .idle := by
  unfold State.sectionRead
  simp only [hstop, hst]
  rfl

end

end Sys2Proof.Machine

/-! Proofs: section reads restore in order (R161, R172 to R175); settles O58. -/

namespace Sys2Proof.Machine

open Sys2Proof.Safety

set_option Elab.async false

theorem s2Image_of_same {s t : State} (hfixtures : t.fixtures = s.fixtures) (hrefunds : t.refunds = s.refunds) (hpasses : t.passes = s.passes) :
    t.s2Image = s.s2Image := by
  have hlook : t.fixture = s.fixture := funext (State.fixture_of_same hfixtures)
  unfold State.s2Image
  rw [hlook, hfixtures, hrefunds, hpasses]

section
variable (j0 : Judged S0Fields) (j1 : Judged (List LogEntry)) (j2 : Judged S2Fields) (st : RetentionState) (s : State)

/-- The state whose tables have taken the records of S2. -/
def State.tookRecords : State := (s.tookCredit j0 j1).restoreRecords (recordsOf j2)

theorem State.endRestore_serves :
    changesOnly [.store, .placement, .reports, .orders] (s.tookRecords j0 j1 j2).serveRestored (s.endRestore j0 j1 j2 st) := by
  have hsettled : changesOnly [.store, .placement, .reports, .orders] (s.tookRecords j0 j1 j2).serveRestored (s.restoredTables j0 j1 j2) := by
    rw [State.restoredTables_eq]
    intro b hb; cases b <;> first | rfl | simp at hb
  exact changesOnly_trans hsettled (s.endRestore_after j0 j1 j2 st)

theorem State.endRestore_s2Image : (s.endRestore j0 j1 j2 st).s2Image = (s.tookRecords j0 j1 j2).serveRestored.s2Image := by
  have hframe := s.endRestore_serves j0 j1 j2 st
  exact s2Image_of_same (hframe .fixtures (by simp)) (hframe .refunds (by simp)) (hframe .passes (by simp))

theorem State.endRestore_dirty : (s.endRestore j0 j1 j2 st).store.dirty = { (s.tookRecords j0 j1 j2).serveRestored.store.dirty with
    s2 := s.store.dirty.s2 || !j2.isGood || (s.endRestore j0 j1 j2 st).s2Image != recordsOf j2 } := by
  rw [State.endRestore_s2Image]
  exact congrArg Retention.dirty (s.endRestore_store j0 j1 j2 st)

/-- S2's mark after the restore: it stood, the section was not good, or its image is not the records read (assumption log 14). -/
theorem State.endRestore_s2 : (s.endRestore j0 j1 j2 st).store.dirty.s2 = true ↔
    s.store.dirty.s2 = true ∨ ∀ f, j2 = .good f → (s.endRestore j0 j1 j2 st).s2Image ≠ f := by
  rw [State.endRestore_dirty]
  cases j2 with
  | good f => simp [Judged.isGood, recordsOf]
  | blank => simp [Judged.isGood]
  | lost => simp [Judged.isGood]

theorem State.tookRecords_lost : (s.tookRecords j0 j1 j2).serveRestored.conds.storeLost = (s.tookCredit j0 j1).conds.storeLost := by
  have hserved := (State.serveRestored_spec (s.tookRecords j0 j1 j2)).only .storeLost (by simp)
  have hrecords := State.restoreRecords_conds (s.tookCredit j0 j1) (recordsOf j2) .storeLost (by simp [recordConds])
  exact hserved.trans hrecords

end

/-- A restore without records and without a refund queue leaves the tables and every condition but STORE_LOST. -/
theorem State.endRestore_idle {j0 : Judged S0Fields} {j1 : Judged (List LogEntry)} {j2 : Judged S2Fields} {st : RetentionState} {s : State}
    (hj : recordsOf j2 = { fixtures := [], passes := [] }) (hq : s.refunds = []) :
    (s.endRestore j0 j1 j2 st).purse = (restoredCredit j0 j1).purse ∧ (s.endRestore j0 j1 j2 st).log = (restoredCredit j0 j1).log ∧
      (s.endRestore j0 j1 j2 st).fixtures = s.fixtures ∧ (s.endRestore j0 j1 j2 st).passes = s.passes ∧
      (s.endRestore j0 j1 j2 st).store.dirty.s0 = (s.store.dirty.s0 || (restoredCredit j0 j1).dirty0) ∧
      (s.endRestore j0 j1 j2 st).store.dirty.s1 = (s.store.dirty.s1 || (restoredCredit j0 j1).dirty1) ∧ condsOnly [.storeLost] s (s.endRestore j0 j1 j2 st) := by
  obtain ⟨hcredit, honly, hpurse, hlog, hmarks, -⟩ := s.tookCredit_spec j0 j1
  have hserves := s.endRestore_serves j0 j1 j2 st
  have hdirty := s.endRestore_dirty j0 j1 j2 st
  have hstand : (s.tookRecords j0 j1 j2).serveRestored = s.tookCredit j0 j1 := by
    rw [State.tookRecords, hj]
    exact State.serveRestored_idle ((hcredit .refunds (by simp)).trans hq)
  rw [hstand] at hserves hdirty
  refine ⟨(hserves .purse (by simp)).trans hpurse, (hserves .log (by simp)).trans hlog, (hserves .fixtures (by simp)).trans (hcredit .fixtures (by simp)),
    (hserves .passes (by simp)).trans (hcredit .passes (by simp)), ?_, ?_, condsOnly_trans honly (condsOnly_of_eq (hserves .conds (by simp)))⟩
  · rw [hdirty, hmarks]
  · rw [hdirty, hmarks]

theorem recordsOf_of_notGood {j : Judged S2Fields} (h : ∀ f, j ≠ .good f) : recordsOf j = { fixtures := [], passes := [] } := by
  cases j with
  | good f => exact absurd rfl (h f)
  | blank => rfl
  | lost => rfl

/-- The marks of S0 and S1 after the restore follow the entries made since purse and log took their values. -/
theorem State.endRestore_marks (s : State) (j0 : Judged S0Fields) (j1 : Judged (List LogEntry)) (j2 : Judged S2Fields) (st : RetentionState) :
    ((s.endRestore j0 j1 j2 st).store.dirty.s0 = true ↔
        (s.tookCredit j0 j1).store.dirty.s0 = true ∨ (s.endRestore j0 j1 j2 st).log.next ≠ (s.tookCredit j0 j1).log.next) ∧
      ((s.endRestore j0 j1 j2 st).store.dirty.s1 = true ↔
        (s.tookCredit j0 j1).store.dirty.s1 = true ∨ (s.endRestore j0 j1 j2 st).log.next ≠ (s.tookCredit j0 j1).log.next) := by
  have hlog : (s.endRestore j0 j1 j2 st).log = (s.tookRecords j0 j1 j2).serveRestored.log := s.endRestore_serves j0 j1 j2 st .log (by simp)
  rw [State.endRestore_dirty, hlog]
  exact (((s.tookCredit j0 j1).restoreRecords_entersLog (recordsOf j2)).trans (s.tookRecords j0 j1 j2).serveRestored_entersLog).marks

/-- Entries of other tags stand at a cancellation. -/
theorem State.cancelEffect_fixture_other (s : State) {t u : Tag} (hu : u ≠ t) : (s.cancelEffect t).fixture u = s.fixture u := by
  by_cases himpulse : ∃ e a, s.fixture t = some e ∧ e.kind = .impulse a
  · obtain ⟨e, a, he, ha⟩ := himpulse
    by_cases hfull : 64 ≤ s.log.entries.length
    · exact State.fixture_of_same (State.cancelEffect_waits he ha hfull).1 u
    · exact (State.cancelEffect_refunded he ha (Nat.not_le.mp hfull)).2.1 u hu
  · rw [State.cancelEffect_other (fun x hx a ha => himpulse ⟨x, a, hx, ha⟩)]

theorem State.restoreRecord_fixture_other {s : State} {r : FixtureRec} {e : FixtureEntry} (hq : r.queued = none) (he : s.fixture r.tag = some e) {u : Tag}
    (hu : u ≠ r.tag) : (s.restoreRecord r).fixture u = s.fixture u := by
  obtain ⟨-, hothers⟩ := s.updateFixture_spec r.tag (FixtureEntry.merged r) (fun _ => rfl)
  by_cases hc : ∃ sch, e.standing = .scheduled sch .cancelled
  · obtain ⟨sch, hst⟩ := hc
    rw [State.restoreRecord_cancelled hq he hst]
    exact (State.cancelEffect_fixture_other _ hu).trans (hothers u hu)
  · rw [State.restoreRecord_merged hq he (not_exists.mp hc)]
    exact hothers u hu

/-- Settles O58: the reads by what has been judged, the end of the restore by its parts, and each record by the entry that it finds. -/
theorem sectionReadsRestoreInOrder : Obligations.SectionReadsRestoreInOrder := by
  refine ⟨fun s hstop => ⟨fun x hst => ?s0, fun x j0 hst => ?s1, fun x j0 j1 hst => ?s2, fun x j0 j1 f hst hgood => ?good⟩, fun s r sch hq => ⟨fun e he => ?requeued,
    fun hnone => ⟨State.restoreRecord_queuedFull hq hnone, fun i hplace => State.restoreRecord_queuedNew_spec hq hnone hplace⟩⟩,
    fun s r hq => ⟨fun hnone => ⟨State.restoreRecord_full hq hnone, fun i hplace => ?created⟩, fun e he => ⟨?others, fun hplain => ?merged, fun sch a hst hkind => ?cancelled⟩⟩,
    fun s r members => ⟨fun p hp hmembers => ?found, fun hnone hmembers => ⟨State.restorePass_noPlace hnone, fun i hplace => ?placed⟩, fun hcases => ?reach⟩⟩
  case s0 =>
    refine congrArg Host.Outcome.next ((State.sectionRead_s0 hstop x hst).trans ?_)
    rw [State.bookIfLost_eq, State.bookIfLost_conds]
    rfl
  case s1 =>
    refine congrArg Host.Outcome.next ((State.sectionRead_s1 hstop x hst).trans ?_)
    rw [State.bookIfLost_eq, State.bookIfLost_conds]
    rfl
  case s2 =>
    have hexec := congrArg (fun t => (Host.Outcome.next t : Host.Outcome State Fault Refusal)) (State.sectionRead_s2 hstop x hst)
    have hbooked := State.bookIfLost_eq (s := s) (x := only .s2) (judgeS2 x)
    have hconds := State.bookIfLost_conds (s := s) (x := only .s2) (judgeS2 x)
    have honly := State.bookIfLost_only (s := s) (x := only .s2) (judgeS2 x)
    generalize s.bookIfLost (judgeS2 x) (only .s2) = u at *
    have hstart : changesOnly [.conds] s u := by
      rw [hbooked]
      intro b hb; cases b <;> first | rfl | simp at hb
    have hended := endRestore_restoreEnded j0 j1 (judgeS2 x) .idle u nofun
    have hframe := changesOnly_of_framed (bs := [.purse, .log, .fixtures, .refunds, .passes, .conds, .store, .placement, .reports, .orders])
      (u.endRestore_framed j0 j1 (judgeS2 x) .idle)
    have hstore := u.endRestore_store j0 j1 (judgeS2 x) .idle
    have hs2 := u.endRestore_s2 j0 j1 (judgeS2 x) .idle
    refine ⟨_, hexec, ?_, ?_, ?_, changesOnly_trans (changesOnly_mono hstart (by simp)) (changesOnly_mono hframe (by simp)), fun lost hlost => ?_, fun hnothing hq => ?_⟩
    · rw [hstore, hstart .store (by simp)]
    · rw [hbooked] at hended
      rw [hbooked]
      exact hended
    · rwa [hstart .store (by simp)] at hs2
    · have hlast : u.conds.storeLost = lost := by
        rw [hconds, hlost]
        by_cases hl : judgeS2 x = .lost
        · rw [if_pos hl, if_pos hl]
          rfl
        · rw [if_neg hl, if_neg hl]
      rw [← hlast]
      obtain ⟨-, -, -, -, -, hreconciled⟩ := u.tookCredit_spec j0 j1
      have hserves := u.endRestore_serves j0 j1 (judgeS2 x) .idle .conds (by simp)
      exact (congrArg Conditions.storeLost hserves).trans ((u.tookRecords_lost j0 j1 (judgeS2 x)).trans hreconciled)
    · have hrecords : recordsOf (judgeS2 x) = { fixtures := [], passes := [] } := by
        rcases hnothing with hnot | hempty
        · exact recordsOf_of_notGood hnot
        · rw [hempty]
          rfl
      obtain ⟨hpurse, hlog, hfixtures, hpasses, h0, h1, hidle⟩ := State.endRestore_idle (j0 := j0) (j1 := j1) (st := .idle) hrecords ((hstart .refunds (by simp)).trans hq)
      have hstored : u.store = s.store := hstart .store (by simp)
      rw [hstored] at h0 h1
      exact ⟨hpurse, hlog, hfixtures.trans (hstart .fixtures (by simp)), hpasses.trans (hstart .passes (by simp)), h0, h1, condsOnly_trans honly hidle⟩
  case good =>
    have hexec := congrArg (fun t => (Host.Outcome.next t : Host.Outcome State Fault Refusal)) (State.sectionRead_s2 hstop x hst)
    rw [hgood, State.bookIfLost_kept (by simp)] at hexec
    obtain ⟨hcredit, hlost, hpurse, hlog, hmarks, -⟩ := s.tookCredit_spec j0 j1
    obtain ⟨h0, h1⟩ := s.endRestore_marks j0 j1 (.good f) .idle
    have hserves := s.endRestore_serves j0 j1 (.good f) .idle
    have hrecords : s.tookRecords j0 j1 (.good f) = (s.tookCredit j0 j1).restoreRecords f := rfl
    obtain ⟨⟨w, hserved, hsettled⟩, honly, hnearly, hnearlyStands, hidle, hleft, hemptied⟩ := (s.tookRecords j0 j1 (.good f)).serveRestored_spec
    generalize s.tookRecords j0 j1 (.good f) = u at *
    have hend : changesOnly [.store, .placement, .reports, .orders, .conds] w (s.endRestore j0 j1 (.good f) .idle) :=
      changesOnly_trans (changesOnly_mono hsettled (by simp)) (changesOnly_mono hserves (by simp))
    have hconds : (s.endRestore j0 j1 (.good f) .idle).conds = u.serveRestored.conds := hserves .conds (by simp)
    have hentries : (s.endRestore j0 j1 (.good f) .idle).log = u.serveRestored.log := hserves .log (by simp)
    generalize s.endRestore j0 j1 (.good f) .idle = t at *
    have htaken : (u.refunds.take (64 - u.log.entries.length)).length = min u.refunds.length (64 - u.log.entries.length) := by
      rw [List.length_take, Nat.min_comm]
    have hlook := State.fixture_of_same (hend .fixtures (by simp))
    have hrest : t.refunds = u.refunds.drop (64 - u.log.entries.length) := (hend .refunds (by simp)).trans hserved.refunds
    have hnone : min u.refunds.length (64 - u.log.entries.length) = 0 ↔ u.refunds.take (64 - u.log.entries.length) = [] := by
      rw [← htaken, List.length_eq_zero_iff]
    rw [← hconds] at hnearly hnearlyStands hidle hleft hemptied
    rw [← hentries] at hnearly
    rw [← hrest] at hleft hemptied
    refine ⟨t, s.tookCredit j0 j1, u, hexec, hcredit, hlost, hpurse, hlog, hmarks, h0, h1, condsOnly_trans honly (condsOnly_of_eq hconds), fun m hm => ?_, hidle, hrecords, ?_, hrest, ?_, fun hnodup => ?_,
      fun tag htag => (hlook tag).trans (hserved.found tag htag), fun tag htag => (hlook tag).trans (hserved.other tag htag), hleft, hemptied⟩
    · by_cases hzero : m = 0
      · rw [if_pos hzero, hnearlyStands (hnone.mp (hm.symm.trans hzero))]
      · rw [if_neg hzero, hnearly (fun hnil => hzero (hm.trans (hnone.mpr hnil)))]
    · exact (hend .passes (by simp)).trans (hserved.frame .passes (by simp))
    · have hcount : t.log = w.log := hend .log (by simp)
      rw [hcount, hserved.count, htaken]
    · have hlogs : t.log = w.log := hend .log (by simp)
      have hpurses : t.purse = w.purse := hend .purse (by simp)
      obtain ⟨hrefunded, hmade⟩ := hserved.credit (hnodup.sublist (List.take_sublist _ _))
      rw [hlogs, hpurses, ← hmade, ← hserved.next]
      exact ⟨hrefunded, rfl⟩
  case requeued =>
    obtain ⟨hframe, hthis, hothers, hrefunds⟩ := State.restoreRecord_requeued_spec hq he
    exact ⟨hframe, hthis.trans (congrArg some (requeued_eq r sch e)), hothers, hrefunds⟩
  case created =>
    rw [State.restoreRecord_new hq hnone hplace, recordKind_eq]
    exact ⟨s.setFixtures_frame _, rfl⟩
  case others => exact fun u hu => State.restoreRecord_fixture_other hq he hu
  case merged =>
    rw [State.restoreRecord_plain hq he hplain, ← recordKind_eq]
    exact ⟨s.updateFixture_frame r.tag _, State.updateFixture_found (f := FixtureEntry.merged r) (fun _ => rfl) he⟩
  case cancelled =>
    have hmerged := State.updateFixture_found (f := FixtureEntry.merged r) (fun _ => rfl) he
    have hrecord : (e.merged r).kind = .impulse a := (recordKind_eq r).trans hkind
    rw [State.restoreRecord_cancelled hq he hst]
    refine ⟨fun hfull => ?_, fun hroom => ?_⟩
    · obtain ⟨hfixtures, hpurse, hlog, hrefunds, honly, -, -⟩ := State.cancelEffect_waits hmerged hrecord hfull
      refine ⟨(State.fixture_of_same hfixtures _).trans (hmerged.trans ?_), hrefunds, hpurse, hlog, honly⟩
      rw [← hrecord]
      rfl
    · obtain ⟨hthis, -, hpurse, hlog, hrefunds, honly, -⟩ := State.cancelEffect_refunded hmerged hrecord hroom
      exact ⟨hthis, hrefunds, hpurse, hlog, honly⟩
  case found =>
    obtain ⟨hthis, hothers⟩ := s.updatePass_spec r.id (fun p => { p with owner := r.owner }) (fun _ => rfl)
    have hlook := State.pass_of_same (State.reachRestored_passes (s.updatePass r.id (fun p => { p with owner := r.owner })) r p.members)
    rw [State.restorePass_found hp]
    exact ⟨(hlook _).trans (hthis.trans (by rw [hp]; rfl)), fun id' hid => (hlook id').trans (hothers id' hid)⟩
  case placed =>
    rw [State.restorePass_new hnone hplace]
    exact State.reachRestored_passes _ r r.members
  case reach =>
    rcases hcases with ⟨p, hp, rfl⟩ | ⟨hnone, rfl, i, hplace⟩
    · rw [State.restorePass_found hp]
      exact State.reachRestored_spec (s.updatePass_frame r.id _) p.members
    · rw [State.restorePass_new hnone hplace]
      exact State.reachRestored_spec (s.setPasses_frame _) r.members

end Sys2Proof.Machine
